-- ==== Sys2Proof/Word.lean ====
section
/-! DEFINITION. The word types of Brynast (spec/01 R24, spec/03 R87) and their plainest arithmetic. -/

namespace Sys2Proof

/-- A byte of memory or of a message. -/
abbrev Byte := BitVec 8
/-- An endpoint identifier (R24). -/
abbrev Eid := BitVec 12
/-- An incarnation (R24, R25). -/
abbrev Inc := BitVec 8
/-- A job identifier (R24). -/
abbrev JobId := BitVec 16
/-- A map generation (R24). -/
abbrev Gen := BitVec 16
/-- A request tag (R87). -/
abbrev Tag := BitVec 12
/-- A partition number (R24). -/
abbrev PartId := BitVec 6
/-- A global Block number (R24). -/
abbrev BlockId := BitVec 6
/-- A context identifier, 16 times the global Block plus the slot (R24). -/
abbrev CtxId := BitVec 10
/-- A global lane number; a port is named by its lowest lane (R57). -/
abbrev Lane := BitVec 9
/-- A Quarter. -/
abbrev QId := BitVec 2
/-- An engine of a Block: 0 gather, 1 reduce, 2 filter, 3 scoring (R396). -/
abbrev Eng := BitVec 2
/-- A tray port (R243). -/
abbrev TrayId := BitVec 4
/-- A traffic class. -/
abbrev Tc := BitVec 3
/-- A completion status code (R183). -/
abbrev Status := BitVec 5
/-- A 16 B slot of a flit or packet (R59). -/
abbrev Slot := BitVec 128
/-- A sub-tick count in nanoseconds (R31). -/
abbrev Ns := Fin 1000

/-- A sparse table: keys strictly rising, and no entry equal to the value an unlisted key holds. -/
abbrev Tbl (α : Type) := List (Nat × α)

end Sys2Proof
end

