-- ==== Sys2Proof/Syntax.lean ====
section
/-! DEFINITION. The commands of the block: one constructor of `Instr` for each row of spec/opcode_table.json, with its operands. -/

namespace Sys2Proof

/-- Where a control instruction comes from (R16, R374): the two management interfaces, or the CTLI at the head of the Square queue of Quarter `q`. -/
inductive Via where
  | pcie | i3c | tc0 (q : QId)
deriving DecidableEq, Repr

/-- A control instruction less OPC and SUB, which the command's row gives (R373). ARGLEN is `arglen`; `args` are the argument slots from slot 1. -/
structure CtlInsn where
  modf   : BitVec 8
  rsv    : BitVec 20
  arglen : BitVec 12
  imm    : BitVec 72
  args   : List Slot
deriving DecidableEq, Repr

/-- A flit (R59): link header, 15 slots, CRC; `fecBad` when one of its codewords was uncorrectable (R56). -/
structure Flit where
  hdr    : BitVec 64
  slots  : List Slot
  crc    : BitVec 64
  fecBad : Bool
deriving DecidableEq, Repr

/-- A join message: slots 0 to 2 of a JOIN flit (R73), which the commands carry whole. -/
structure JoinMsg where
  s0 : Slot
  s1 : Slot
  s2 : Slot
deriving DecidableEq, Repr

/-- The two forms of the link-local notice (R81). -/
inductive NoticeForm where
  | packet (hdr : Slot)
  | join (f : Flit)
deriving DecidableEq, Repr

/-- Where a refused lossless packet waits at a head (R98, R100). -/
inductive Place where
  | landing (lane : Lane) (tc : Tc)
  | direct (q : QId) (upper : Bool) (tc : Tc)
  | block (g : BlockId) (tc : Tc)
  | square (q : QId)
deriving DecidableEq, Repr

/-- Life-cycle states (R418). -/
inductive LifeCycle where
  | manufacture | provisioned | deployed | returned | scrapped
deriving DecidableEq, Repr

/-- Debug levels (R428). -/
inductive DebugLevel where
  | none | observe | invasive
deriving DecidableEq, Repr

/-- How a start-up step ended (R435, R436). `blkFail` marks the Blocks that failed the self-test of step 5. -/
inductive StepResult where
  | ok (lnkFull : BitVec 4) (blkFail : BitVec 64)
  | imageA
  | noImage
  | fuse
  | pll
  | d2d
deriving DecidableEq, Repr

/-- A SPDM transport (R423). -/
inductive Mctp where
  | pcie | i3c
deriving DecidableEq, Repr

/-- Where an uncorrectable error is found (R462). -/
inductive UeSite where
  | packet (q : QId) (n : BitVec 11)
  | line (p : PartId) (line : BitVec 45) (tray : Bool)
  | hotSlot (g : BlockId) (slot : BitVec 4)
  | bankWord (g : BlockId) (word : BitVec 19)
  | reqEntry (c : CtxId) (id : Nat)
  | issueState (c : CtxId)
  | parkRecord (c : CtxId)
  | collBuffer (g : BlockId) (n : BitVec 5) (dataHit : Bool)
  | collRecord (g : BlockId) (n : BitVec 5) (dataHit : Bool)
  | replay (g : BlockId)
  | transCache (p : PartId) (unit : BitVec 9) (page : BitVec 24)
  | lostLog (g : BlockId) (i : BitVec 12)
  | directory (g : BlockId)
  | conflictTable (g : BlockId)
  | txnRecord (g : BlockId)
  | metadata (p : PartId)
  | channelRetrain (g : BlockId) (ch : BitVec 4)
  | freeList (q : QId)
  | dieLink (q : QId)
  | mgmtCore
deriving DecidableEq, Repr

/-- Where a corrected error is found (R462, R470). -/
inductive CeSite where
  | fec (lane : Lane)
  | channelSymbol (q : QId) (c : BitVec 8)
  | channelRetry (q : QId) (c : BitVec 8)
  | blockWord (g : BlockId)
  | bufferWord (q : QId)
deriving DecidableEq, Repr

/-- The commands of Brynast, in the order of spec/opcode_table.json. A stage command names the context whose next
instruction it is; a packet command names the place whose head packet is taken. -/
inductive Instr where
  | mapsetBind (via : Via) (ci : CtlInsn)
  | mapsetRoute (via : Via) (ci : CtlInsn)
  | mapsetGroup (via : Via) (ci : CtlInsn)
  | mapsetCommit (via : Via) (ci : CtlInsn)
  | mapsetUnbind (via : Via) (ci : CtlInsn)
  | partsetCreate (via : Via) (ci : CtlInsn)
  | partsetResize (via : Via) (ci : CtlInsn)
  | partsetRelease (via : Via) (ci : CtlInsn)
  | partsetTray (via : Via) (ci : CtlInsn)
  | bankgive (via : Via) (ci : CtlInsn)
  | bankHandover (g : BlockId)
  | scrub (via : Via) (ci : CtlInsn)
  | jobkill (via : Via) (ci : CtlInsn)
  | ctxparkPark (via : Via) (ci : CtlInsn)
  | ctxparkResume (via : Via) (ci : CtlInsn)
  | tiermoveMove (via : Via) (ci : CtlInsn)
  | tiermoveRelease (via : Via) (ci : CtlInsn)
  | tiermoveEvacuate (via : Via) (ci : CtlInsn)
  | tiermoveConfig (via : Via) (ci : CtlInsn)
  | linkctlPortcfg (via : Via) (ci : CtlInsn)
  | linkctlRestart (via : Via) (ci : CtlInsn)
  | linkctlCredit (via : Via) (ci : CtlInsn)
  | linkctlAdmit (via : Via) (ci : CtlInsn)
  | linkctlTrunkent (via : Via) (ci : CtlInsn)
  | linkctlDead (via : Via) (ci : CtlInsn)
  | linkctlTicksrc (via : Via) (ci : CtlInsn)
  | linkctlQcfg (via : Via) (ci : CtlInsn)
  | linkctlBufcfg (via : Via) (ci : CtlInsn)
  | linkctlOrder (via : Via) (ci : CtlInsn)
  | linkctlTrunk (via : Via) (ci : CtlInsn)
  | linkctlShaper (via : Via) (ci : CtlInsn)
  | linkctlPolicer (via : Via) (ci : CtlInsn)
  | linkctlLoadcfg (via : Via) (ci : CtlInsn)
  | linkctlEgress (via : Via) (ci : CtlInsn)
  | linkctlManager (via : Via) (ci : CtlInsn)
  | linkctlTraycfg (via : Via) (ci : CtlInsn)
  | linkctlRemote (via : Via) (ci : CtlInsn)
  | calsetApply (via : Via) (ci : CtlInsn)
  | calsetRemove (via : Via) (ci : CtlInsn)
  | calsetSave (via : Via) (ci : CtlInsn)
  | calsetSaveDone (memUnits sdsUnits : BitVec 8)
  | submit (q : QId)
  | programImageLoaded (c : CtxId)
  | ld (c : CtxId)
  | st (c : CtxId)
  | stLostclr (c : CtxId)
  | move (c : CtxId)
  | fill (c : CtxId)
  | prefetch (c : CtxId)
  | aadd (c : CtxId)
  | amin (c : CtxId)
  | amax (c : CtxId)
  | acas (c : CtxId)
  | rjoin (c : CtxId)
  | rcontrib (c : CtxId)
  | rwait (c : CtxId)
  | gather (c : CtxId)
  | scatter (c : CtxId)
  | mcast (c : CtxId)
  | fscan (c : CtxId)
  | tallyClear (c : CtxId)
  | tallyAccum (c : CtxId)
  | tallyMerge (c : CtxId)
  | tallyImage (c : CtxId)
  | tallyFinal (c : CtxId)
  | score (c : CtxId)
  | simb (c : CtxId)
  | publish (c : CtxId)
  | publishDecision (g : BlockId)
  | publishComplete (g : BlockId)
  | hint (c : CtxId)
  | pin (c : CtxId)
  | loop (c : CtxId)
  | endloop (c : CtxId)
  | skip (c : CtxId)
  | waitt (c : CtxId)
  | waittExpiry (c : CtxId)
  | fence (c : CtxId)
  | yield (c : CtxId)
  | endProg (c : CtxId)
  | sliceStart (g : BlockId) (e : Eng)
  | sliceOverrun (g : BlockId) (e : Eng) (extra : BitVec 16)
  | sliceAbort (g : BlockId) (e : Eng)
  | contextSettled (c : CtxId)
  | contextPark (g : BlockId)
  | contextBringIn (g : BlockId)
  | streamConsPoll (c : CtxId)
  | dataFlit (lane : Lane) (f : Flit)
  | idleFlit (lane : Lane) (f : Flit)
  | alignDone (lane : Lane)
  | replayTimeout (lane : Lane)
  | lanesLocked (lane : Lane) (trained : BitVec 8)
  | trainTimeout (lane : Lane)
  | alignTimeout (lane : Lane)
  | retrainSuccess (lane : Lane)
  | retrainTimeout (lane : Lane)
  | lossOfSignal (lane : Lane)
  | jreq (lane : Lane) (f : Flit)
  | jconfirm (lane : Lane) (f : Flit)
  | jconfirmTimeout (lane : Lane)
  | joinDecisionTimeout (lane : Lane)
  | jreqResend (lane : Lane) (ns : Ns)
  | probeSend (lane : Lane) (ns : Ns)
  | probe (lane : Lane) (f : Flit) (ns turn : Ns)
  | echo (lane : Lane) (f : Flit) (ns : Ns)
  | notice (lane : Lane) (f : NoticeForm)
  | cableIn (group : BitVec 6)
  | cableOut (group : BitVec 6)
  | packetIngress (lane : Lane) (tc : Tc)
  | queueAdmissionRetry (p : Place)
  | reseqGapTimeout (trunk : BitVec 5) (tc : Tc)
  | packetEgress (lane : Lane) (ns : Ns)
  | ldRequest (g : BlockId)
  | stRequest (g : BlockId)
  | atRequest (g : BlockId)
  | pflistRequest (g : BlockId)
  | rdshared (g : BlockId)
  | rdown (g : BlockId)
  | wrinv (g : BlockId)
  | wrback (g : BlockId)
  | evict (g : BlockId)
  | lostclr (g : BlockId)
  | snpresp (g : BlockId)
  | snprespd (g : BlockId)
  | conflictTableServe (g : BlockId)
  | hotPinEnd (g : BlockId) (slot : BitVec 4)
  | snoopSlow (g : BlockId) (line : BitVec 45)
  | deathWalkDone (eid : Eid) (inc : Inc)
  | nakResponse (g : BlockId)
  | lddataResponse (g : BlockId)
  | stdoneResponse (g : BlockId)
  | atdoneResponse (g : BlockId)
  | pfdataResponse (g : BlockId)
  | requestResend (c : CtxId) (id : Nat)
  | requestTimeout (c : CtxId) (id : Nat)
  | tagHoldEnd (q : QId) (deid : Eid) (tag : Tag)
  | replayCacheExpiry (g : BlockId)
  | drainWindowEnd (p : PartId)
  | homeEntryArrival (g : BlockId) (line : BitVec 45)
  | contrib (g : BlockId)
  | partialSum (g : BlockId)
  | slicego (g : BlockId)
  | sliceOpen (g : BlockId) (n : BitVec 5)
  | sliceDeliveryDone (g : BlockId) (n : BitVec 5)
  | collEnd (g : BlockId)
  | collectiveDeadline (g : BlockId) (n : BitVec 5)
  | endWaitTimeout (g : BlockId) (n : BitVec 5)
  | collReservationRelease (g : BlockId) (n : BitVec 5)
  | tickBoundary (watts : BitVec 16)
  | healthSubwindowDrop
  | accAging (p : PartId)
  | tickMarker (lane : Lane) (m : Slot) (ns : Ns)
  | tickInEdge (offset : BitVec 16)
  | markerLossTimeout
  | holdoverExpiry
  | migrationChunkCopy (p : PartId) (page : BitVec 24) (ueLines : BitVec 32)
  | pageEviction (p : PartId) (near : Bool)
  | pagePromotion (p : PartId) (page : BitVec 24)
  | recallWalkDone (g : BlockId)
  | frameScrubbed (p : PartId) (tier : BitVec 2)
  | blockScrubDone (g : BlockId)
  | trayScrubDone (t : TrayId)
  | trayCableIn (t : TrayId)
  | trayCableOut (t : TrayId)
  | trayReady (t : TrayId) (frames : BitVec 16) (rate32 : Bool)
  | trayRetrainFail (t : TrayId)
  | attnPressBegin (ms : Nat)
  | attnPressEnd (ms : Nat)
  | attnLongPress (ms : Nat)
  | latchOpen
  | latchClose
  | caseOpen
  | voltageGlitch
  | temperatureGlitch
  | pwReqP0 (m : Mctp) (v : BitVec 64)
  | pwReqP2 (m : Mctp) (v : BitVec 64)
  | pwReqP3 (m : Mctp) (v : BitVec 64)
  | pwReqP4 (m : Mctp) (v : BitVec 64)
  | pwReqSwreset (m : Mctp) (v : BitVec 64)
  | powerTransitionDone
  | p1IdleEntry
  | thermalWarning (die : Fin 5) (temp : BitVec 16)
  | thermalRecovery (die : Fin 5) (temp : BitVec 16)
  | thermalShutdown (sensor : Fin 43) (temp : BitVec 16)
  | stackThrottle (stack : BitVec 5) (temp : BitVec 16)
  | throttleExit (stack : BitVec 5) (temp : BitVec 16)
  | sensorWarning (sensor : Fin 43) (temp : BitVec 16)
  | pwrGoodAssert
  | pwrGoodDeassert
  | squarePowerLoss
  | modResetAssert
  | modResetRelease
  | watchdog
  | startupStepDone (r : StepResult) (ms : BitVec 32)
  | stackTrainingDone (stack : BitVec 5) (full : Bool) (failed : BitVec 32)
  | crystalStable
  | crystalRetry
  | clockSourceLoss (src : BitVec 8)
  | pcieHotReset
  | i3cTargetReset
  | i3cRegisterAccess (req : List Byte)
  | registerWrite (m : Mctp) (off : BitVec 32) (width : Nat) (v : BitVec 64)
  | sqSelfWrite (m : Mctp) (v : BitVec 64)
  | ckPeriphEnWrite (m : Mctp) (v : BitVec 64)
  | sqLedCtlWrite (m : Mctp) (v : BitVec 64)
  | spdmGetVersion (m : Mctp)
  | spdmGetCapabilities (m : Mctp)
  | spdmNegotiateAlgorithms (m : Mctp) (p384 sha384 : Bool)
  | spdmGetDigests (m : Mctp)
  | spdmGetCertificate (m : Mctp) (slot : BitVec 3)
  | spdmChallenge (m : Mctp) (slot : BitVec 3) (nonce : BitVec 256)
  | spdmGetMeasurements (m : Mctp) (index : BitVec 8) (signed : Bool) (nonce : BitVec 256)
  | spdmLcset (m : Mctp) (goal : LifeCycle) (token : Bool)
  | jtagUnlock (level : DebugLevel) (token : Bool)
  | jtagLock (level : DebugLevel)
  | uncorrectableError (site : UeSite)
  | correctedError (site : CeSite) (n : BitVec 16)
  | engineUnresponsive (g : BlockId) (e : Eng)
  | tagPoolRebuild (q : QId) (deid : Eid)
  | reservedOpcode (c : CtxId)
  | joinReply (lane : Lane) (f : Flit)
  | wrdoneResponse (g : BlockId)
  | ctlwGoWrite (m : Mctp) (v : BitVec 64)
  | trayTrainFail (t : TrayId)
  | trayLinkLoss (t : TrayId)
  | sensorWarningClear (sensor : Fin 43) (temp : BitVec 16)
  | dividerRampDone (domain : BitVec 5)
deriving DecidableEq, Repr

end Sys2Proof
end

