-- ==== Sys2Proof/Decode.lean ====
section
/-! DEFINITION. Words of the opcode table. -/

namespace Sys2Proof

/-- No row of the opcode table gives its command bits, so no word spells a command. -/
def decodeTableWord (_nbits _w : Nat) : Option Instr := none

end Sys2Proof
end

