-- ==== Sys2Proof/Machine/Bits.lean ====
section
/-! DEFINITION. Bit fields, saturating counts, byte order. -/

namespace Sys2Proof.Machine

/-- Bits `lo` to `lo + n - 1` of a number. -/
def bits (v lo n : Nat) : Nat := v / 2 ^ lo % 2 ^ n

/-- Bits `lo` to `lo + n - 1` of a slot. -/
def sbits (v : BitVec w) (lo n : Nat) : Nat := bits v.toNat lo n

/-- Bit `i` of a word. -/
def sbit (v : BitVec w) (i : Nat) : Bool := v.getLsbD i

/-- A Bool as a bit. -/
def b1 (b : Bool) : Nat := if b then 1 else 0

/-- Fields packed from bit 0 upwards: pairs of width and value, each value cut to its width. -/
def pack : List (Nat × Nat) → Nat
  | [] => 0
  | (w, v) :: r => v % 2 ^ w + 2 ^ w * pack r

/-- Fields packed into a 64-bit register. -/
def pack64 (l : List (Nat × Nat)) : BitVec 64 := BitVec.ofNat 64 (pack l)

/-- Fields packed into a slot. -/
def packSlot (l : List (Nat × Nat)) : Slot := BitVec.ofNat 128 (pack l)

/-- A count that saturates (R90, R502). -/
def satAdd (c : BitVec n) (k : Nat) : BitVec n := BitVec.ofNat n (min (c.toNat + k) (2 ^ n - 1))

/-- A value cut to a field, saturating. -/
def satNat (n v : Nat) : BitVec n := BitVec.ofNat n (min v (2 ^ n - 1))

/-- A signed value as a two's complement field. -/
def sfield (n : Nat) (v : Int) : Nat := (BitVec.ofInt n v).toNat

/-- Division rounded up. -/
def cdiv (a b : Nat) : Nat := (a + b - 1) / b

/-- The lowest `n` bytes of a number, least significant first. -/
def leBytes : Nat → Nat → List Byte
  | 0, _ => []
  | n + 1, v => BitVec.ofNat 8 v :: leBytes n (v / 256)

/-- The number that bytes spell, least significant first. -/
def leNat : List Byte → Nat
  | [] => 0
  | b :: r => b.toNat + 256 * leNat r

/-- The bytes of a slot. -/
def slotBytes (s : Slot) : List Byte := leBytes 16 s.toNat

/-- The bytes of slots in slot order (R154). -/
def slotsBytes (l : List Slot) : List Byte := l.flatMap slotBytes

/-- The first `n` slots spelt by bytes, zeros beyond their end. -/
def bytesSlots : Nat → List Byte → List Slot
  | 0, _ => []
  | n + 1, l => BitVec.ofNat 128 (leNat (l.take 16)) :: bytesSlots n (l.drop 16)

/-- `n` bytes from offset `o`, zeros beyond the end. -/
def bytesAt (l : List Byte) (o n : Nat) : List Byte :=
  let r := (l.drop o).take n
  r ++ List.replicate (n - r.length) 0

/-- A little-endian field of bytes. -/
def natAt (l : List Byte) (o n : Nat) : Nat := leNat (bytesAt l o n)

/-- The list with `new` written from offset `o` on. -/
def putBytes (l : List Byte) (o : Nat) (new : List Byte) : List Byte :=
  bytesAt l 0 o ++ new ++ l.drop (o + new.length)

/-- The set bits of a mask, ascending, below `n`. -/
def maskList (n : Nat) (m : BitVec w) : List Nat := (List.range n).filter (fun i => m.getLsbD i)

/-- The mask of a list of bit numbers. -/
def listMask (n : Nat) (l : List Nat) : BitVec n := BitVec.ofNat n (l.eraseDups.foldl (fun a i => a + 2 ^ i) 0)

/-- The number of set bits of a mask. -/
def popcount (m : BitVec w) : Nat := (maskList w m).length

/-- Element `i` of a list of numbers, 0 beyond its end. -/
def nth (l : List Nat) (i : Nat) : Nat := (l[i]?).getD 0

/-- A field of 64-bit words laid in slots: the slots' 64-bit halves. -/
def halves (l : List Slot) : List Nat := l.flatMap (fun s => [bits s.toNat 0 64, bits s.toNat 64 64])

/-- The 16-bit lanes laid in slots, up to the end mark 0xFFFF (R376, R378). -/
def lanesOf (l : List Slot) : List Nat :=
  (l.flatMap (fun s => (List.range 8).map (fun i => bits s.toNat (16 * i) 16))).takeWhile (· ≠ 0xFFFF)

/-- A two's complement value of `n` bits. -/
def signed (n v : Nat) : Int := if v % 2 ^ n < 2 ^ (n - 1) then (v % 2 ^ n : Nat) else (v % 2 ^ n : Nat) - (2 ^ n : Nat)

end Sys2Proof.Machine
end

