-- ==== Sys2Proof/Machine/Float.lean ====
section
/-! DEFINITION. Number formats: exact decoding and one rounding (09 R248 to R256; 06 R159; 11 R320 to R323). -/

namespace Sys2Proof.Machine

/-- A binary floating-point format: mantissa bits, exponent bits, and whether it has no infinity (E4M3). -/
structure Fmt where
  mb : Nat
  eb : Nat
  fn : Bool := false
deriving DecidableEq, Repr

def fmtF32 : Fmt := { mb := 23, eb := 8 }
def fmtBF16 : Fmt := { mb := 7, eb := 8 }
def fmtF16 : Fmt := { mb := 10, eb := 5 }
def fmtE4M3 : Fmt := { mb := 3, eb := 4, fn := true }
def fmtE5M2 : Fmt := { mb := 2, eb := 5 }
def fmtF64 : Fmt := { mb := 52, eb := 11 }

/-- The floating-point format of a code of R248. -/
def fmtOf : Nat → Fmt
  | 0 => fmtF32 | 1 => fmtBF16 | 2 => fmtF16 | 3 => fmtE4M3 | 4 => fmtE5M2 | _ => fmtF64

def Fmt.bias (f : Fmt) : Nat := 2 ^ (f.eb - 1) - 1
def Fmt.width (f : Fmt) : Nat := 1 + f.eb + f.mb

/-- A value: a special, or `m · 2 ^ e` with `m` not 0. -/
inductive Fl where
  | nan
  | inf (neg : Bool)
  | zero (neg : Bool)
  | fin (m : Int) (e : Int)
deriving DecidableEq, Repr

/-- The exact value of an encoding (R250). -/
def Fmt.decode (f : Fmt) (v : Nat) : Fl :=
  let m := v % 2 ^ f.mb
  let x := v / 2 ^ f.mb % 2 ^ f.eb
  let neg := v / 2 ^ (f.mb + f.eb) % 2 = 1
  let top := x = 2 ^ f.eb - 1
  let sg : Int → Int := fun a => if neg then -a else a
  let q : Int := 1 - (f.bias : Int) - f.mb
  if f.fn ∧ top ∧ m = 2 ^ f.mb - 1 then .nan
  else if ¬f.fn ∧ top then (if m = 0 then .inf neg else .nan)
  else if x = 0 then (if m = 0 then .zero neg else .fin (sg m) q)
  else .fin (sg ((2 ^ f.mb + m : Nat) : Int)) (q + (x : Int) - 1)

/-- The canonical quiet NaN (R254). -/
def Fmt.nan (f : Fmt) : Nat :=
  if f.fn then 2 ^ (f.width - 1) - 1 else (2 ^ f.eb - 1) * 2 ^ f.mb + 2 ^ (f.mb - 1)
def Fmt.signBit (f : Fmt) (neg : Bool) : Nat := if neg then 2 ^ (f.width - 1) else 0
/-- The largest finite magnitude's code. -/
def Fmt.maxCode (f : Fmt) : Nat := if f.fn then 2 ^ (f.width - 1) - 2 else (2 ^ f.eb - 1) * 2 ^ f.mb - 1
/-- An infinity, or the NaN that stands for it where the format has none. -/
def Fmt.inf (f : Fmt) (neg : Bool) : Nat := if f.fn then f.nan else f.signBit neg + (2 ^ f.eb - 1) * 2 ^ f.mb
def Fmt.maxFin (f : Fmt) (neg : Bool) : Nat := f.signBit neg + f.maxCode

/-- Rounding modes (R253): 0 nearest, ties to even; 1 toward zero; 2 toward +infinity; 3 toward −infinity. Whether the magnitude
`a / 2 ^ sh` rounds up from its floor. -/
def roundUp (mode : Nat) (neg : Bool) (a sh : Nat) : Bool :=
  let r := a % 2 ^ sh
  let half := if sh = 0 then 0 else 2 ^ (sh - 1)
  match mode with
  | 0 => sh ≠ 0 && (r > half || (r = half && (a / 2 ^ sh) % 2 = 1))
  | 1 => false
  | 2 => r ≠ 0 && !neg
  | _ => r ≠ 0 && neg

/-- What an overflow gives (R254). -/
def Fmt.overflow (f : Fmt) (mode : Nat) (sat neg : Bool) : Nat :=
  if sat then f.maxFin neg
  else match mode with
    | 0 => f.inf neg
    | 1 => f.maxFin neg
    | 2 => if neg then f.maxFin true else f.inf false
    | _ => if neg then f.inf true else f.maxFin false

/-- `n · 2 ^ e` rounded once to a format; `n = 0` gives +0 (R253, R254). A nonzero value that rounds to zero keeps its sign. -/
def Fmt.round (f : Fmt) (mode : Nat) (sat : Bool) (n e : Int) : Nat :=
  if n = 0 then 0
  else
    let neg : Bool := decide (n < 0)
    let a := n.natAbs
    let top : Int := (Nat.log2 a : Int) + e
    let emin : Int := 1 - (f.bias : Int)
    let q : Int := (if top < emin then emin else top) - f.mb
    let m := if q ≤ e then a * 2 ^ (e - q).toNat
             else
               let sh := (q - e).toNat
               a / 2 ^ sh + (if roundUp mode neg a sh then 1 else 0)
    let (m, q) := if m = 2 ^ (f.mb + 1) then (2 ^ f.mb, q + 1) else (m, q)
    let code : Int := if m < 2 ^ f.mb then (m : Int) else (q - emin + f.mb + 1) * (2 ^ f.mb : Nat) + ((m : Int) - (2 ^ f.mb : Nat))
    if code > f.maxCode then f.overflow mode sat neg else f.signBit neg + code.toNat

/-- A value in a format, unrounded specials as R254. -/
def Fmt.encode (f : Fmt) (mode : Nat) (sat : Bool) : Fl → Nat
  | .nan => f.nan
  | .inf neg => if sat then f.maxFin neg else f.inf neg
  | .zero neg => f.signBit neg
  | .fin m e => f.round mode sat m e

/-- The exact sum of two finite dyadic values. -/
def addDyadic (m e n g : Int) : Int × Int :=
  if e ≤ g then (m + n * (2 ^ (g - e).toNat : Nat), e) else (m * (2 ^ (e - g).toNat : Nat) + n, g)

/-- The exact sum of two values under IEEE 754, ties to even elsewhere (R159). -/
def Fl.add : Fl → Fl → Fl
  | .nan, _ => .nan
  | _, .nan => .nan
  | .inf a, .inf b => if a = b then .inf a else .nan
  | .inf a, _ => .inf a
  | _, .inf b => .inf b
  | .zero a, .zero b => .zero (a && b)
  | .zero _, y => y
  | x, .zero _ => x
  | .fin m e, .fin n g =>
    let (k, h) := addDyadic m e n g
    if k = 0 then .zero false else .fin k h

/-- The exact product of two values. -/
def Fl.mul : Fl → Fl → Fl
  | .nan, _ => .nan
  | _, .nan => .nan
  | .inf a, .inf b => .inf (a != b)
  | .inf a, .fin n _ => .inf (a != decide (n < 0))
  | .fin m _, .inf b => .inf (b != decide (m < 0))
  | .inf _, .zero _ => .nan
  | .zero _, .inf _ => .nan
  | .zero a, .zero b => .zero (a != b)
  | .zero a, .fin n _ => .zero (a != decide (n < 0))
  | .fin m _, .zero b => .zero (b != decide (m < 0))
  | .fin m e, .fin n g => .fin (m * n) (e + g)

/-- One IEEE addition, ties to even, canonical NaN. -/
def Fmt.addNe (f : Fmt) (a b : Nat) : Nat := f.encode 0 false ((f.decode a).add (f.decode b))

/-- Orders encodings that are not NaN, −0 below +0 (R256). -/
def Fmt.key (f : Fmt) (v : Nat) : Int :=
  let mag := v % 2 ^ (f.width - 1)
  if v / 2 ^ (f.width - 1) % 2 = 1 then -1 - (mag : Int) else (mag : Int)

/-- IEEE 754-2019 minimum and maximum (R159, R256). -/
def Fmt.minMax (f : Fmt) (isMax : Bool) (a b : Nat) : Nat :=
  if f.decode a = .nan ∨ f.decode b = .nan then f.nan
  else if isMax = (f.key a ≤ f.key b) then b else a

end Sys2Proof.Machine
end

