-- ==== Sys2Proof/Config.lean ====
section
/-! DEFINITION. What the spec leaves open to an implementation: constants without a body, so that no proof can see their value. -/

namespace Sys2Proof.Config

/-- The source of free values: applied to the counter `State.freeCtr`, a value the spec leaves undefined (log 1). -/
opaque freeValue : Nat → Nat

/-- A byte of a Block's banks that nothing has written since they were powered for the `era`th time, at an offset (R457, log 5). -/
opaque bankByte : Nat → Nat → BitVec 8

/-- Stepping and serial number fuses (SQ_ID). PRESUMED open: fused at manufacture (log 3). -/
opaque stepping : BitVec 8
opaque serial : BitVec 32

/-- The bytes of certificate chain `slot` (R418, R421); Jenmund's and the operator's (log 31). -/
opaque certChain : Nat → List Byte

/-- SHA-384 digests of the firmware images and the boot ROM, by measurement index 1 to 5 (R424), for image set `b`. -/
opaque imageDigest : Bool → Nat → List Byte

/-- Security version numbers of the images of indices 2 to 5, by image set (R424). -/
opaque imageSvn : Bool → List Byte

/-- An ECDSA P-384 signature by the alias key over a transcript (R421, R423). -/
opaque sign : List Byte → List Byte

/-- The SHA-384 digest of the saved training sets used at the last start-up (R441). -/
opaque trainingDigest : List Byte

end Sys2Proof.Config
end

