-- ==== Sys2Proof/Machine/State.lean ====
section
/-! DEFINITION. The state of Brynast as plain data: every register, table, queue, counter, mode and pin the spec
gives the block (INVENTORY.md lists each with its rule and reset value), and the queue of waiting commands. -/

namespace Sys2Proof.Machine

/-- A stop of the model itself. -/
inductive Fault where
  /-- Raised by DATA_FLIT and IDLE_FLIT on a flit without 15 slots, and by I3C_REGISTER_ACCESS on a request that is not 16 bytes: operands that
  no hardware event has. Safe: the hardware never meets it. -/
  | malformedCommand
deriving DecidableEq, Repr

/-- A command without a meaning. -/
inductive Refusal where
  /-- Raised by an arm of `exec` whose row has no meaning yet. Safe: nothing is claimed of it. -/
  | notModelled (mnemonic : String)
deriving DecidableEq, Repr

/-! ### Packets and queues (R87, R91 to R104) -/

/-- Who a request's answer goes to: the wire (SEID of the packet), an outstanding request of a context, the store of a
collective's result, the page-table reader of a partition, or one part of a request with several homes (R185). -/
inductive Asker where
  | wire
  | req (c : Nat) (id : Nat)
  | coll (g n id : Nat)
  | pte (p page : Nat)
  | join (j : Nat)
deriving DecidableEq, Repr

/-- A packet: the fields of the common header (R87), its extension slots and payload slots. -/
structure Pkt where
  tc     : BitVec 3 := 0
  mtype  : BitVec 5 := 0
  deid   : BitVec 12 := 0
  seid   : BitVec 12 := 0
  sinc   : BitVec 8 := 0
  job    : BitVec 16 := 0
  gen    : BitVec 16 := 0
  tag    : BitVec 12 := 0
  status : BitVec 5 := 0
  load   : BitVec 4 := 0
  len    : BitVec 9 := 0
  xslots : BitVec 2 := 0
  spray  : Bool := false
  pseq   : BitVec 16 := 0
  rsv    : BitVec 7 := 0
  x      : List Slot := []
  data   : List Slot := []
deriving DecidableEq, Repr

/-- A line of a request: its pool line index, its home Block, and its page's tier of first placement (R220), plus 4 for a 16 GiB page. -/
structure LineRef where
  line : Nat
  home : Nat
  tier : Nat := 0
deriving DecidableEq, Repr

/-- A packet in a queue, in landing or on its way inside the device: with the lines of a request and their homes (R185), the partition and
pool address it was translated to, who asked, the lane and slots whose credits it still holds, whether its landing has been acted on
(0 no, 1 it goes on, 2 turned into its POLICED answer, 3 an answer whose LOAD is fixed), the class it landed in, whether its wait has been
counted, the Quarters that already have their copy of a multicast packet (R102), the tick of its stamp (R32), what its port found when its
header slot was accepted (R132, R133: 1 passed, 2 policed, 3 stale or absent incarnation, 4 another endpoint's EID), and the Blocks of whose
LEVELs its LOAD shows the largest (R144, R185). -/
structure Msg where
  pkt   : Pkt
  asker : Asker := .wire
  lane  : Nat := 0
  ingress : Nat := 0
  slots   : Nat := 0
  tcIn    : Nat := 0
  waits   : Bool := false
  gone    : List Nat := []
  stamp   : Nat := 0
  verd    : Nat := 1
  src     : List Nat := []
  part  : Nat := 0
  paddr : Nat := 0
  lines : List LineRef := []
deriving DecidableEq, Repr

/-- A packet held by an output queue: its cells, how many came from the queue's minimum, the multicast copy it points to,
its admission stamp, and whether its first slot has been sent (R97 to R99, R102). -/
structure QPkt where
  msg     : Msg
  cells   : Nat
  fromMin : Nat
  mc      : Option Nat
  tick    : Nat
  ns      : Nat
  started : Bool
deriving DecidableEq, Repr

/-- An output queue with its settings, shaper and samples (R96, R97, R124, R145). -/
structure Queue where
  min      : BitVec 18 := 0
  alpha    : BitVec 3 := 4
  pkts     : List QPkt := []
  refused  : BitVec 16 := 0
  rate     : BitVec 16 := 0
  hicred   : BitVec 16 := 0
  k        : Int := 0
  newShape : Option (BitVec 16 × BitVec 16) := none
  waited   : Bool := false
  depthCur : Nat := 0
  delaySum : Nat := 0
  delayNum : Nat := 0
  delayTop : Nat := 0
  sentCur  : Nat := 0
  depthMax : BitVec 18 := 0
  depthEnd : BitVec 18 := 0
  delayMax : BitVec 20 := 0
  delayMean : BitVec 20 := 0
  sent     : BitVec 16 := 0
deriving DecidableEq, Repr

/-- A stored multicast copy (R102 to R104): its cells, whether they came from MCRES, and its references. -/
structure McCopy where
  cells   : Nat
  fromRes : Nat
  refs    : Nat
deriving DecidableEq, Repr

/-- A health record (R470): current score, lowest score, penalty, and the penalties of its sub-windows, newest first. -/
structure Health where
  score   : BitVec 8 := 0xFF
  low     : BitVec 8 := 0xFF
  penalty : BitVec 24 := 0
  warnRaised : Bool := false
  critRaised : Bool := false
  windows : List Nat := [0]
deriving DecidableEq, Repr

/-- Who holds a tag (R163, R165). -/
inductive Holder where
  | req (c : Nat) (id : Nat)
  | snoop (g : Nat) (line : Nat)
  | pte (p page : Nat)
  | coll (g n id : Nat)
  | held (release : Nat)
  | join (j : Nat)
deriving DecidableEq, Repr

/-- The registers and buffers of one Quarter. -/
structure Quarter where
  queues   : Tbl Queue := []
  mcres    : BitVec 18 := 0x24
  mcs      : Tbl McCopy := []
  mcNext   : Nat := 1
  unroute  : BitVec 16 := 0
  rsLate   : BitVec 16 := 0
  rsGap    : BitVec 16 := 0
  mcDrop   : BitVec 16 := 0
  lstep    : BitVec 10 := 0x10
  dstep    : BitVec 16 := 0xFA
  hwmPool  : BitVec 18 := 0
  hwmPoolTick : BitVec 32 := 0
  hwmDelay : BitVec 20 := 0
  hwmQueue : BitVec 12 := 0
  hwmDelayTick : BitVec 32 := 0
  poolTop  : Nat := 0
  pktUe    : BitVec 16 := 0
  bufCe    : BitVec 16 := 0
  bufCeSum : Nat := 0
  direct   : Tbl (List Msg) := []
  transit  : Tbl (List Msg) := []
  tags     : Tbl Holder := []
  lastHolder : Tbl Nat := []
  atTick   : Tbl Nat := []
  mcHealth : Tbl Health := []
  stackHealth : Tbl Health := []
  rebuild  : Tbl Nat := []
deriving DecidableEq, Repr

/-! ### Ports (R54 to R90) -/

/-- Port states (R72); `joining` is ADMIT. -/
inductive PortState where
  | disabled | down | train | align | hello | joining | active | retrain | fenced
deriving DecidableEq, Repr

/-- A segment descriptor (R216). -/
structure Segment where
  cbase : BitVec 48 := 0
  clast : BitVec 48 := 0
  pbase : BitVec 52 := 0
  v     : Bool := false
  rd    : Bool := false
  wr    : Bool := false
deriving DecidableEq, Repr

/-- A policer (R131). -/
structure Policer where
  prate  : BitVec 16 := 0
  pburst : BitVec 16 := 0
  polcnt : BitVec 16 := 0
  bucket : Nat := 0
  evt    : Option Nat := none
deriving DecidableEq, Repr

/-- A flit sent and not yet acknowledged (R69): its packet's queue, whether it is the packet's last, how often it was sent. -/
structure TxFlit where
  seq   : BitVec 12
  flit  : Flit
  queue : Nat
  last  : Bool
  sends : Nat
deriving DecidableEq, Repr

/-- The peer's JREQ awaiting a decision (R75). `pending` when JOIN_PENDING was raised, `decided` when a reply was sent. -/
structure JoinReq where
  eid     : BitVec 12
  inc     : BitVec 8
  role    : BitVec 2
  nonce   : BitVec 32
  pending : Bool
  decided : Bool
  since   : Nat
deriving DecidableEq, Repr

/-- A fabric port, known by its lowest lane; `off` is a lane's distance from the lowest lane of the port it is in. -/
structure Port where
  state   : PortState := .disabled
  width   : BitVec 2 := 0
  rate    : Bool := false
  dshen   : Bool := false
  downsh  : Bool := false
  off     : BitVec 3 := 0
  peerEid : BitVec 12 := 0
  peerInc : BitVec 8 := 0
  role    : BitVec 2 := 0
  delay   : BitVec 16 := 0
  crcErr  : BitVec 16 := 0
  replayCnt : BitVec 16 := 0
  retrainCnt : BitVec 16 := 0
  fecCorr : BitVec 16 := 0
  fecSum  : Nat := 0
  stale   : BitVec 16 := 0
  unbound : BitVec 16 := 0
  rsvdEnc : BitVec 16 := 0
  downDisc : BitVec 16 := 0
  adv     : Tbl (BitVec 16) := []
  advCur  : Tbl (BitVec 16) := []
  peerCr  : Tbl (BitVec 16) := []
  heldCr  : Tbl (BitVec 16) := []
  job     : BitVec 16 := 0
  killed  : Bool := false
  teid    : BitVec 12 := 0xFFF
  tinc    : BitVec 8 := 0
  egw     : BitVec 20 := 0x12424
  segs    : List Segment := []
  pol     : Tbl Policer := []
  health  : Health := {}
  landing : Tbl (List Msg) := []
  rxPart  : List Slot := []
  rxTick  : Nat := 0
  rxVerd  : Nat := 0
  txSeq   : BitVec 12 := 0
  rxSeq   : BitVec 12 := 0
  rxAny   : Bool := false
  nak     : Bool := false
  nakAck  : Option (BitVec 12) := none
  unacked : List TxFlit := []
  owed    : Tbl Nat := []
  crRot   : Nat := 0
  nonce   : BitVec 32 := 0
  jreq    : Option JoinReq := none
  grant   : Option (BitVec 12 × BitVec 8 × BitVec 16) := none
  grantAt : Nat := 0
  probes  : List Nat := []
  probeAt : Option Nat := none
  probeQ  : List (Nat × Nat) := []
  jreqAt  : Option Nat := none
  replied : Bool := false
  since   : Nat := 0
  tries   : Nat := 0
  retrains : List Nat := []
  drr     : Tbl Int := []
  drrAt   : Nat := 1
  drrNew  : Bool := true
  tc0Used : Nat := 0
  markerDue : Bool := false
  noticeDue : Bool := false
  noticeTick : Option Nat := none
  lastStale : BitVec 12 := 0
  staleSince : Nat := 0
  staleEvt : Option Nat := none
deriving DecidableEq, Repr

/-- A trunk (R109 to R114, R501). `gap` holds the end of each class's gap timer. -/
structure Trunk where
  members : List Nat := []
  peer    : BitVec 12 := 0
  exp     : Tbl (BitVec 16) := []
  gap     : Tbl Nat := []
  pseq    : Tbl (BitVec 16) := []
  gapEvt  : Option Nat := none
  active  : BitVec 16 := 0
deriving DecidableEq, Repr

/-! ### Partitions and pages (R212 to R241, R399 to R417) -/

/-- Partition states (R403). -/
inductive PartState where
  | none | ready | bound | fenced | scrubbing | releasing
deriving DecidableEq, Repr

/-- Where a routing entry sends a DEID (R376). -/
inductive Target where
  | port (lane : Nat)
  | trunk (t : Nat)
  | here
  | group
deriving DecidableEq, Repr

/-- A routing map: DEID to target, and the Blocks and lanes of each group EID (R376, R102). -/
structure RMap where
  ents   : Tbl Target := []
  groups : Tbl (BitVec 64 × List Nat) := []
deriving DecidableEq, Repr

/-- A page-table entry (R220). -/
structure Pte where
  v    : Bool := false
  rd   : Bool := false
  wr   : Bool := false
  ps   : Bool := false
  tier : BitVec 2 := 0
  rsv0 : BitVec 2 := 0
  dev  : BitVec 12 := 0
  rsv1 : BitVec 12 := 0
deriving DecidableEq, Repr

/-- States of a page on its home device. -/
inductive PageState where
  | unplaced | placed | migrating | lostPage
deriving DecidableEq, Repr

/-- A page: tier (1 near, 2 bulk, 3 tray), its frames in page order with the tray of each tray frame, and the Blocks over which near and bulk
frames are striped (R212 to R215); hint, pin, seal, ACC, LASTT; a migration's destination likewise and its next 4 KiB chunk (R223 to R230).
`evac`: its tray is being emptied; `relay`: a resize has still to lay it out anew (R406); `evict`: R225 evicts it. -/
structure Page where
  state : PageState := .unplaced
  tier  : BitVec 2 := 0
  trays : List Nat := []
  frms  : List Nat := []
  lay   : BitVec 64 := 0
  big   : Bool := false
  hint  : BitVec 2 := 0
  pin   : Bool := false
  sealed : Bool := false
  acc   : BitVec 16 := 0
  lastt : Nat := 0
  dst   : BitVec 2 := 0
  dstTrays : List Nat := []
  dstFrms  : List Nat := []
  dstLay   : BitVec 64 := 0
  chunk : Nat := 0
  evac  : Bool := false
  relay : Bool := false
  evict : Bool := false
deriving DecidableEq, Repr

/-- A partition with its job, maps, pool settings and pages. The translation caches of its job, the reads under way and their answers are kept
by unit and page (R222); `rehomed`: a COMMIT with MOVEH has moved homes since the job was bound (R178). -/
structure Part where
  state   : PartState := .none
  staged  : Option (BitVec 64) := none
  resizing : Bool := false
  area    : BitVec 4 := 0
  trays   : BitVec 16 := 0
  blocks  : BitVec 64 := 0
  leaving : BitVec 64 := 0
  scrubLeft : BitVec 32 := 0
  job     : BitVec 16 := 0
  gen     : BitVec 16 := 0
  prev    : BitVec 16 := 0
  drainEnd : Option Nat := none
  moveh   : Bool := false
  oldBlocks : Option (BitVec 64) := none
  killed  : Bool := false
  tout    : BitVec 16 := 0x7D0
  rto     : BitVec 8 := 0x20
  drainw  : BitVec 10 := 0x40
  ptpn    : BitVec 24 := 0
  ptdev   : BitVec 12 := 0
  ptv     : Bool := false
  agew    : BitVec 16 := 0x3E8
  promote : BitVec 16 := 0x1000
  migshare : BitVec 4 := 2
  nresv   : BitVec 8 := 2
  bresv   : BitVec 8 := 8
  usedNear : Nat := 0
  usedBulk : Nat := 0
  dirty   : Tbl Nat := []
  dirtyFrms : Tbl (List Nat) := []
  migDone : BitVec 16 := 0
  migUse  : Tbl Nat := []
  evictN  : BitVec 16 := 0
  noCap   : BitVec 16 := 0
  pubConf : BitVec 16 := 0
  map     : RMap := {}
  pmap    : RMap := {}
  smap    : RMap := {}
  pages   : Tbl Page := []
  tcache  : Tbl Pte := []
  devs    : Tbl (BitVec 12) := []
  pteAsk  : Tbl (Option (Nat × Nat × BitVec 12)) := []
  pteRes  : Tbl (Option (Pte × BitVec 5)) := []
  lastTray : Nat := 15
  rehomed : Bool := false
  nocapEvt : Option Nat := none
  toutEvt : Tbl Nat := []
  arriving : Tbl (Option Nat) := []
  aged    : Option Nat := none
  recalling  : List (Nat × Nat) := []
deriving DecidableEq, Repr

/-- Tray port states (R243). -/
inductive TrayState where
  | disabled | down | train | ready | assigned | evac | empty | lost
deriving DecidableEq, Repr

/-- A tray port. -/
structure Tray where
  state  : TrayState := .disabled
  rate   : Bool := false
  prsnt  : Bool := false
  sel    : Bool := false
  part   : BitVec 6 := 0
  frames : BitVec 16 := 0
  placed : BitVec 16 := 0
  touched : Nat := 0
  poisonRx : BitVec 16 := 0
  retrain : BitVec 16 := 0
  surprise : BitVec 16 := 0
  retrainAt : Option Nat := none
deriving DecidableEq, Repr

/-! ### Homes (R185 to R211) -/

/-- The word of a directory entry (R188): exact sharers, coarse groups, an owner, or none (a line in home state I that is BUSY or HOT). -/
inductive DirMode where
  | none
  | exact (sharers : List Nat)
  | coarse (groups : BitVec 64)
  | own (eid : BitVec 12) (inc : BitVec 8)
deriving DecidableEq, Repr

/-- A snoop awaited by a home (R190, R204). -/
structure Snoop where
  eid     : BitVec 12
  inc     : BitVec 8
  tag     : BitVec 12
  asOwner : Bool
  sent    : Nat
  slow    : Bool
deriving DecidableEq, Repr

/-- What a BUSY line is busy with (R194, R199, R200, R229, R238). -/
inductive TxnKind where
  | serve (work : Nat)
  | evictDir
  | recalling (discard : Bool)
  | toHot
  | publish
deriving DecidableEq, Repr

/-- The transaction record of a BUSY line. `fwd`: the owner granted to the requester; `keepS`: the owner stays a sharer. -/
structure Txn where
  kind   : TxnKind
  waits  : List Snoop
  fwd    : Bool
  keepS  : Bool
deriving DecidableEq, Repr

/-- A directory entry: word, transaction, hot slot, the slot reserved for a line due to become hot (R200), allocation order. -/
structure DirEnt where
  mode : DirMode := .none
  txn  : Option Txn := none
  hot  : Option Nat := none
  due  : Option Nat := none
  seq  : Nat := 0
deriving DecidableEq, Repr

/-- A request part being performed: lines still awaited, and by line the data gathered, the poison and the statuses of failed lines. -/
structure Work where
  msg    : Msg
  tick   : Nat
  left   : List Nat
  got    : Tbl (List Byte)
  pois   : List Nat
  fails  : Tbl (BitVec 5) := []
deriving DecidableEq, Repr

/-- A request part set aside (R185), the tick in which it was taken, and its place in the home's order. -/
structure SetAside where
  msg  : Msg
  tick : Nat
  ord  : Nat
deriving DecidableEq, Repr

/-- A hot slot (R200 to R203). -/
structure Hot where
  line   : Nat
  bytes  : List Byte
  poison : Bool
  lost   : Bool
  pinEnd : Nat
  taken  : Nat
  takenAt : Nat
  served : Nat
  servedAt : Nat
deriving DecidableEq, Repr

/-- A replay-cache entry (R171). -/
structure Replay where
  seid  : BitVec 12
  sinc  : BitVec 8
  tag   : BitVec 12
  issue : BitVec 16
  job   : BitVec 16
  paddr : Nat
  aop   : BitVec 4
  atype : BitVec 4
  ops   : List Slot
  value : BitVec 128
  expiry : Nat
deriving DecidableEq, Repr

/-- An entry of the lost-line log (R209). -/
structure LostEnt where
  line : Nat
  eid  : BitVec 12
  inc  : BitVec 8
  job  : BitVec 16
  tick : Nat
deriving DecidableEq, Repr

/-- A walk of a directory slice (R205, R229): a death walk for an identity, or a recall walk over pages, after which they are freed where
`frees` says so (R228). -/
inductive Walk where
  | death (eid : BitVec 12) (inc : BitVec 8)
  | recalling (pages : List Nat) (discard frees : Bool)
  | publish (pages : List Nat) (root : Nat)
deriving DecidableEq, Repr

/-- A PUBLISH at its root's home (R237, R238): who asked, its operands, the Blocks whose walk has not ended, whether it has been decided, and
its place in the home's order. -/
structure Pub where
  ctx     : Nat
  id      : Nat
  root    : Nat
  version : BitVec 64
  base    : Nat
  length  : Nat
  ctag    : BitVec 64
  walking : List Nat
  decided : Bool
  ord     : Nat
deriving DecidableEq, Repr

/-- The parts of one request with several homes (R185), or of a list with failed addresses (R509): parts awaited, pool lines in list
order, data and poison by line, the lowest status that is not OK, the Blocks of the parts done, statuses by list position, and the tick it
began. Log 107. -/
structure Join where
  msg    : Msg
  left   : Nat
  order  : List Nat
  got    : Tbl (List Byte)
  pois   : List Nat
  bad    : Option (Nat × BitVec 5)
  blks   : List Nat := []
  fails  : Tbl (BitVec 5)
  since  : Nat := 0
deriving DecidableEq, Repr

/-! ### Collectives (R257 to R280) -/

/-- Special states (R251). -/
inductive Spec where
  | finite | negzero | pinf | ninf | nan
deriving DecidableEq, Repr

/-- An accumulator entry: a two's complement sum with its special state, or the value of MIN and MAX. -/
inductive Acc where
  | sum (n : Int) (sp : Spec)
  | best (v : BitVec 64)
deriving DecidableEq, Repr

/-- A result store of a top root not yet answered (R267): kept for its resends when it went to another device. -/
structure CollStore where
  id     : Nat
  msg    : Msg
  remote : Bool
  first  : Nat
  last   : Nat
  retry  : Bool := false
  stale1 : Bool := false
deriving DecidableEq, Repr

/-- A collective table entry with its record (R259, R262 to R268, R276): descriptor, job, root context with the index of its RJOIN and
the segments its result stores use, units held, current slice and its accumulators, contributions taken, sources that delivered LAST
(`dup`: one of them twice), what each source sent in this slice (1 CONTRIB, 2 + NCONTR PARTIAL) and each child's NCONTR of earlier
slices; `empty`: the buffer is empty and slice `slice` not yet opened; `sent`: the slice's messages are on their way; `outAt`: result
bytes already stored; `waitEnd`: the last PARTIAL is sent; the first END and its tick. -/
structure Coll where
  desc    : BitVec 512
  job     : BitVec 16
  ctx     : Nat
  idx     : BitVec 16
  segs    : List Segment
  phase   : BitVec 2 := 0
  slice   : Nat := 0
  dline   : Nat
  units   : List Nat
  acc     : Tbl Acc := []
  taken   : Nat := 0
  lasts   : List Nat := []
  dup     : Bool := false
  kinds   : Tbl Nat := []
  prior   : Tbl Nat := []
  ncontr  : Nat := 0
  empty   : Bool := true
  parentGo : Nat := 0
  sent    : Bool := false
  outAt   : Nat := 0
  stores  : List CollStore := []
  storeNext : Nat := 0
  waitEnd : Bool := false
  endSt   : Option (BitVec 5) := none
  endTick : Nat := 0
deriving DecidableEq, Repr

/-! ### Contexts (R344 to R398) -/

/-- Context states (R380). -/
inductive CtxState where
  | empty | ready | blocked | swapped | held | faulted
deriving DecidableEq, Repr

/-- Where a reply's data goes (R393, R394, R396). -/
inductive Dest where
  | none
  | bank (off : Nat) (len : Nat)
  | buf (key : Nat) (len : Nat)
  | image (off : Nat) (len : Nat)
  | pf (offs : List Nat)
  | old (off : Nat) (w : Nat) (cmp : Option (BitVec 128))
deriving DecidableEq, Repr

/-- An outstanding request of a context (R163 to R167, R396). `pos` is its place in the order of failures; `retry` when it was
answered RETRY_LATER or POLICED and waits for its next RTO (R365). -/
structure Req where
  id     : Nat
  eng    : BitVec 2
  instr  : BitVec 16
  seq    : Nat
  msg    : Msg
  remote : Bool
  tagged : Bool
  first  : Nat
  last   : Nat
  pos    : Nat
  dest   : Dest
  aband  : Bool := false
  retry  : Bool := false
  stale1 : Bool := false
deriving DecidableEq, Repr

/-- A mailbox completion (R396). -/
structure Mail where
  req    : Req
  status : BitVec 5
  tick   : Nat
  match1 : Bool
deriving DecidableEq, Repr

/-- An engine instruction in flight (R355): its issue number, word, descriptors read at issue (A, B, D, tally, spill, model), descriptor
indices it writes; next unit and phase of its work; data read and statuses of reads by key; lowest failing position; the status it ends
with once nothing is outstanding, and its outcome bit. The scan fields are those of R301; `pend` holds the records of the current batch
(R317: index, and 0 not passed, 1 passed or clean, 2 poisoned), `rows`, `acts` and `sums` their indices, activations and partial sums; `tab` is the
deduplication table of a window (R285), `heads` the offsets of the kiln blocks of each layer, `failed` the positions that failed, `first` the index a scan began at; `stq` holds stores that wait for an entry, a tag or the page table: position, address, bytes, their poison. -/
structure Op where
  seq    : Nat
  idx    : BitVec 16
  word   : BitVec 128
  a      : BitVec 512 := 0
  b      : BitVec 512 := 0
  d      : BitVec 512 := 0
  x      : BitVec 512 := 0
  y      : BitVec 512 := 0
  z      : BitVec 512 := 0
  layers : List (BitVec 256) := []
  heads  : List Nat := []
  terms  : List (BitVec 128) := []
  writes : List Nat := []
  unit   : Nat := 0
  phase  : Nat := 0
  buf    : Tbl (List Byte) := []
  bst    : Tbl (BitVec 5) := []
  bad    : Option (Nat × BitVec 5) := none
  done   : Option (BitVec 5) := none
  outc   : Bool := true
  scanned : Nat := 0
  passed : Nat := 0
  surv   : Nat := 0
  next   : Nat := 0
  poisoned : Nat := 0
  firstPois : BitVec 64 := BitVec.allOnes 64
  full   : BitVec 8 := 0
  prod   : BitVec 64 := 0
  cons   : BitVec 64 := 0
  delivs : Nat := 0
  spillAt : Nat := 0
  pend   : List (Nat × Nat) := []
  rows   : List Nat := []
  acts   : Tbl (List Nat) := []
  sums   : Tbl (List (Option Int)) := []
  scores : List (Nat × Nat) := []
  tab    : Tbl Nat := []
  failed : List Nat := []
  first  : Nat := 0
  stq    : List (Nat × Nat × List Byte × List Bool) := []
deriving DecidableEq, Repr

/-- A cause that holds a context up (R381): its source (engine 0 to 3, or 4 for WAITT and YIELD), its WHY, the requests awaited, and
whether a page-table read (`pt`) or the opening of a collective's slice (`go`) is awaited, and for WHY 2 the DEID towards which a tag is
lacking, none where an entry is. -/
structure Cause where
  src : Nat
  why : Nat
  ids : List Nat := []
  pt  : Bool := false
  go  : Bool := false
  eid : Option Nat := none
deriving DecidableEq, Repr

/-- An open loop (R357): index of its first body instruction, iterations left after this one, this iteration, stepped descriptors. -/
structure LoopFr where
  start : Nat
  last  : Nat
  iter  : Nat
  steps : List Nat
deriving DecidableEq, Repr

/-- A submission whose image is being read (R370): its context address, the source's port, and by offset what its reads gave. -/
structure Image where
  addr : Nat
  lane : Nat
  got  : Tbl (List Byte) := []
  bst  : Tbl (BitVec 5) := []
deriving DecidableEq, Repr

/-- A context slot. `causes` are in the order they came; `wsrc` is the source of the one recorded in WHY. `hold` is the tick whose
boundary ends a WAITT or YIELD, with the predicate it writes; `fence` the predicate of a FENCE that holds issue; `ending` set by END. -/
structure Ctx where
  state   : CtxState := .empty
  status  : BitVec 5 := 0
  share   : BitVec 8 := 0
  index   : BitVec 16 := 0xFFFF
  why     : BitVec 3 := 0
  since   : BitVec 28 := 0
  proff   : BitVec 32 := 0
  dtoff   : BitVec 32 := 0
  ninstr  : BitVec 16 := 0
  pcx     : Nat := 0
  preds   : BitVec 16 := 1
  predSeq : Tbl Nat := []
  seq     : Nat := 0
  loops   : List LoopFr := []
  segs    : List Segment := []
  v       : Tbl (BitVec 64) := []
  cyc     : Tbl (BitVec 64) := []
  cycCur  : Tbl Nat := []
  cycLast : Tbl Nat := []
  cand    : BitVec 4 := 0
  ops     : Tbl (Option Op) := []
  causes  : List Cause := []
  wsrc    : Nat := 0
  hold    : Option Nat := none
  holdPred : BitVec 4 := 0
  fence   : Option (BitVec 4) := none
  ending  : Bool := false
  reqs    : List Req := []
  reqNext : Nat := 0
  mail    : List Mail := []
  parked  : Bool := false
  parkT   : Nat := 0
  blkT    : Nat := 0
  inT     : Option Nat := none
  srcEid  : BitVec 12 := 0
  srcInc  : BitVec 8 := 0
  srcTag  : BitVec 12 := 0
  image   : Option Image := none
  ovr     : BitVec 16 := 0
deriving DecidableEq, Repr

/-- The slice an engine started last (R48 to R51): context, C, index and predicate of the instruction, the bank ranges and the context
addresses it wrote, cycles beyond C; the issue number of the instruction and, while the slice waits for data of this device's own pool, the
cycles left of C; its tick and the bank ranges it read, those of weights and biases apart (R338, R389); the scan header as the slice found it
(R304). -/
structure Slice where
  ctx   : Nat
  cost  : Nat
  idx   : BitVec 16
  pred  : Nat
  wrote : List (Nat × Nat)
  wroteP : List (Nat × Nat)
  past  : Nat
  seq   : Nat := 0
  wait  : Option Nat := none
  tick  : Nat := 0
  reads : List (Nat × Nat) := []
  tiles : List (Nat × Nat) := []
  hdr   : Option (Bool × Nat × List Byte) := none
deriving DecidableEq, Repr

/-- Block states (R402). -/
inductive BlkState where
  | free | member | scrubbing
deriving DecidableEq, Repr

/-- A control instruction taken from the control queue: its source, itself, and the packet that carried it (R373, R375). -/
structure Caller where
  via : Via
  ci  : CtlInsn
  pkt : Pkt := {}
deriving DecidableEq, Repr

/-- A BANKGIVE waiting for the handover of its banks (R387). -/
structure Give where
  by'    : Caller
  mask   : BitVec 16
  giver  : Option Nat
  taker  : Option Nat
deriving DecidableEq, Repr

/-- A Block. -/
structure Block where
  state   : BlkState := .scrubbing
  peak    : BitVec 4 := 0
  hit     : BitVec 16 := 0
  unknown : BitVec 16 := 0
  full    : BitVec 16 := 0
  clash   : BitVec 16 := 0
  timeout : BitVec 16 := 0
  lateRsp : BitVec 16 := 0
  staleReq : BitVec 16 := 0
  teardown : BitVec 16 := 0
  hz      : BitVec 64 := 0
  replay  : List Replay := []
  dir     : Tbl DirEnt := []
  dirSeq  : Nat := 0
  conf    : List SetAside := []
  ordNext : Nat := 0
  ownReqs : Tbl (Nat × Nat) := []
  hot     : Tbl (Option Hot) := []
  works   : Tbl (Option Work) := []
  workNext : Nat := 0
  pubs    : List Pub := []
  backInv : BitVec 16 := 0
  staleWb : BitVec 16 := 0
  hotPin  : BitVec 16 := 0
  hotFull : BitVec 16 := 0
  aside   : Tbl Nat := []
  lostLog : List LostEnt := []
  lostOvf : BitVec 16 := 0
  walks   : List Walk := []
  roots   : List Nat := []
  areaBanks : BitVec 4 := 2
  colls   : Tbl (Option Coll) := []
  stray   : BitVec 16 := 0
  countErr : BitVec 16 := 0
  lostCnt : BitVec 16 := 0
  overrun : BitVec 16 := 0
  fetch   : BitVec 32 := 0
  fold    : BitVec 32 := 0
  gFail   : BitVec 16 := 0
  gDeliv  : BitVec 16 := 0
  scanRec : Nat := 0
  poisRec : BitVec 16 := 0
  fullStop : BitVec 16 := 0
  spill   : BitVec 32 := 0
  noPlace : BitVec 16 := 0
  omitN   : BitVec 16 := 0
  recs    : Nat := 0
  tiles   : BitVec 32 := 0
  kBad    : BitVec 16 := 0
  nanOut  : BitVec 16 := 0
  sColl   : BitVec 16 := 0
  poisRow : BitVec 16 := 0
  bankOwn : BitVec 64 := 0
  bankArea : BitVec 16 := 3
  bankColl : BitVec 32 := 0
  parks   : BitVec 16 := 0
  bringIn : BitVec 16 := 0
  hold    : BitVec 16 := 0
  abandon : BitVec 16 := 0
  fenceDrop : BitVec 16 := 0
  fenceSince : Nat := 0
  fenceEvt : Option Nat := none
  bank    : Tbl (Option Byte) := []
  bankEra : Nat := 0
  bpois   : List Nat := []
  budget  : Tbl Int := []
  debt    : Tbl Nat := []
  run     : Tbl (Option Slice) := []
  health  : Health := {}
  give    : Option Give := none
  outq    : List Msg := []
  ueAt    : Option Nat := none
  trained : BitVec 10 := 0
deriving DecidableEq, Repr

/-! ### The Square -/

/-- Variants (R4). Log 3. -/
inductive Variant where
  | F | E | L
deriving DecidableEq, Repr

/-- Fuses (15, "Fuses and calibration"). Log 3. -/
structure Fuses where
  variant : Variant := .F
  lc      : LifeCycle := .deployed
deriving DecidableEq, Repr

/-- Start-up registers and conditions (R432 to R439, R460, R482, R483). -/
structure Boot where
  step    : BitVec 3 := 1
  result  : BitVec 2 := 0
  image   : Bool := false
  memFull : BitVec 6 := 0
  lnkFull : BitVec 4 := 0
  fault   : BitVec 8 := 0
  elapsed : BitVec 32 := 0
  blkFail : BitVec 64 := 0
  failCode : Tbl (BitVec 8) := []
  seen    : BitVec 9 := 1
  last    : BitVec 4 := 0
  clkSrc  : BitVec 8 := 0
  starts  : BitVec 32 := 1
  stacksUp  : BitVec 32 := 0
  held    : Bool := false
  dead    : Bool := false
  thermRec : Bool := false
  glitch  : Bool := false
  halted  : Bool := false
deriving DecidableEq, Repr

/-- Clock and power registers (R447 to R459). -/
structure Power where
  xo      : Bool := false
  sdsRef  : Bool := false
  pciRef  : Bool := false
  run     : BitVec 18 := 0
  ramps   : List Nat := []
  half    : BitVec 5 := 0
  spi     : Bool := true
  i3c     : Bool := true
  tickOut : Bool := true
  trace   : Bool := true
  cxl     : BitVec 16 := 0xFFFF
  state   : BitVec 3 := 0
  lastReq : BitVec 3 := 0
  refuse  : BitVec 4 := 0
  since   : BitVec 32 := 0
  req     : BitVec 3 := 0
  trans   : Option (BitVec 3) := none
  idle    : Option Nat := none
  envelope : BitVec 16 := 0
  pavg    : BitVec 16 := 0
  level   : BitVec 4 := 8
  withheld : BitVec 28 := 0
  lastLvl : Nat := 0
  watts   : List Nat := []
deriving DecidableEq, Repr

/-- Timebase states, in the order of their codes (R42, R45). -/
inductive TbState where
  | source | locked | holdover | unaligned
deriving DecidableEq, Repr

/-- The tick timebase (R30 to R45). `seen` holds the last valid marker of each lane: hop count and the tick it came. `obsTick` and `obsUnal`
are the tick and the alignment flag of the queue samples last closed (R145, R146). -/
structure Timebase where
  tick    : BitVec 64 := 0
  state   : TbState := .unaligned
  src     : BitVec 2 := 0
  hops    : BitVec 4 := 0xF
  upLane  : BitVec 9 := 0
  offset  : BitVec 16 := 0
  lossCnt : BitVec 16 := 0
  mismatch : Bool := false
  since   : Nat := 0
  lastEdge : Nat := 0
  loaded  : Bool := false
  unalTick : Bool := true
  seen    : Tbl (Nat × Nat) := []
  obsTick : BitVec 64 := 0
  obsUnal : Bool := false
deriving DecidableEq, Repr

/-- A journal entry (R425). -/
structure JEntry where
  seq  : BitVec 64 := 0
  tick : BitVec 64 := 0
  src  : BitVec 8 := 0
  opc  : BitVec 8 := 0
  sub  : BitVec 8 := 0
  flags : BitVec 8 := 0
  eid  : BitVec 12 := 0
  target : BitVec 32 := 0
  old  : BitVec 64 := 0
  new  : BitVec 64 := 0
deriving DecidableEq, Repr

/-- An event record (R466). -/
structure Event where
  seq   : BitVec 64 := 0
  tick  : BitVec 64 := 0
  ns    : BitVec 10 := 0
  code  : BitVec 8 := 0
  cls   : BitVec 8 := 0
  job   : BitVec 16 := 0
  part  : BitVec 6 := 0
  flags : BitVec 8 := 0
  ctx   : BitVec 10 := 0
  eid   : BitVec 12 := 0
  inc   : BitVec 8 := 0
  unit  : BitVec 16 := 0
  d0    : BitVec 64 := 0
  d1    : BitVec 64 := 0
  d2    : BitVec 128 := 0
deriving DecidableEq, Repr

/-- A control window (R499). -/
structure Window where
  insn   : BitVec 128 := 0
  args   : Tbl Slot := []
  busy   : Bool := false
  done   : Bool := false
  dropGo : BitVec 16 := 0
  recd   : BitVec 128 := 0
deriving DecidableEq, Repr

/-- A calibration overlay (R445). -/
structure Overlay where
  param : BitVec 8
  index : BitVec 16
  value : BitVec 24
deriving DecidableEq, Repr

/-- Security, journal and events (R418 to R431, R466 to R472). -/
structure Sec where
  lc      : LifeCycle := .manufacture
  debug   : DebugLevel := .none
  caskV   : Bool := false
  wipeCause : BitVec 4 := 0
  wipes   : BitVec 16 := 0
  wipeTick : BitVec 32 := 0
  jrnl    : Tbl JEntry := []
  jseq    : BitVec 64 := 1
  jdig    : List Byte := []
  jopen   : Bool := false
  evts    : Tbl Event := []
  eseq    : BitVec 64 := 0
  evtDrop : BitVec 32 := 0
  fails   : BitVec 32 := 0
  lastInv : BitVec 4 := 0
  lastTick : BitVec 28 := 0
deriving DecidableEq, Repr

/-- Buttons, latch, LEDs, sensors (R486 to R493): `attn` and `attnEnd` are when the press in progress began and the last one ended, in ms;
`refusedAt` the tick in which the button's evacuation was refused. -/
structure Module where
  locate  : BitVec 2 := 0
  attn    : Option Nat := none
  attnEnd : Option Nat := none
  longDone : Bool := false
  ignored : Bool := false
  latch   : Bool := false
  pwrGood : Bool := true
  presses : BitVec 16 := 0
  longPr  : BitVec 16 := 0
  refusedAt : Option Nat := none
  temp    : Tbl (BitVec 16) := []
  tmax    : Tbl (BitVec 16) := []
  warn    : BitVec 43 := 0
  throttled : BitVec 32 := 0
deriving DecidableEq, Repr

/-- What the device puts on its pins and links and does not keep: the record of its outputs (model's own field, log 2). Log 36. -/
inductive Output where
  | flit (lane : Nat) (f : Flit)
  | tickOut
  | msix (vector : Nat)
  | i3cIbi
  | i3cResp (bytes : List Byte)
  | spdm (m : Mctp) (code : Nat) (body : List Byte)
  | thermAlert (asserted : Bool)
deriving DecidableEq, Repr

/-- The whole state. `ctlq` is the control queue in order of arrival: an instruction of a management interface with its arguments, or the turn
of the next CTLI of a Quarter's Square queue (R16). -/
structure State where
  pending : List Instr := []
  freeCtr : Nat := 0
  out     : List Output := []
  fuse    : Fuses := {}
  boot    : Boot := {}
  pw      : Power := {}
  tb      : Timebase := {}
  sec     : Sec := {}
  mod     : Module := {}
  selfEid : BitVec 12 := 0xFFF
  selfInc : BitVec 8 := 0
  eidInc  : Tbl (BitVec 8) := []
  mgrs    : List Nat := []
  ports   : Tbl Port := []
  cage    : BitVec 64 := 0
  spray   : BitVec 7 := 0
  rsto    : BitVec 8 := 0x10
  qs      : Tbl Quarter := []
  trunks  : Tbl Trunk := []
  parts   : Tbl Part := []
  trays   : Tbl Tray := []
  blks    : Tbl Block := []
  ctxs    : Tbl Ctx := []
  mem     : Tbl Byte := []
  poison  : List Nat := []
  lost    : List Nat := []
  joins   : Tbl (Option Join) := []
  pteEvt  : Tbl Nat := []
  joinNext : Nat := 0
  sqOut   : List Msg := []
  winP    : Window := {}
  winI    : Window := {}
  ctlq    : List (Via × BitVec 128 × List Slot) := []
  calset  : List Overlay := []
  flash   : List Overlay := []
  flashOld : List Overlay := []
  save    : Option Caller := none
  hdrop   : Option Nat := none
deriving DecidableEq, Repr

/-- The machine right after reset: every register at its reset value, start-up step 1 in progress (R433), every Block SCRUBBING
(R413), every port DISABLED (R439), the timebase UNALIGNED at tick 0. Log 14. -/
def State.reset : State := {}

end Sys2Proof.Machine
end

