-- ==== Sys2Proof/Machine/Table.lean ====
section
/-! DEFINITION. Sparse tables in one canonical form: keys strictly rising, no entry equal to what an unlisted key holds. -/

namespace Sys2Proof.Machine

/-- The value at a key; `d` where the key is not listed. -/
def tget (t : Tbl α) (k : Nat) (d : α) : α :=
  match t with
  | [] => d
  | (j, v) :: r => if j = k then v else tget r k d

/-- The entry of a key, if it is listed. -/
def tfind (t : Tbl α) (k : Nat) : Option α := (t.find? (fun e => e.1 = k)).map (·.2)

/-- The table without a key. -/
def tdel (t : Tbl α) (k : Nat) : Tbl α :=
  match t with
  | [] => []
  | (j, v) :: r => if j = k then tdel r k else (j, v) :: tdel r k

/-- Puts an entry in its place among rising keys. -/
def tins (t : Tbl α) (k : Nat) (v : α) : Tbl α :=
  match t with
  | [] => [(k, v)]
  | (j, w) :: r => if k < j then (k, v) :: (j, w) :: r else (j, w) :: tins r k v

/-- Writes a key; writing `d` removes its entry. -/
def tset [DecidableEq α] (t : Tbl α) (k : Nat) (v : α) (d : α) : Tbl α :=
  if v = d then tdel t k else tins (tdel t k) k v

/-- Changes every entry of a table, dropping those that become `d`. -/
def tmap [DecidableEq α] (t : Tbl α) (d : α) (f : Nat → α → α) : Tbl α :=
  t.filterMap (fun e => if f e.1 e.2 = d then none else some (e.1, f e.1 e.2))

/-- The canonical form of a table whose unlisted keys hold `d`. -/
def twf [DecidableEq α] (t : Tbl α) (d : α) : Bool :=
  match t with
  | [] => true
  | [(_, v)] => decide (v ≠ d)
  | (j, v) :: (k, w) :: r => decide (v ≠ d) && decide (j < k) && twf ((k, w) :: r) d

/-- Inserts into a strictly rising list of numbers. -/
def setIns (l : List Nat) (k : Nat) : List Nat :=
  match l with
  | [] => [k]
  | j :: r => if k < j then k :: j :: r else if k = j then j :: r else j :: setIns r k

/-- Removes from a list of numbers. -/
def setDel (l : List Nat) (k : Nat) : List Nat := l.filter (· ≠ k)

/-- A number in or out of a set, as told. -/
def setPut (l : List Nat) (k : Nat) (on : Bool) : List Nat := if on then setIns (setDel l k) k else setDel l k

end Sys2Proof.Machine
end

