-- ==== Sys2Proof/Machine/Ops.lean ====
section
/-! DEFINITION. Named operations over the state: accessors of its tables, free values, time, limits. -/

namespace Sys2Proof.Machine

/-! ### Status codes (R183) -/

abbrev stOk : Status := 0x00
abbrev stPoison : Status := 0x01
abbrev stPoliced : Status := 0x02
abbrev stMapStale : Status := 0x03
abbrev stStaleVersion : Status := 0x04
abbrev stUnknown : Status := 0x05
abbrev stStateLost : Status := 0x06
abbrev stNoTrans : Status := 0x07
abbrev stPerm : Status := 0x08
abbrev stDead : Status := 0x09
abbrev stTeardown : Status := 0x0A
abbrev stOverrun : Status := 0x0B
abbrev stBusy : Status := 0x0C
abbrev stRetry : Status := 0x0D
abbrev stBadInc : Status := 0x0E
abbrev stDenied : Status := 0x0F
abbrev stConserv : Status := 0x10
abbrev stInvalid : Status := 0x11

/-! ### Tables of the state -/

def State.port (s : State) (l : Nat) : Port := tget s.ports l {}
def State.setPort (s : State) (l : Nat) (p : Port) : State := { s with ports := tset s.ports l p {} }
def State.updPort (s : State) (l : Nat) (f : Port → Port) : State := s.setPort l (f (s.port l))
def State.qtr (s : State) (q : Nat) : Quarter := tget s.qs q {}
def State.setQtr (s : State) (q : Nat) (x : Quarter) : State := { s with qs := tset s.qs q x {} }
def State.updQtr (s : State) (q : Nat) (f : Quarter → Quarter) : State := s.setQtr q (f (s.qtr q))
def State.trunk (s : State) (t : Nat) : Trunk := tget s.trunks t {}
def State.setTrunk (s : State) (t : Nat) (x : Trunk) : State := { s with trunks := tset s.trunks t x {} }
def State.updTrunk (s : State) (t : Nat) (f : Trunk → Trunk) : State := s.setTrunk t (f (s.trunk t))
def State.part (s : State) (p : Nat) : Part := tget s.parts p {}
def State.setPart (s : State) (p : Nat) (x : Part) : State := { s with parts := tset s.parts p x {} }
def State.updPart (s : State) (p : Nat) (f : Part → Part) : State := s.setPart p (f (s.part p))
def State.tray (s : State) (t : Nat) : Tray := tget s.trays t {}
def State.setTray (s : State) (t : Nat) (x : Tray) : State := { s with trays := tset s.trays t x {} }
def State.updTray (s : State) (t : Nat) (f : Tray → Tray) : State := s.setTray t (f (s.tray t))
def State.blk (s : State) (g : Nat) : Block := tget s.blks g {}
def State.setBlk (s : State) (g : Nat) (x : Block) : State := { s with blks := tset s.blks g x {} }
def State.updBlk (s : State) (g : Nat) (f : Block → Block) : State := s.setBlk g (f (s.blk g))
def State.ctx (s : State) (c : Nat) : Ctx := tget s.ctxs c {}
def State.setCtx (s : State) (c : Nat) (x : Ctx) : State := { s with ctxs := tset s.ctxs c x {} }
def State.updCtx (s : State) (c : Nat) (f : Ctx → Ctx) : State := s.setCtx c (f (s.ctx c))

/-- The settings and packets of queue `n` of a Quarter. -/
def Quarter.queue (x : Quarter) (n : Nat) : Queue := tget x.queues n {}
def Quarter.setQueue (x : Quarter) (n : Nat) (v : Queue) : Quarter := { x with queues := tset x.queues n v {} }
def State.queue (s : State) (q n : Nat) : Queue := (s.qtr q).queue n
def State.updQueue (s : State) (q n : Nat) (f : Queue → Queue) : State :=
  s.updQtr q (fun x => x.setQueue n (f (x.queue n)))

/-- The current incarnation of an EID; 0x00 is none (R506). -/
def State.incOf (s : State) (e : Eid) : Inc := tget s.eidInc e.toNat 0
def State.setInc (s : State) (e : Eid) (i : Inc) : State := { s with eidInc := tset s.eidInc e.toNat i 0 }

/-- Puts a record on the output list (log 2). -/
def State.emit (s : State) (o : Output) : State := { s with out := s.out ++ [o] }
/-- Puts a flit or a join message on a link; a halted device sends none (R463). -/
def State.send (s : State) (o : Output) : State := if s.boot.halted then s else s.emit o

/-- The entry point of a management interface (R15, R16). -/
def viaOf : Mctp → Via
  | .pcie => .pcie
  | .i3c => .i3c

/-- The turn of the first CTLI of a Quarter's Square queue goes from the control queue (R16). -/
def dropTurn (l : List (Via × BitVec 128 × List Slot)) (q : Nat) : List (Via × BitVec 128 × List Slot) :=
  match l with
  | [] => []
  | (v, r) :: t => if v = .tc0 (BitVec.ofNat 2 q) then t else (v, r) :: dropTurn t q

/-! ### Free values and time -/

/-- A value the spec leaves open, and the state with the counter advanced (log 1). -/
def State.free (s : State) : Nat × State := (Config.freeValue s.freeCtr, { s with freeCtr := s.freeCtr + 1 })

/-- The current tick. Log 109. -/
abbrev State.now (s : State) : Nat := s.tb.tick.toNat

/-- The end of a duration of `n` ticks that begins in tick `t` (R35). Log 109. -/
def endOf (t n : Nat) : Nat := t + n + 1

/-- Engine cycles per tick of the fitted variant (R4). -/
def Variant.budget : Variant → Nat
  | .F => 1000 | .E => 800 | .L => 600

/-- QENG, QCORE in MHz and the envelope in W (R4). -/
def Variant.qeng : Variant → Nat
  | .F => 1000 | .E => 800 | .L => 600
def Variant.qcore : Variant → Nat
  | .F => 1250 | .E => 1250 | .L => 1000
def Variant.env : Variant → Nat
  | .F => 1400 | .E => 1100 | .L => 850

abbrev State.budgetMax (s : State) : Nat := s.fuse.variant.budget

/-! ### Power (R433, R452, R482, R483) -/

/-- Whether the module is neither held in reset, nor without power, nor in P4. Log 124. -/
def State.alive (s : State) : Bool := !s.boot.held && s.mod.pwrGood && !s.boot.dead && s.pw.state ≠ 4

/-- The timebase counts from the end of step 2 on. Log 124. -/
def State.ticking (s : State) : Bool := s.alive && 3 ≤ s.boot.step.toNat && s.boot.step.toNat ≤ 6

/-- The Quarters are powered, and not halted. Log 124. -/
def State.quartersOn (s : State) : Bool := s.ticking && s.pw.state ≠ 3 && !s.boot.halted

/-! ### Numbering (R24, R57, and "Registers" of 04) -/

/-- The Quarter of a lane, of a Block. -/
def qOfLane (l : Nat) : Nat := l / 128
def qOfBlk (g : Nat) : Nat := g / 16
/-- Queue indices. -/
def nPort (l k : Nat) : Nat := 8 * (l % 128) + k
def nBlk (g k : Nat) : Nat := 1024 + 8 * (g % 16) + k
def nSquare : Nat := 1152

/-- Lanes of a port (R57). -/
def Port.lanes (p : Port) : Nat := 2 ^ p.width.toNat
/-- A port that is enabled and known by this lane (R57, R94). -/
def Port.enabled (p : Port) : Bool := p.off = 0 && p.state ≠ .disabled

/-- Slots of a packet (R91). -/
def Pkt.slots (p : Pkt) : Nat := 1 + p.xslots.toNat + p.len.toNat
/-- Cells of a packet (R91). -/
def Pkt.cells (p : Pkt) : Nat := cdiv p.slots 15

/-- The common header as a slot (R87). -/
def Pkt.header (p : Pkt) : Slot :=
  packSlot [(3, p.tc.toNat), (5, p.mtype.toNat), (12, p.deid.toNat), (12, p.seid.toNat), (8, p.sinc.toNat), (16, p.job.toNat),
    (16, p.gen.toNat), (12, p.tag.toNat), (5, p.status.toNat), (4, p.load.toNat), (9, p.len.toNat), (2, p.xslots.toNat),
    (1, b1 p.spray), (16, p.pseq.toNat), (7, p.rsv.toNat)]

/-- The fields of a common header (R87). -/
def Pkt.ofHeader (h : Slot) : Pkt :=
  let f := fun lo n => sbits h lo n
  { tc := f 0 3, mtype := f 3 5, deid := f 8 12, seid := f 20 12, sinc := f 32 8, job := f 40 16, gen := f 56 16,
    tag := f 72 12, status := f 84 5, load := f 89 4, len := f 93 9, xslots := f 102 2, spray := sbit h 104,
    pseq := f 105 16, rsv := f 121 7 }

/-- A packet's slots in order: header, extension slots, payload (R87). -/
def Pkt.toSlots (p : Pkt) : List Slot := p.header :: (p.x ++ p.data)

/-- The packet that slots spell. -/
def Pkt.ofSlots : List Slot → Pkt
  | [] => {}
  | h :: r =>
    let p := Pkt.ofHeader h
    { p with x := r.take p.xslots.toNat, data := r.drop p.xslots.toNat }

/-- Adds a penalty to the open sub-window of a health record (R470). -/
def Health.add (h : Health) (n : Nat) : Health :=
  { h with windows := match h.windows with | [] => [n] | w :: r => (w + n) :: r }

/-! ### Partitions and their Blocks -/

/-- The Blocks of a partition, ascending (R28). -/
def Part.blist (p : Part) : List Nat := maskList 64 p.blocks

/-- The partition that a Block belongs to; a Block that a resize removes belongs to it until it becomes SCRUBBING (R406). -/
def State.partOfBlk (s : State) (g : Nat) : Option Nat :=
  (s.parts.find? (fun e => e.2.blocks.getLsbD g || (e.2.leaving.getLsbD g && (s.blk g).state = .member))).map (·.1)

/-- The partition that a job is bound to on this device (R401). -/
def State.partOfJob (s : State) (j : JobId) : Option Nat :=
  if j = 0 then none else (s.parts.find? (fun e => e.2.job = j)).map (·.1)

/-- The job of a context: that of its Block's partition. -/
def State.jobOfCtx (s : State) (c : Nat) : JobId :=
  match s.partOfBlk (c / 16) with
  | some p => (s.part p).job
  | none => 0

/-- The home index of a line among `n` Blocks (R28). -/
def homeIdx (line n : Nat) : Nat :=
  let x := [7, 14, 21, 28, 35, 42].foldl (fun a k => a ^^^ (line >>> k)) line
  x % n

/-- The home Block of a line under a Block mask (R28). -/
def homeOf (blocks : BitVec 64) (line : Nat) : Nat :=
  let l := maskList 64 blocks
  nth l (homeIdx line l.length)

/-! ### Pool memory (08): bytes by partition and pool address -/

/-- The canonical form of pool memory: keys strictly rising, no listed byte equal to what an unlisted one reads as. Log 16. -/
def Memory.wf (m : Tbl Byte) : Bool := twf m 0

def memKey (p a : Nat) : Nat := p * 2 ^ 52 + a
def lineKey (p l : Nat) : Nat := p * 2 ^ 45 + l

/-- A byte of pool memory; unlisted bytes read as zero (R223). Log 16. -/
def State.peek (s : State) (p a : Nat) : Byte := tget s.mem (memKey p a) 0
def State.poke (s : State) (p a : Nat) (b : Byte) : State := { s with mem := tset s.mem (memKey p a) b 0 }

/-- `n` bytes of pool memory. -/
def State.peeks (s : State) (p a n : Nat) : List Byte := (List.range n).map (fun i => s.peek p (a + i))
/-- Writes bytes of pool memory. -/
def State.pokes (s : State) (p a : Nat) : List Byte → State
  | [] => s
  | b :: r => (s.poke p a b).pokes p (a + 1) r

/-- The poison flag and the LOST flag of a line (R206, R464). -/
def State.poisoned (s : State) (p l : Nat) : Bool := s.poison.contains (lineKey p l)
def State.isLost (s : State) (p l : Nat) : Bool := s.lost.contains (lineKey p l)
def State.setPoison (s : State) (p l : Nat) (on : Bool) : State := { s with poison := setPut s.poison (lineKey p l) on }
def State.setLost (s : State) (p l : Nat) (on : Bool) : State := { s with lost := setPut s.lost (lineKey p l) on }

/-- Every byte and flag of a pool range becomes zero (R229). -/
def State.clearPool (s : State) (p a n : Nat) : State :=
  { s with
    mem := s.mem.filter (fun e => e.1 < memKey p a || memKey p (a + n) ≤ e.1)
    poison := s.poison.filter (fun k => k < lineKey p (a / 128) || lineKey p ((a + n) / 128) ≤ k)
    lost := s.lost.filter (fun k => k < lineKey p (a / 128) || lineKey p ((a + n) / 128) ≤ k) }

/-! ### Banks (13): 8 MiB of a Block, with a poison bit for each 16 B -/

/-- A byte of a Block's banks; one not written since the banks were last powered is a free value (R388, R412, R457; log 5). -/
def Block.peek (b : Block) (o : Nat) : Byte :=
  match tget b.bank o none with
  | some v => v
  | none => Config.bankByte b.bankEra o
def Block.peeks (b : Block) (o n : Nat) : List Byte := (List.range n).map (fun i => b.peek (o + i))
def Block.pokes (b : Block) (o : Nat) : List Byte → Block
  | [] => b
  | v :: r => Block.pokes { b with bank := tset b.bank o (some v) none } (o + 1) r
/-- The 16 B words that a range touches. -/
def wordsOf (o n : Nat) : List Nat := if n = 0 then [] else (List.range ((o + n - 1) / 16 - o / 16 + 1)).map (· + o / 16)
/-- Whether a range of a bank holds a poisoned word. -/
def Block.bad (b : Block) (o n : Nat) : Bool := (wordsOf o n).any (fun w => b.bpois.contains w)
/-- Writes bytes with a poison bit for the words they touch: a clean write clears it (R465). -/
def Block.write (b : Block) (o : Nat) (v : List Byte) (pois : Bool) : Block :=
  let b := b.pokes o v
  { b with bpois := (wordsOf o v.length).foldl (fun l w => setPut l w pois) b.bpois }

end Sys2Proof.Machine
end

