-- ==== Sys2Proof/Machine/Buffer.lean ====
section
/-! DEFINITION. The output buffer of a Quarter: pool, admission, release, waits (04 R91 to R104, R508; 05 R143 to R147). -/

namespace Sys2Proof.Machine

/-- Cells of the Quarter's output buffer (R91). -/
def cellsTotal : Nat := 196608

/-- Landing cells of a port (R94): the rings of the credits in force. -/
def Port.landCells (p : Port) : Nat :=
  ((List.range 7).map (fun k => cdiv (tget p.advCur k 0).toNat 15)).sum

/-- Landing cells that the credits set by LINKCTL would take (R95). -/
def Port.landCellsSet (p : Port) : Nat :=
  ((List.range 7).map (fun k => cdiv (tget p.adv k 0).toNat 15)).sum

/-- The enabled ports of a Quarter. -/
def State.portsOf (s : State) (q : Nat) : List (Nat × Port) :=
  s.ports.filter (fun e => e.1 / 128 = q && e.2.enabled)

/-- Whether queue `n` of Quarter `q` exists (R93). -/
def State.qExists (s : State) (q n : Nat) : Bool :=
  if n < 1024 then n % 8 < 7 && (s.port (128 * q + n / 8)).enabled
  else if n < nSquare then n % 8 = 2 || n % 8 = 3 || n % 8 = 4
  else n = nSquare

/-- U_Q, the cells charged to a queue. -/
def Queue.used (x : Queue) : Nat := (x.pkts.map (·.cells)).sum
/-- Cells the queue holds from its minimum. -/
def Queue.fromMin (x : Queue) : Nat := (x.pkts.map (·.fromMin)).sum
/-- Pool cells the queue holds: those of its unicast packets. -/
def Queue.fromPool (x : Queue) : Nat :=
  (x.pkts.map (fun p => match p.mc with | some _ => 0 | none => p.cells - p.fromMin)).sum

/-- L, ΣMIN and P of a Quarter (R96). -/
def State.landAll (s : State) (q : Nat) : Nat := ((s.portsOf q).map (fun e => e.2.landCells)).sum
def State.minAll (s : State) (q : Nat) : Nat :=
  (((s.qtr q).queues.filter (fun e => s.qExists q e.1)).map (fun e => e.2.min.toNat)).sum
def State.poolP (s : State) (q : Nat) : Int :=
  (cellsTotal : Int) - s.landAll q - s.minAll q - (s.qtr q).mcres.toNat

/-- Pool cells in use, cells of copies, and MCRES cells in use. -/
def Quarter.poolUsed (x : Quarter) : Nat :=
  (x.queues.map (fun e => e.2.fromPool)).sum + (x.mcs.map (fun e => e.2.cells - e.2.fromRes)).sum
def Quarter.mcUse (x : Quarter) : Nat := (x.mcs.map (fun e => e.2.cells)).sum
def Quarter.resUsed (x : Quarter) : Nat := (x.mcs.map (fun e => e.2.fromRes)).sum
/-- F, the pool cells not in use (R96). -/
def State.poolF (s : State) (q : Nat) : Int := s.poolP q - (s.qtr q).poolUsed

/-- The test of R97 for `n` cells: `some true` within the minimum, `some false` from the pool, `none` refused. -/
def admitTest (x : Queue) (free : Int) (n : Nat) : Option Bool :=
  if x.used + n ≤ x.min.toNat then some true
  else if ((x.used - x.min.toNat) * 16 : Nat) < free * (2 ^ x.alpha.toNat : Nat) ∧ (n : Int) ≤ free then some false
  else none

/-- A sub-tick stamp that no operand gives: a free value below 1,000 (log 8). -/
def State.nsFree (s : State) : Nat × State := let (v, s) := s.free; (v % 1000, s)

/-- The load level's parts and value (R143). -/
def State.levelD (s : State) (g : Nat) : Nat :=
  min 15 ((s.queue (qOfBlk g) (nBlk g 2)).delayMean.toNat / (s.qtr (qOfBlk g)).dstep.toNat)
def State.level (s : State) (g : Nat) : Nat :=
  max (min 15 ((s.queue (qOfBlk g) (nBlk g 2)).used / (s.qtr (qOfBlk g)).lstep.toNat)) (s.levelD g)

/-- Keeps the largest P − F of a Quarter after a change (R147). -/
def State.notePool (s : State) (q : Nat) : State :=
  let use := (s.qtr q).poolUsed
  s.updQtr q (fun x => { x with poolTop := max x.poolTop use })

/-- Keeps PEAK of a Block, DEPTHMAX of a queue and the largest P − F of its Quarter after a change (R143, R145, R147). -/
def State.noteDepth (s : State) (q n : Nat) : State :=
  let u := (s.queue q n).used
  let s := (s.updQueue q n (fun x => { x with depthCur := max x.depthCur u })).notePool q
  if 1024 ≤ n ∧ n < nSquare ∧ n % 8 = 2 then
    let g := 16 * q + (n - 1024) / 8
    let v := s.level g
    s.updBlk g (fun b => { b with peak := BitVec.ofNat 4 (max b.peak.toNat v) })
  else s

/-- A CTLI in a Square queue takes its turn in the control queue as it comes to the Square (R16). Log 93. -/
def State.takeTurn (s : State) (q n : Nat) (p : Pkt) : State :=
  if n = nSquare ∧ p.tc = 0 ∧ p.mtype = 0 then { s with ctlq := s.ctlq ++ [(.tc0 (BitVec.ofNat 2 q), 0, [])] } else s

/-- Puts a packet on a queue. -/
def State.enqueue (s : State) (q n : Nat) (m : Msg) (cells fromMin : Nat) (mc : Option Nat) : State :=
  let (ns, s) := (s.takeTurn q n m.pkt).nsFree
  let p : QPkt := { msg := m, cells := cells, fromMin := fromMin, mc := mc, tick := s.now, ns := ns, started := false }
  (s.updQueue q n (fun x => { x with pkts := x.pkts ++ [p], waited := true })).noteDepth q n

/-- A lossless packet's wait begun, or a drop, counted in REFUSED (04, QT_QSTAT). -/
def State.countRefused (s : State) (q n : Nat) : State := s.updQueue q n (fun x => { x with refused := satAdd x.refused 1 })

/-- Admits a unicast packet to a queue (R97), or not. -/
def State.admitUni (s : State) (q n : Nat) (m : Msg) : Option State :=
  let c := m.pkt.cells
  match admitTest (s.queue q n) (s.poolF q) c with
  | some inMin => some (s.enqueue q n m c (if inMin then c else 0) none)
  | none => none

/-- The targets of a Quarter that pass R97 for a copy of `c` cells (R103). -/
def State.mcPass (s : State) (q c : Nat) (ts : List (Nat × Msg)) : List (Nat × Msg) :=
  ts.filter (fun t => (admitTest (s.queue q t.1) (s.poolF q) c).isSome)

/-- How many of a copy's cells come from MCRES; none when no cells can be had (R103). -/
def State.mcSource (s : State) (q c : Nat) : Option Nat :=
  if (c : Int) ≤ s.poolF q then some 0
  else if c + (s.qtr q).resUsed ≤ (s.qtr q).mcres.toNat then some c else none

/-- Stores a multicast copy in a Quarter (R102, R103): `none` when it must wait. Log 67. -/
def State.admitMc (s : State) (q : Nat) (ts : List (Nat × Msg)) (c : Nat) (lossless : Bool) : Option State :=
  let ok := match s.mcSource q c with | some r => some (r, s.mcPass q c ts) | none => none
  let store := fun (r : Nat) (l : List (Nat × Msg)) =>
    let id := (s.qtr q).mcNext
    let s := s.updQtr q (fun x => { x with mcNext := id + 1, mcs := x.mcs ++ [(id, { cells := c, fromRes := r, refs := l.length })] })
    l.foldl (fun s t => s.enqueue q t.1 t.2 c 0 (some id)) s
  let drop := fun (s : State) (l : List (Nat × Msg)) =>
    let s := s.updQtr q (fun x => { x with mcDrop := satAdd x.mcDrop l.length })
    l.foldl (fun s t => s.countRefused q t.1) s
  if lossless then
    match ok with
    | some (r, l) => if l.length = ts.length then some (store r ts) else none
    | none => none
  else
    match ok with
    | none => some (drop s ts)
    | some (r, l) =>
      let bad := ts.filter (fun t => ! l.contains t)
      some (drop (if l = [] then s else store r l) bad)

/-- Releases one packet's charge and, with the last reference, a copy's cells (R99, R104). -/
def State.releaseMc (s : State) (q : Nat) (p : QPkt) : State :=
  match p.mc with
  | none => s
  | some id => s.updQtr q (fun x => { x with mcs := x.mcs.filterMap (fun e =>
      if e.1 = id then (if e.2.refs ≤ 1 then none else some (e.1, { e.2 with refs := e.2.refs - 1 })) else some e) })

/-- Counts a packet that leaves a queue: its wait, and its slots (R145). -/
def State.noteLeave (s : State) (q n : Nat) (p : QPkt) (ns : Nat) : State :=
  let w := (s.now * 1000 + ns) - (p.tick * 1000 + p.ns)
  s.updQueue q n (fun x => { x with delaySum := x.delaySum + w, delayNum := x.delayNum + 1, delayTop := max x.delayTop w,
                                    sentCur := x.sentCur + p.msg.pkt.slots })

/-- Takes the packet at the head of a Block queue or the Square queue (R99). -/
def State.takeHead (s : State) (q n : Nat) : Option (QPkt × State) :=
  match (s.queue q n).pkts with
  | [] => none
  | p :: r =>
    let (ns, s) := s.nsFree
    let s := s.noteLeave q n p ns
    some (p, (s.updQueue q n (fun x => { x with pkts := r })).releaseMc q p)

/-- The packet at the head of a Block queue or the Square queue. -/
def State.headOf (s : State) (q n : Nat) : Option QPkt := (s.queue q n).pkts.head?

/-- Releases the first started packet of a port queue: its last flit has been acknowledged (R69, R99). -/
def State.releaseSent (s : State) (q n : Nat) : State :=
  match (s.queue q n).pkts.find? (·.started) with
  | none => s
  | some p => (s.updQueue q n (fun x => { x with pkts := x.pkts.erase p })).releaseMc q p

/-- Discards every packet of a port's queues (R85), counted as down discards. -/
def State.dropQueues (s : State) (l : Nat) : State :=
  let q := qOfLane l
  (List.range 7).foldl (fun s k =>
    let n := nPort l k
    let ps := (s.queue q n).pkts
    let s := ps.foldl (fun s p => s.releaseMc q p) s
    let s := if ps = [] then s else s.updQueue q n (fun x => { x with pkts := [] })
    s.updPort l (fun p => { p with downDisc := satAdd p.downDisc ps.length })) s

/-- MIN_Q or MCRES lowered: cells above the new figure are recounted as pool cells (R101, R508). -/
def recountMin : Nat → List QPkt → List QPkt
  | _, [] => []
  | m, p :: r => if p.fromMin ≤ m then p :: recountMin (m - p.fromMin) r else { p with fromMin := m } :: recountMin 0 r
def recountRes : Nat → List (Nat × McCopy) → List (Nat × McCopy)
  | _, [] => []
  | m, e :: r => if e.2.fromRes ≤ m then e :: recountRes (m - e.2.fromRes) r
                 else (e.1, { e.2 with fromRes := m }) :: recountRes 0 r

end Sys2Proof.Machine
end

