-- ==== Sys2Proof/Machine/Regs.lean ====
section
/-! DEFINITION. The register map: what a read of BAR0 gives (18 R494 to R501, and the field tables of the chapters it names). -/

namespace Sys2Proof.Machine

/-- An event record as a number of 512 bits (R466). -/
def Event.pack (e : Event) : Nat :=
  Machine.pack [(64, e.seq.toNat), (64, e.tick.toNat), (16, e.ns.toNat), (8, e.code.toNat), (8, e.cls.toNat), (16, e.job.toNat),
    (8, e.part.toNat), (8, e.flags.toNat), (16, e.ctx.toNat), (16, e.eid.toNat), (8, e.inc.toNat), (8, 0), (16, e.unit.toNat),
    (64, e.d0.toNat), (64, e.d1.toNat), (128, e.d2.toNat)]

/-- A journal entry as a number of 512 bits (R425). -/
def JEntry.pack (e : JEntry) : Nat :=
  Machine.pack [(64, e.seq.toNat), (64, e.tick.toNat), (8, e.src.toNat), (8, e.opc.toNat), (8, e.sub.toNat), (8, e.flags.toNat),
    (16, e.eid.toNat), (16, 0), (32, e.target.toNat), (32, 0), (64, e.old.toNat), (64, e.new.toNat), (128, 0)]

/-- 64-bit word `i` of a record. -/
def wordOf (n i : Nat) : BitVec 64 := BitVec.ofNat 64 (bits n (64 * i) 64)

/-- A health register (16, "Registers"). -/
def Health.reg (h : Health) : BitVec 64 :=
  pack64 [(8, h.score.toNat), (8, h.low.toNat), (24, h.penalty.toNat), (1, b1 (h.score.toNat < 192)), (1, b1 (h.score.toNat < 64))]

/-- A segment descriptor as a number of 256 bits (R216). -/
def Segment.pack (g : Segment) : Nat :=
  Machine.pack [(64, g.cbase.toNat), (64, g.clast.toNat), (64, g.pbase.toNat), (1, b1 g.v), (1, b1 g.rd), (1, b1 g.wr)]

def PortState.code : PortState → Nat
  | .disabled => 0 | .down => 1 | .train => 2 | .align => 3 | .hello => 4 | .joining => 5 | .active => 6 | .retrain => 7 | .fenced => 8
def PartState.code : PartState → Nat
  | .none => 0 | .ready => 1 | .bound => 2 | .fenced => 3 | .scrubbing => 4 | .releasing => 5
def TrayState.code : TrayState → Nat
  | .disabled => 0 | .down => 1 | .train => 2 | .ready => 3 | .assigned => 4 | .evac => 5 | .empty => 6 | .lost => 7
def BlkState.code : BlkState → Nat
  | .free => 0 | .member => 1 | .scrubbing => 2
def CtxState.code : CtxState → Nat
  | .empty => 0 | .ready => 1 | .blocked => 2 | .swapped => 3 | .held => 4 | .faulted => 5
def TbState.code : TbState → Nat
  | .source => 0 | .locked => 1 | .holdover => 2 | .unaligned => 3
def lcCode : LifeCycle → Nat
  | .manufacture => 0 | .provisioned => 1 | .deployed => 2 | .returned => 3 | .scrapped => 4
def dbgCode : DebugLevel → Nat
  | .none => 0 | .observe => 1 | .invasive => 2
def Variant.code : Variant → Nat
  | .F => 0 | .E => 1 | .L => 2

/-! ### Frames of a partition (R213, R214) -/

/-- Pool frames of `k` Blocks in the near and the bulk tier (R213). -/
def nearFrames (k : Nat) : Nat := 4 * k * 2929687 / 524288
def bulkFrames (k : Nat) : Nat := 6 * k * 7812500 / 524288 - 1 - cdiv k 16

/-- Bytes of a tick that a partition's migrations may use in a tier: MIGSHARE sixteenths of its bandwidth (R234). Log 70. -/
def Part.migRate (p : Part) (tier : Nat) : Nat :=
  p.migshare.toNat * (match tier with
    | 1 => 256000 * popcount p.blocks
    | 2 => 230400 * popcount p.blocks
    | _ => 64000 * (maskList 16 p.trays).length) / 16

/-- Free frames of each tier (SQ_POOL_CAP). -/
def Part.nearFree (p : Part) : Nat := if p.state = .none then 0 else nearFrames (popcount p.blocks) - p.usedNear
def Part.bulkFree (p : Part) : Nat := if p.state = .none then 0 else bulkFrames (popcount p.blocks) - p.usedBulk
def State.trayFree (s : State) (p : Nat) : Nat :=
  ((maskList 16 (s.part p).trays).map (fun t =>
    let x := s.tray t
    if x.state = .assigned then x.frames.toNat - x.placed.toNat else 0)).sum

/-! ### Square space -/

/-- Word `w` of SQ_TRUNK_t (R501). -/
def State.trunkWord (s : State) (t w : Nat) : BitVec 64 :=
  let x := s.trunk t
  let mem := fun i => match x.members[i]? with | some l => 128 + l % 128 | none => 0
  let left := fun k => match tget (x.gap.map (fun e => (e.1, some e.2))) k none with | some d => d - s.now | none => 0
  let sprayed := fun k => s.spray.getLsbD k
  match w with
  | 0 => pack64 [(1, b1 (x.members ≠ [])), (2, qOfLane (nth x.members 0)), (5, x.members.length), (16, x.active.toNat), (12, x.peer.toNat)]
  | 1 => pack64 ((List.range 8).map (fun i => (8, mem i)))
  | 2 => pack64 ((List.range 8).map (fun i => (8, mem (8 + i))))
  | 3 => pack64 ((List.range 4).map (fun i => (16, if sprayed (i + 2) then (tget x.exp (i + 2) 0).toNat else 0)))
  | 4 => pack64 ((16, if sprayed 6 then (tget x.exp 6 0).toNat else 0) :: (List.range 5).map (fun i => (8, left (i + 2))))
  | _ => 0

/-- A control window as seen by its own interface (R499). -/
def Window.read (w : Window) (o : Nat) : BitVec 64 :=
  if o = 0x408 then pack64 [(1, b1 w.busy), (1, b1 w.done), (14, 0), (16, w.dropGo.toNat)]
  else if o = 0x410 then BitVec.ofNat 64 w.recd.toNat
  else if o = 0x418 then BitVec.ofNat 64 (w.recd.toNat / 2 ^ 64)
  else 0

/-- The Square's registers other than the control windows. -/
def State.readSq (s : State) (o : Nat) : BitVec 64 :=
  let v := s.fuse.variant
  if o = 0x0 then pack64 [(16, 0x7100), (2, v.code), (6, 0), (8, Config.stepping.toNat), (32, Config.serial.toNat)]
  else if o = 0x8 then pack64 [(12, v.qeng), (12, v.qcore), (16, v.env), (12, v.budget)]
  else if o = 0x10 then pack64 [(12, s.selfEid.toNat), (8, s.selfInc.toNat)]
  else if o = 0x800 then
    let b := s.boot
    pack64 [(3, b.step.toNat), (2, b.result.toNat), (1, b1 b.image), (6, b.memFull.toNat), (4, b.lnkFull.toNat), (8, b.fault.toNat), (32, b.elapsed.toNat)]
  else if o = 0x808 then s.boot.blkFail
  else if o = 0x810 then
    let b := s.boot
    pack64 [(9, b.seen.toNat), (7, 0), (4, b.last.toNat), (8, b.clkSrc.toNat), (4, 0), (32, b.starts.toNat)]
  else if o = 0x1000 then s.tb.tick
  else if o = 0x1008 then
    let t := s.tb
    pack64 [(2, t.state.code), (2, t.src.toNat), (4, t.hops.toNat), (9, t.upLane.toNat), (15, 0), (16, t.offset.toNat), (16, t.lossCnt.toNat)]
  else if 0x3000 ≤ o ∧ o < 0x3400 then
    let p := s.part ((o - 0x3000) / 16)
    if o % 16 = 0 then
      pack64 [(16, p.job.toNat), (16, p.gen.toNat), (16, p.prev.toNat),
        (10, match p.drainEnd with | some e => min 1023 (e - s.now) | none => 0), (1, b1 p.moveh), (1, b1 p.killed)]
    else pack64 [(16, p.tout.toNat), (8, p.rto.toNat), (10, p.drainw.toNat)]
  else if 0x4000 ≤ o ∧ o < 0x4800 then
    let i := (o - 0x4000) / 32
    let p := s.part i
    if o % 32 = 0 then pack64 [(24, p.ptpn.toNat), (12, p.ptdev.toNat), (1, b1 p.ptv)]
    else if o % 32 = 8 then pack64 [(16, p.agew.toNat), (16, p.promote.toNat), (4, p.migshare.toNat), (8, p.nresv.toNat), (8, p.bresv.toNat)]
    else if o % 32 = 16 then pack64 [(20, p.nearFree), (20, p.bulkFree), (20, s.trayFree i)]
    else pack64 [(16, p.migDone.toNat), (16, p.evictN.toNat), (16, p.noCap.toNat), (16, p.pubConf.toNat)]
  else if 0x5000 ≤ o ∧ o < 0x5400 then
    let p := s.part ((o - 0x5000) / 16)
    if o % 16 = 0 then
      pack64 [(3, p.state.code), (1, b1 (p.staged.isSome || p.resizing)), (4, p.area.toNat), (16, p.trays.toNat), (8, 0), (32, p.scrubLeft.toNat)]
    else p.blocks ||| listMask 64 ((maskList 64 p.leaving).filter (fun g => (s.blk g).state = .member))
  else if o = 0x5400 then pack64 ((List.range 32).map (fun i => (2, (s.blk i).state.code)))
  else if o = 0x5408 then pack64 ((List.range 32).map (fun i => (2, (s.blk (32 + i)).state.code)))
  else if o = 0x7000 then
    let x := s.sec
    pack64 [(3, lcCode x.lc), (2, dbgCode x.debug), (1, b1 x.caskV), (4, x.wipeCause.toNat), (6, 0), (16, x.wipes.toNat), (32, x.wipeTick.toNat)]
  else if o = 0x7100 then s.sec.jseq
  else if 0x7108 ≤ o ∧ o < 0x7138 then BitVec.ofNat 64 (natAt s.sec.jdig (o - 0x7108) 8)
  else if o = 0x8000 then
    pack64 [(1, b1 s.pw.xo), (1, b1 s.pw.sdsRef), (1, b1 s.pw.pciRef), (18, s.pw.run.toNat), (1, b1 (s.pw.ramps ≠ []))]
  else if o = 0x8008 then
    pack64 [(1, b1 s.pw.spi), (1, b1 s.pw.i3c), (1, b1 s.pw.tickOut), (1, b1 s.pw.trace), (12, 0), (16, s.pw.cxl.toNat)]
  else if o = 0x9000 then pack64 [(3, s.pw.state.toNat), (3, s.pw.lastReq.toNat), (4, s.pw.refuse.toNat), (22, 0), (32, s.pw.since.toNat)]
  else if o = 0x9008 then pack64 [(3, s.pw.req.toNat)]
  else if o = 0x9010 then pack64 [(16, s.pw.envelope.toNat), (16, s.pw.pavg.toNat), (4, s.pw.level.toNat), (28, s.pw.withheld.toNat)]
  else if o = 0xA000 then s.sec.eseq
  else if o = 0xA008 then pack64 [(32, s.sec.evtDrop.toNat)]
  else if o = 0xA010 then pack64 [(32, s.sec.fails.toNat), (4, s.sec.lastInv.toNat), (28, s.sec.lastTick.toNat)]
  else if o = 0xB000 then pack64 [(2, s.mod.locate.toNat)]
  else if o = 0xB008 then
    pack64 [(1, b1 s.mod.attn.isSome), (1, b1 s.mod.latch), (1, b1 s.mod.pwrGood), (1, 0),
      (16, (listMask 16 ((List.range 16).filter (fun t => (s.tray t).prsnt))).toNat), (12, 0), (16, s.mod.presses.toNat), (16, s.mod.longPr.toNat)]
  else if o = 0xB010 then s.cage
  else if 0xB100 ≤ o ∧ o < 0xB258 then
    let i := (o - 0xB100) / 8
    pack64 [(16, (tget s.mod.temp i 0).toNat), (16, (tget s.mod.tmax i 0).toNat), (1, b1 (s.mod.warn.getLsbD i))]
  else if 0xD000 ≤ o ∧ o < 0xD800 then s.trunkWord ((o - 0xD000) / 64) (o % 64 / 8)
  else if 0xE000 ≤ o ∧ o < 0xE200 then
    let w := (o - 0xE000) / 8
    listMask 64 ((s.mgrs.filter (fun e => e / 64 = w)).map (· % 64))
  else if 0x10000 ≤ o ∧ o < 0x11000 then
    let w := (o - 0x10000) / 8
    pack64 ((List.range 8).map (fun i => (8, if 8 * w + i = 0xFFF then 0 else (tget s.eidInc (8 * w + i) 0).toNat)))
  else if 0x100000 ≤ o ∧ o < 0x500000 then wordOf (tget s.sec.jrnl ((o - 0x100000) / 64) {}).pack (o % 64 / 8)
  else if 0x600000 ≤ o ∧ o < 0x640000 then wordOf (tget s.sec.evts ((o - 0x600000) / 64) {}).pack (o % 64 / 8)
  else 0

/-! ### Quarter space -/

/-- A lane's register block (R90); only a port's lowest lane shows it. -/
def State.readLane (s : State) (l o : Nat) : BitVec 64 :=
  let p := s.port l
  if p.off ≠ 0 then 0
  else if o = 0x00 then
    pack64 [(4, p.state.code), (2, p.width.toNat), (1, b1 p.rate), (1, b1 (s.cage.getLsbD (l / 8))), (1, b1 p.downsh), (7, 0),
      (12, p.peerEid.toNat), (8, p.peerInc.toNat), (2, p.role.toNat), (10, 0), (16, p.delay.toNat)]
  else if o = 0x08 then pack64 [(16, p.crcErr.toNat), (16, p.replayCnt.toNat), (16, p.retrainCnt.toNat), (16, p.fecCorr.toNat)]
  else if o = 0x10 then pack64 [(16, p.stale.toNat), (16, p.unbound.toNat), (16, p.rsvdEnc.toNat), (16, p.downDisc.toNat)]
  else if 0x20 ≤ o ∧ o < 0x60 then
    let k := (o - 0x20) / 8
    pack64 [(16, (tget p.adv k 0).toNat), (16, (tget p.peerCr k 0).toNat), (16, (tget p.heldCr k 0).toNat)]
  else if 0x60 ≤ o ∧ o < 0xA0 then
    let k := (o - 0x60) / 8
    let x := tget p.pol k {}
    if k = 0 ∨ k = 2 ∨ k = 5 ∨ k = 6 then pack64 [(16, x.prate.toNat), (16, x.pburst.toNat), (16, x.polcnt.toNat), (16, min x.bucket 0xFFFF)]
    else 0
  else if o = 0xA0 then p.health.reg
  else if o = 0xA8 then
    pack64 [(16, p.job.toNat), (1, b1 p.killed), (1, b1 p.dshen), (2, 0), (12, p.teid.toNat), (8, p.tinc.toNat), (20, p.egw.toNat)]
  else 0

/-- Whether queue index `n` of a Quarter is used (04, "Registers"). -/
def State.nUsed (s : State) (q n : Nat) : Bool :=
  if n < 1024 then n % 8 < 7 && (s.port (128 * q + n / 8)).off = 0
  else if n < nSquare then n % 8 = 2 || n % 8 = 3 || n % 8 = 4
  else n = nSquare

/-- Whether a queue index names a queue with a shaper (R124). Log 110. -/
def State.nShaped (s : State) (q n : Nat) : Bool :=
  n < 1024 && 1 ≤ n % 8 && n % 8 ≤ 6 && (s.port (128 * q + n / 8)).off = 0

/-- A Block's registers. -/
def State.readBk (s : State) (g o : Nat) : BitVec 64 :=
  let b := s.blk g
  if o = 0x400 then pack64 [(4, s.level g), (4, s.levelD g), (4, b.peak.toNat)]
  else if o = 0x500 then pack64 [(16, b.hit.toNat), (16, b.unknown.toNat), (16, b.full.toNat), (16, b.clash.toNat)]
  else if o = 0x508 then pack64 [(16, b.timeout.toNat), (16, b.lateRsp.toNat), (16, b.staleReq.toNat), (16, b.teardown.toNat)]
  else if o = 0x510 then b.hz
  else if o = 0x600 then
    let n := fun (f : DirEnt → Bool) => (b.dir.filter (fun e => f e.2)).length
    pack64 [(20, b.dir.length), (20, n (fun e => match e.mode with | .coarse _ => true | _ => false)),
      (5, n (fun e => e.hot.isSome)), (9, n (fun e => e.txn.isSome))]
  else if o = 0x608 then pack64 [(16, b.backInv.toNat), (16, b.staleWb.toNat), (16, b.hotPin.toNat), (16, b.hotFull.toNat)]
  else if o = 0x610 then pack64 [(13, b.lostLog.length), (3, 0), (16, b.lostOvf.toNat)]
  else if o = 0x700 then
    pack64 [(4, b.areaBanks.toNat), (4, 0),
      (9, b.areaBanks.toNat * 32 - (b.colls.map (fun e => match e.2 with | some c => c.units.length | none => 0)).sum),
      (7, 0), (6, b.colls.length)]
  else if o = 0x708 then pack64 [(16, b.stray.toNat), (16, b.countErr.toNat), (16, b.lostCnt.toNat), (16, b.overrun.toNat)]
  else if 0x800 ≤ o ∧ o < 0xA00 then
    match tget b.colls ((o - 0x800) / 16) none with
    | none => 0
    | some c =>
      if o % 16 = 0 then
        pack64 [(16, bits c.desc.toNat 0 16), (16, c.job.toNat), (1, 1), (1, b1 (bits c.desc.toNat 160 12 = 0xFFF)), (2, c.phase.toNat), (28, c.slice)]
      else BitVec.ofNat 64 c.dline
  else if o = 0xA00 then pack64 [(32, b.fetch.toNat), (32, b.fold.toNat)]
  else if o = 0xA08 then pack64 [(16, b.gFail.toNat), (16, b.gDeliv.toNat)]
  else if o = 0xA10 then pack64 [(32, min (b.scanRec / 1024) 0xFFFFFFFF), (16, b.poisRec.toNat), (16, b.fullStop.toNat)]
  else if o = 0xA18 then pack64 [(32, b.spill.toNat), (16, b.noPlace.toNat), (16, b.omitN.toNat)]
  else if o = 0xB00 then pack64 [(32, min (b.recs / 1024) 0xFFFFFFFF), (32, b.tiles.toNat)]
  else if o = 0xB08 then pack64 [(16, b.kBad.toNat), (16, b.nanOut.toNat), (16, b.sColl.toNat), (16, b.poisRow.toNat)]
  else if o = 0xC00 then b.bankOwn
  else if o = 0xC08 then pack64 [(16, b.bankArea.toNat)]
  else if o = 0xC10 then pack64 [(32, b.bankColl.toNat)]
  else if o = 0xC18 then pack64 [(16, b.parks.toNat), (16, b.bringIn.toNat), (16, b.hold.toNat), (16, b.abandon.toNat)]
  else if o = 0xC20 then pack64 [(16, b.fenceDrop.toNat)]
  else if o = 0xD00 then b.health.reg
  else if 0x1000 ≤ o ∧ o < 0x1400 then
    let c := s.ctx (16 * g + (o - 0x1000) / 64)
    let r := o % 64
    if r = 0 then
      pack64 [(3, c.state.code), (5, c.status.toNat), (8, if c.state = .empty then 0 else c.share.toNat), (16, c.index.toNat), (3, c.why.toNat), (1, 0), (28, c.since.toNat)]
    else if 8 ≤ r ∧ r < 40 then tget c.cyc (r / 8 - 1) 0
    else if r = 0x28 then pack64 ((List.range 4).map (fun e => (16, min (tget c.cycLast e 0) 0xFFFF)))
    else if r = 0x30 then
      pack64 ((List.range 4).map (fun e => (11, (c.reqs.filter (fun x => x.eng.toNat = e && x.remote)).length)) ++ [(13, c.mail.length)])
    else 0
  else if 0x10000 ≤ o ∧ o < 0x20000 then
    match b.lostLog[(o - 0x10000) / 16]? with
    | none => 0
    | some e =>
      if o % 16 = 0 then pack64 [(45, e.line), (12, e.eid.toNat)]
      else pack64 [(8, e.inc.toNat), (16, e.job.toNat), (40, e.tick)]
  else 0

/-- A Quarter's registers, its lane blocks and its Blocks' spaces. -/
def State.readQt (s : State) (q o : Nat) : BitVec 64 :=
  let x := s.qtr q
  if o = 0x2000 then pack64 [(18, (s.poolF q).toNat), (18, (s.poolP q).toNat), (18, x.mcUse)]
  else if o = 0x2008 then pack64 [(7, s.spray.toNat), (9, 0), (18, x.mcres.toNat), (8, s.rsto.toNat)]
  else if o = 0x2010 then pack64 [(16, x.unroute.toNat), (16, x.rsLate.toNat), (16, x.rsGap.toNat), (16, x.mcDrop.toNat)]
  else if o = 0x2018 then pack64 [(10, x.lstep.toNat), (6, 0), (16, x.dstep.toNat)]
  else if o = 0x2020 then pack64 [(18, x.hwmPool.toNat), (32, x.hwmPoolTick.toNat)]
  else if o = 0x2028 then pack64 [(20, x.hwmDelay.toNat), (12, x.hwmQueue.toNat), (32, x.hwmDelayTick.toNat)]
  else if o = 0x2030 then pack64 [(16, x.pktUe.toNat), (16, x.bufCe.toNat)]
  else if 0x6000 ≤ o ∧ o < 0x6100 then
    let t := s.tray (4 * q + (o - 0x6000) / 64)
    if o % 64 = 0 then
      pack64 [(4, t.state.code), (1, b1 t.rate), (1, b1 t.prsnt), (1, b1 t.sel), (1, 0), (6, t.part.toNat), (2, 0), (16, t.frames.toNat), (16, t.placed.toNat)]
    else if o % 64 = 8 then pack64 [(16, t.poisonRx.toNat), (16, t.retrain.toNat), (16, t.surprise.toNat)]
    else 0
  else if 0x20000 ≤ o ∧ o < 0x28000 then s.readLane (128 * q + (o - 0x20000) / 256) (o % 256)
  else if 0x30000 ≤ o ∧ o < 0x38000 then
    let n := (o - 0x30000) / 16
    if s.nUsed q n then
      let u := x.queue n
      if o % 16 = 0 then pack64 [(18, u.min.toNat), (2, 0), (3, u.alpha.toNat)]
      else pack64 [(18, u.used), (14, 0), (16, u.refused.toNat)]
    else 0
  else if 0x38000 ≤ o ∧ o < 0x40000 then
    let p := s.port (128 * q + (o - 0x38000) / 256)
    if p.off ≠ 0 then 0 else wordOf ((p.segs[o % 256 / 32]?).getD {}).pack (o % 32 / 8)
  else if 0x40000 ≤ o ∧ o < 0x48000 then
    let u := x.queue ((o - 0x40000) / 16)
    let ex := s.qExists q ((o - 0x40000) / 16)
    if o % 16 = 0 then
      pack64 [(18, u.depthMax.toNat), (18, u.depthEnd.toNat), (16, if ex then s.tb.obsTick.toNat else 0), (1, b1 (ex && s.tb.obsUnal))]
    else pack64 [(20, u.delayMax.toNat), (20, u.delayMean.toNat), (16, u.sent.toNat), (8, if ex then s.tb.obsTick.toNat else 0)]
  else if 0x50000 ≤ o ∧ o < 0x52000 then
    let n := (o - 0x50000) / 8
    if s.nShaped q n then
      let u := x.queue n
      let r := u.newShape.getD (u.rate, u.hicred)
      pack64 [(16, r.1.toNat), (16, r.2.toNat), (20, sfield 20 u.k)]
    else 0
  else if 0x60000 ≤ o ∧ o < 0x60A00 ∧ o % 16 = 0 then (tget x.mcHealth ((o - 0x60000) / 16) {}).reg
  else if 0x61000 ≤ o ∧ o < 0x61080 ∧ o % 16 = 0 then (tget x.stackHealth ((o - 0x61000) / 16) {}).reg
  else if 0x100000 ≤ o ∧ o < 0x300000 then s.readBk (16 * q + (o - 0x100000) / 0x20000) (o % 0x20000)
  else 0

/-- What the register at a BAR0 offset, a multiple of 8, holds (R494). -/
def State.readReg (s : State) (o : Nat) : BitVec 64 :=
  if o < 0x01000000 then s.readSq o
  else if o < 0x02000000 then s.readQt ((o - 0x01000000) / 0x400000) (o % 0x400000)
  else 0

/-! ### Offsets of registers -/

def offPart (p r : Nat) : Nat := r + 16 * p
def offPool (p r : Nat) : Nat := 0x4000 + 32 * p + r
def offQt (q r : Nat) : Nat := 0x01000000 + q * 0x400000 + r
def offLane (l r : Nat) : Nat := offQt (l / 128) (0x20000 + l % 128 * 256 + r)
def offBlk (g r : Nat) : Nat := offQt (g / 16) (0x100000 + g % 16 * 0x20000 + r)

end Sys2Proof.Machine
end

