-- ==== Sys2Proof/Machine/Sha.lean ====
section
/-! DEFINITION. SHA-384, the digest of the change journal and of the measurements (R424, R427). The spec names the function; its
arithmetic is FIPS 180-4's (PRESUMED, log 9). -/

namespace Sys2Proof.Machine

/-- The round constants, in two parts. -/
def shaK1 : List (BitVec 64) := [
  0x428A2F98D728AE22, 0x7137449123EF65CD, 0xB5C0FBCFEC4D3B2F, 0xE9B5DBA58189DBBC,
  0x3956C25BF348B538, 0x59F111F1B605D019, 0x923F82A4AF194F9B, 0xAB1C5ED5DA6D8118,
  0xD807AA98A3030242, 0x12835B0145706FBE, 0x243185BE4EE4B28C, 0x550C7DC3D5FFB4E2,
  0x72BE5D74F27B896F, 0x80DEB1FE3B1696B1, 0x9BDC06A725C71235, 0xC19BF174CF692694,
  0xE49B69C19EF14AD2, 0xEFBE4786384F25E3, 0x0FC19DC68B8CD5B5, 0x240CA1CC77AC9C65,
  0x2DE92C6F592B0275, 0x4A7484AA6EA6E483, 0x5CB0A9DCBD41FBD4, 0x76F988DA831153B5,
  0x983E5152EE66DFAB, 0xA831C66D2DB43210, 0xB00327C898FB213F, 0xBF597FC7BEEF0EE4,
  0xC6E00BF33DA88FC2, 0xD5A79147930AA725, 0x06CA6351E003826F, 0x142929670A0E6E70,
  0x27B70A8546D22FFC, 0x2E1B21385C26C926, 0x4D2C6DFC5AC42AED, 0x53380D139D95B3DF,
  0x650A73548BAF63DE, 0x766A0ABB3C77B2A8, 0x81C2C92E47EDAEE6, 0x92722C851482353B]
def shaK2 : List (BitVec 64) := [
  0xA2BFE8A14CF10364, 0xA81A664BBC423001, 0xC24B8B70D0F89791, 0xC76C51A30654BE30,
  0xD192E819D6EF5218, 0xD69906245565A910, 0xF40E35855771202A, 0x106AA07032BBD1B8,
  0x19A4C116B8D2D0C8, 0x1E376C085141AB53, 0x2748774CDF8EEB99, 0x34B0BCB5E19B48A8,
  0x391C0CB3C5C95A63, 0x4ED8AA4AE3418ACB, 0x5B9CCA4F7763E373, 0x682E6FF3D6B2B8A3,
  0x748F82EE5DEFB2FC, 0x78A5636F43172F60, 0x84C87814A1F0AB72, 0x8CC702081A6439EC,
  0x90BEFFFA23631E28, 0xA4506CEBDE82BDE9, 0xBEF9A3F7B2C67915, 0xC67178F2E372532B,
  0xCA273ECEEA26619C, 0xD186B8C721C0C207, 0xEADA7DD6CDE0EB1E, 0xF57D4F7FEE6ED178,
  0x06F067AA72176FBA, 0x0A637DC5A2C898A6, 0x113F9804BEF90DAE, 0x1B710B35131C471B,
  0x28DB77F523047D84, 0x32CAAB7B40C72493, 0x3C9EBE0A15C9BEBC, 0x431D67C49C100D4C,
  0x4CC5D4BECB3E42B6, 0x597F299CFC657E2A, 0x5FCB6FAB3AD6FAEC, 0x6C44198C4A475817]
/-- The initial hash value of SHA-384. -/
def shaH : List (BitVec 64) := [
  0xCBBB9D5DC1059ED8, 0x629A292A367CD507, 0x9159015A3070DD17, 0x152FECD8F70E5939,
  0x67332667FFC00B31, 0x8EB44A8768581511, 0xDB0C2E0D64F98FA7, 0x47B5481DBEFA4FA4]

/-- The eight working variables of a block. -/
structure ShaV where
  a : BitVec 64
  b : BitVec 64
  c : BitVec 64
  d : BitVec 64
  e : BitVec 64
  f : BitVec 64
  g : BitVec 64
  h : BitVec 64

/-- One round with constant `k` and schedule word `w`. -/
def ShaV.round (v : ShaV) (k w : BitVec 64) : ShaV :=
  let s1 := (v.e.rotateRight 14) ^^^ (v.e.rotateRight 18) ^^^ (v.e.rotateRight 41)
  let ch := (v.e &&& v.f) ^^^ (~~~v.e &&& v.g)
  let t1 := v.h + s1 + ch + k + w
  let s0 := (v.a.rotateRight 28) ^^^ (v.a.rotateRight 34) ^^^ (v.a.rotateRight 39)
  let mj := (v.a &&& v.b) ^^^ (v.a &&& v.c) ^^^ (v.b &&& v.c)
  { a := t1 + (s0 + mj), b := v.a, c := v.b, d := v.c, e := v.d + t1, f := v.e, g := v.f, h := v.g }

/-- The rounds of a block: the window holds the last 16 schedule words, oldest first. -/
def shaRounds : List (BitVec 64) → List (BitVec 64) → ShaV → ShaV
  | [], _, v => v
  | k :: ks, win, v =>
    let at' : Nat → BitVec 64 := fun i => (win[i]?).getD 0
    let s0 := ((at' 1).rotateRight 1) ^^^ ((at' 1).rotateRight 8) ^^^ (at' 1 >>> 7)
    let s1 := ((at' 14).rotateRight 19) ^^^ ((at' 14).rotateRight 61) ^^^ (at' 14 >>> 6)
    shaRounds ks (win.drop 1 ++ [at' 0 + s0 + at' 9 + s1]) (v.round k (at' 0))

/-- A 64-bit word of big-endian bytes. -/
def beWord (l : List Byte) : BitVec 64 := BitVec.ofNat 64 (l.foldl (fun a b => 256 * a + b.toNat) 0)

/-- The words of a block of 128 bytes. -/
def shaWords : Nat → List Byte → List (BitVec 64)
  | 0, _ => []
  | n + 1, l => beWord (l.take 8) :: shaWords n (l.drop 8)

/-- The hash value after a block. -/
def shaBlock (h : List (BitVec 64)) (blk : List Byte) : List (BitVec 64) :=
  let g := fun i => (h[i]?).getD 0
  let v := shaRounds (shaK1 ++ shaK2) (shaWords 16 blk)
    { a := g 0, b := g 1, c := g 2, d := g 3, e := g 4, f := g 5, g := g 6, h := g 7 }
  [g 0 + v.a, g 1 + v.b, g 2 + v.c, g 3 + v.d, g 4 + v.e, g 5 + v.f, g 6 + v.g, g 7 + v.h]

/-- The hash value after `n` blocks. -/
def shaBlocks : Nat → List (BitVec 64) → List Byte → List (BitVec 64)
  | 0, h, _ => h
  | n + 1, h, l => shaBlocks n (shaBlock h (l.take 128)) (l.drop 128)

/-- A message padded to whole blocks. -/
def shaPad (m : List Byte) : List Byte :=
  let n := m.length
  let z := (128 - (n + 17) % 128) % 128
  let len := (List.range 16).map (fun i => BitVec.ofNat 8 (8 * n / 256 ^ (15 - i)))
  m ++ 0x80 :: (List.replicate z 0 ++ len)

/-- The SHA-384 digest of a message, 48 bytes. Log 9. -/
def sha384 (m : List Byte) : List Byte :=
  let p := shaPad m
  let h := shaBlocks (p.length / 128) shaH p
  (h.take 6).flatMap (fun w => (List.range 8).map (fun i => BitVec.ofNat 8 (w.toNat / 256 ^ (7 - i))))

end Sys2Proof.Machine
end

