-- ==== Sys2Proof/Machine/Event.lean ====
section
/-! DEFINITION. Event records (16 R466 to R469) and the change journal (14 R425 to R427). -/

namespace Sys2Proof.Machine

/-! ### Ports by EID -/

/-- The enabled port admitted to an EID as an endpoint. Log 10. -/
def State.eidPort (s : State) (e : Eid) : Option Nat :=
  (s.ports.find? (fun x => x.2.enabled && x.2.role = 1 && x.2.peerEid = e)).map (·.1)

/-- The trunk whose peer is an EID. Log 10. -/
def State.eidTrunk (s : State) (e : Eid) : Option Nat :=
  (s.trunks.find? (fun x => x.2.members ≠ [] && x.2.peer = e)).map (·.1)

/-- The first ACTIVE member from position `i` on, round the list; the member at `i` when none is ACTIVE, which the
spec leaves open (R110; DESIGN CHOICE, log 134). -/
def State.memberAt (s : State) (ms : List Nat) (i : Nat) : Option Nat :=
  let rot := ms.drop i ++ ms.take i
  match rot.find? (fun l => (s.port l).state = .active) with
  | some l => some l
  | none => rot.head?

/-- The member of a trunk for a strict packet (R110). -/
def State.memberStrict (s : State) (t : Nat) (seid deid : Eid) : Option Nat :=
  let ms := (s.trunk t).members
  s.memberAt ms ((seid ^^^ deid).toNat % ms.length)

/-- Where a packet to an EID outside every map leaves: its own port, a port of a switch with that EID, or a trunk (log 10). -/
def State.eidLane (s : State) (seid deid : Eid) : Option Nat :=
  match s.eidPort deid with
  | some l => some l
  | none =>
    match s.eidTrunk deid with
    | some t => s.memberStrict t seid deid
    | none => (s.ports.find? (fun x => x.2.enabled && x.2.role = 2 && x.2.peerEid = deid)).map (·.1)

/-! ### Events -/

/-- UNIT of an event record (R466). -/
def unitOf (kind idx : Nat) : BitVec 16 := BitVec.ofNat 16 (kind * 4096 + idx)
abbrev uPort (l : Nat) : BitVec 16 := unitOf 1 l
abbrev uTray (t : Nat) : BitVec 16 := unitOf 2 t
abbrev uBlk (g : Nat) : BitVec 16 := unitOf 6 g
abbrev uQtr (q : Nat) : BitVec 16 := unitOf 7 q
abbrev uSquare : BitVec 16 := unitOf 8 0
abbrev uCage (k : Nat) : BitVec 16 := unitOf 9 k
abbrev uTrunk (t : Nat) : BitVec 16 := unitOf 10 t

/-- Names a partition, its job, and a context in a record. -/
def Event.inPart (e : Event) (p : Nat) (x : Part) : Event :=
  { e with part := BitVec.ofNat 6 p, job := x.job, flags := e.flags ||| 1 }
def Event.inCtx (e : Event) (c : Nat) : Event := { e with ctx := BitVec.ofNat 10 c, flags := e.flags ||| 2 }

/-- Offers an EVENT packet to one manager: not admitted at once, it is not sent and counted (R469, log 11). -/
def State.sendEvent (s : State) (e : Event) (mgr : Nat) : State :=
  let pkt : Pkt := { tc := 0, mtype := 4, deid := BitVec.ofNat 12 mgr, seid := s.selfEid, sinc := s.selfInc, len := 4,
                     data := (List.range 4).map (fun i => BitVec.ofNat 128 (bits e.pack (128 * i) 128)) }
  let lost := { s with sec := { s.sec with evtDrop := satAdd s.sec.evtDrop 1 } }
  match s.eidLane s.selfEid pkt.deid with
  | none => lost
  | some l =>
    match s.admitUni (qOfLane l) (nPort l 0) { pkt := pkt } with
    | some s => s
    | none => lost

/-- Raises an event: the ring, the interrupts of both interfaces, and a packet to every manager (R466, R469, R485). Logs 11, 36. -/
def State.raise (s : State) (e : Event) : State :=
  let (ns, s) := s.nsFree
  let e := { e with seq := s.sec.eseq, tick := s.tb.tick, ns := BitVec.ofNat 10 ns,
                    flags := if s.tb.state = TbState.unaligned then e.flags ||| 4 else e.flags }
  let s := { s with sec := { s.sec with evts := tset s.sec.evts (e.seq.toNat % 4096) e {}, eseq := e.seq + 1 } }
  let s := s.emit (.msix 0)
  let s := if s.pw.i3c then s.emit .i3cIbi else s
  s.mgrs.foldl (fun s m => s.sendEvent e m) s

/-! ### The journal -/

/-- TARGET of a change without a register (R425). -/
def noTarget : BitVec 32 := BitVec.allOnes 32

/-- The 64 bytes of a journal entry. -/
def JEntry.bytes (e : JEntry) : List Byte := leBytes 64 e.pack

/-- Writes one entry: ring slot, next SEQ, and the running digest (R427). Before entry 0 is written the digest waits (log 12). -/
def State.journal (s : State) (e : JEntry) : State :=
  let e := { e with seq := s.sec.jseq, tick := s.tb.tick }
  let d := if s.sec.jopen then sha384 (bytesAt s.sec.jdig 0 48 ++ e.bytes) else s.sec.jdig
  { s with sec := { s.sec with jrnl := tset s.sec.jrnl (e.seq.toNat % 65536) e {}, jseq := e.seq + 1, jdig := d } }

/-- The running digest over entries `i`, `i + 1`, … of the ring. Log 12. -/
def jrnlDigest (ring : Tbl JEntry) (d : List Byte) (i : Nat) : Nat → List Byte
  | 0 => d
  | n + 1 => jrnlDigest ring (sha384 (d ++ (tget ring i {}).bytes)) (i + 1) n

/-- Writes entry 0 at the end of start-up (R439) and starts the digest. Log 12. -/
def State.journalZero (s : State) : State :=
  let e : JEntry := { seq := 0, tick := s.tb.tick, src := 4, flags := 3, target := 0x810, old := 0, new := s.readSq 0x810 }
  let ring := tset s.sec.jrnl 0 e {}
  { s with sec := { s.sec with jrnl := ring, jopen := true, jdig := jrnlDigest ring (List.replicate 48 0) 0 s.sec.jseq.toNat } }

/-- Writes one entry of a change of one register or of none. Log 12. -/
def State.journalOne (s : State) (src : BitVec 8) (target : BitVec 32) (old new : BitVec 64) : State :=
  s.journal { src := src, flags := 3, target := target, old := old, new := new }

/-! ### Registers that a change touched (R426) -/

/-- The keys whose entries differ, ascending. -/
def diffKeys [DecidableEq α] (t u : Tbl α) : List Nat :=
  let look := fun (x : Tbl α) k => (x.find? (fun e => e.1 = k)).map (·.2)
  ((t ++ u).map (·.1)).foldl (fun l k => if look t k = look u k then l else setIns l k) []

/-- Offsets of Square registers that may differ between two states, ascending. Event and journal registers, and control
windows, are not among them (log 13). -/
def touchedSq (s u : State) : List Nat :=
  let ps := (s.parts ++ u.parts).foldl (fun l e => setIns l e.1) []
  [0x10, 0x1000, 0x1008] ++ ps.flatMap (fun p => [offPart p 0x3000, offPart p 0x3008])
    ++ ps.flatMap (fun p => [offPool p 0, offPool p 8, offPool p 16, offPool p 24])
    ++ ps.flatMap (fun p => [offPart p 0x5000, offPart p 0x5008])
    ++ [0x5400, 0x5408, 0x7000, 0x8000, 0x8008, 0x9000, 0x9008, 0x9010, 0xB000, 0xB008, 0xB010]
    ++ (diffKeys s.trunks u.trunks).flatMap (fun t => (List.range 5).map (fun w => 0xD000 + 64 * t + 8 * w))
    ++ (if s.mgrs = u.mgrs then [] else (List.range 64).map (fun w => 0xE000 + 8 * w))
    ++ ((diffKeys s.eidInc u.eidInc).foldl (fun l e => setIns l (e / 8)) []).map (fun w => 0x10000 + 8 * w)

/-- Offsets of a Quarter's registers that may differ, ascending. -/
def touchedQt (s u : State) (q : Nat) : List Nat :=
  let ls := (diffKeys s.ports u.ports).filter (fun l => l / 128 = q)
  let ns := diffKeys (s.qtr q).queues (u.qtr q).queues
  let bs := (diffKeys s.blks u.blks).filter (fun g => g / 16 = q)
  let cs := (diffKeys s.ctxs u.ctxs).filter (fun c => c / 256 = q)
  let bs := (cs.map (· / 16)).foldl (fun l g => setIns l g) bs
  let lns := (List.range 8).flatMap (fun k => ls.map (fun l => nPort l k))
  let ns := lns.foldl (fun l n => setIns l n) ns
  [0x2000, 0x2008, 0x2010, 0x2018].map (offQt q)
    ++ ((List.range 4).flatMap (fun k => [0x6000 + 64 * k, 0x6008 + 64 * k])).map (offQt q)
    ++ ls.flatMap (fun l => ([0, 8, 16] ++ (List.range 16).map (fun k => 0x20 + 8 * k) ++ [0xA0, 0xA8]).map (offLane l))
    ++ ns.flatMap (fun n => [offQt q (0x30000 + 16 * n), offQt q (0x30008 + 16 * n)])
    ++ ls.flatMap (fun l => (List.range 32).map (fun k => offQt q (0x38000 + l % 128 * 256 + 8 * k)))
    ++ ns.map (fun n => offQt q (0x50000 + 8 * n))
    ++ bs.flatMap (fun g => [0x400, 0x500, 0x508, 0x510, 0x600, 0x608, 0x610, 0x700, 0x708].map (offBlk g)
      ++ (List.range 64).map (fun i => offBlk g (0x800 + 8 * i))
      ++ [0xA00, 0xA08, 0xA10, 0xA18, 0xB00, 0xB08, 0xC00, 0xC08, 0xC10, 0xC18, 0xC20].map (offBlk g)
      ++ (cs.filter (fun c => c / 16 = g)).flatMap (fun c => (List.range 7).map (fun i => offBlk g (0x1000 + c % 16 * 64 + 8 * i))))

/-- The registers that differ between two states, ascending by offset, with their values before and after. Logs 13, 34. -/
def changedRegs (s u : State) : List (Nat × BitVec 64 × BitVec 64) :=
  (touchedSq s u ++ (List.range 4).flatMap (fun q => touchedQt s u q)).filterMap (fun o =>
    let a := s.readReg o
    let b := u.readReg o
    if a = b then none else some (o, a, b))

/-- Journals a change from `s` to `u`: an entry for each register changed, or one with TARGET all ones and NEW `imm` (R425, R426). Log 34. -/
def journalChange (s u : State) (e : JEntry) (imm : BitVec 64) : State :=
  match changedRegs s u with
  | [] => u.journal { e with flags := 3, target := noTarget, old := 0, new := imm }
  | l =>
    let n := l.length
    ((List.range n).zip l).foldl (fun u x =>
      u.journal { e with flags := BitVec.ofNat 8 (b1 (x.1 = 0) + 2 * b1 (x.1 + 1 = n)), target := BitVec.ofNat 32 x.2.1,
                         old := x.2.2.1, new := x.2.2.2 }) u

end Sys2Proof.Machine
end

