-- ==== Sys2Proof/Machine/Route.lean ====
section
/-! DEFINITION. Forwarding: routing maps, tags, output choice, crossing between Quarters (04 R93, R98, R102, R105 to R112; 06 R163,
R165, R169, R175; 12 R376). -/

namespace Sys2Proof.Machine

/-! ### Tags (R163 to R165) -/

/-- Key of a tag in its Quarter's table: the DEID it is used towards, and bits [9:0]. -/
def tagKey (deid : Eid) (tag : Nat) : Nat := deid.toNat * 1024 + tag % 1024

/-- The lowest free tag of a Quarter towards a DEID (R165); for an atomic, one that no atomic took in this tick, so that no key is
used twice (R174). -/
def State.tagFree (s : State) (q : Nat) (deid : Eid) (atom : Bool) : Option Nat :=
  let x := s.qtr q
  (List.range 1024).find? (fun i => (tfind x.tags (tagKey deid i)).isNone &&
    !(atom && tget x.atTick (tagKey deid i) 0 = s.now + 1))

/-- Takes a tag for Block `g`; the TAG carries the Quarter in bits [11:10]. -/
def State.tagTake (s : State) (g : Nat) (deid : Eid) (h : Holder) (atom : Bool := false) : Option (Tag × State) :=
  let q := qOfBlk g
  match s.tagFree q deid atom with
  | none => none
  | some i => some (BitVec.ofNat 12 (1024 * q + i),
      s.updQtr q (fun x => { x with tags := tins (tdel x.tags (tagKey deid i)) (tagKey deid i) h,
                                    lastHolder := tins (tdel x.lastHolder i) i g,
                                    atTick := if atom then tset x.atTick (tagKey deid i) (s.now + 1) 0 else x.atTick }))

/-- Contexts of a Quarter that lack a tag towards a DEID may go on (R381). Log 65. -/
def State.tagFreed (s : State) (q : Nat) (deid : Eid) : State :=
  { s with ctxs := s.ctxs.map (fun e =>
      if e.1 / 256 = q then (e.1, { e.2 with causes := e.2.causes.filter (fun k => k.eid ≠ some deid.toNat) }) else e) }

/-- Frees a tag. -/
def State.tagDrop (s : State) (tag : Tag) (deid : Eid) : State :=
  (s.updQtr (tag.toNat / 1024) (fun x => { x with tags := tdel x.tags (tagKey deid tag.toNat) })).tagFreed (tag.toNat / 1024) deid

/-- Changes what holds a tag. -/
def State.tagSet (s : State) (tag : Tag) (deid : Eid) (h : Holder) : State :=
  s.updQtr (tag.toNat / 1024) (fun x => { x with tags := tins (tdel x.tags (tagKey deid tag.toNat)) (tagKey deid tag.toNat) h })

/-- What holds the tag of a message from `eid`. -/
def State.tagHolder (s : State) (tag : Tag) (eid : Eid) : Option Holder :=
  tfind (s.qtr (tag.toNat / 1024)).tags (tagKey eid tag.toNat)

/-- The Block whose engine last held a tag; Block 0 of its Quarter where none has (R163). -/
def State.tagLast (s : State) (tag : Tag) : Nat :=
  (tfind (s.qtr (tag.toNat / 1024)).lastHolder (tag.toNat % 1024)).getD (16 * (tag.toNat / 1024))

/-- The lowest Block of a partition. -/
def State.lowBlk (s : State) (p : Nat) : Nat := nth (s.part p).blist 0

/-- JOB and GEN of the request that a holder of a tag last sent. Log 140. -/
def State.sentFor (s : State) : Holder → Option (JobId × Gen)
  | .req c id => ((s.ctx c).reqs.find? (fun r => r.id = id)).map (fun r => (r.msg.pkt.job, r.msg.pkt.gen))
  | .coll g n id => match tget (s.blk g).colls n none with
    | some x => (x.stores.find? (fun r => r.id = id)).map (fun r => (r.msg.pkt.job, r.msg.pkt.gen))
    | none => none
  | .pte p _ => some ((s.part p).job, (s.part p).gen)
  | .join j => (tget s.joins j none).map (fun x => (x.msg.pkt.job, x.msg.pkt.gen))
  | _ => none

/-- The holder of a TC3 message's tag, and the DEID the tag was allocated towards (R165). A NAK of a Brynast that the request only passed carries
that one's EID (R155, R175, R179): it goes to the first holder of the tag whose request has its JOB and GEN (log 140). -/
def State.answerTo (s : State) (k : Pkt) : Option (Eid × Holder) :=
  match s.tagHolder k.tag k.seid with
  | some h => some (k.seid, h)
  | none =>
    if k.mtype ≠ 0 then none
    else ((s.qtr (k.tag.toNat / 1024)).tags.find? (fun e => e.1 % 1024 = k.tag.toNat % 1024 && decide (s.sentFor e.2 = some (k.job, k.gen)))).map
      (fun e => (BitVec.ofNat 12 (e.1 / 1024), e.2))

/-- The Block that a TC3 message is for (R163, R165). -/
def State.tagBlk (s : State) (k : Pkt) : Nat :=
  match s.answerTo k with
  | some (_, .req c _) => c / 16
  | some (_, .snoop g _) => g
  | some (_, .coll g _ _) => g
  | some (_, .pte p _) => s.lowBlk p
  | _ => s.tagLast k.tag

/-! ### Where a packet goes -/

/-- The generation's map for a job's packet (R175). -/
inductive GenRes where
  | cur | prev | bad (st : Status)
deriving DecidableEq, Repr

/-- R175. -/
def State.genOf (s : State) (p : Nat) (gen : Gen) : GenRes :=
  let x := s.part p
  let open' := match x.drainEnd with | some e => s.now < e | none => false
  if gen = x.gen then .cur
  else if open' && gen = x.prev then .prev
  else if (gen - x.gen).toNat ≤ 32767 then .bad stRetry else .bad stMapStale

/-- A forwarding decision: output queues, the trunk they belong to, and whether they are the targets of a group (R102). -/
structure Route where
  outs  : List (Nat × Nat) := []
  trunk : Option Nat := none
  mc    : Bool := false
deriving DecidableEq, Repr

/-- The queue of class `k` of the port at lane `l`. -/
def qPort (l k : Nat) : Nat × Nat := (qOfLane l, nPort l k)
/-- The queue of class `k` of Block `g`. -/
def qBlk (g k : Nat) : Nat × Nat := (qOfBlk g, nBlk g k)

/-- The member of a trunk that a packet of class `k` leaves on: by hash, or with the most free credit (R110, R112). -/
def State.member (s : State) (t k : Nat) (seid deid : Eid) : Option Nat :=
  if s.spray.getLsbD k then
    let ls := (s.trunk t).members.filter (fun l => (s.port l).state = .active)
    let cr := fun l => (tget (s.port l).heldCr k 0).toNat
    match ls with
    | [] => s.memberStrict t seid deid
    | a :: r => some (r.foldl (fun b l => if cr b < cr l ∨ (cr b = cr l ∧ l < b) then l else b) a)
  else s.memberStrict t seid deid

/-- The route to a target of a map entry (R376). -/
def State.routeTo (s : State) (t : Target) (k : Nat) (seid deid : Eid) : Route :=
  match t with
  | .port l => { outs := [qPort l k] }
  | .trunk t => match s.member t k seid deid with
    | some l => { outs := [qPort l k], trunk := some t }
    | none => {}
  | _ => {}

/-- The route of a packet without a map entry: the port or trunk admitted to its DEID (log 10). -/
def State.routeEid (s : State) (k : Nat) (seid deid : Eid) : Route :=
  match s.eidPort deid with
  | some l => { outs := [qPort l k] }
  | none => match s.eidTrunk deid with
    | some t => s.routeTo (.trunk t) k seid deid
    | none => match s.eidLane seid deid with
      | some l => { outs := [qPort l k] }
      | none => {}

/-- The Block that holds the root of a collective of a job. -/
def State.rootBlk (s : State) (job : JobId) (cid : Nat) : Option Nat :=
  (s.blks.find? (fun e => e.2.colls.any (fun c => match c.2 with
    | some c => c.job = job && bits c.desc.toNat 0 16 = cid
    | none => false))).map (·.1)

/-- The route of a packet that is not a TC2 request to this device (R106, R116, R165, R274, R287, R376). `q` is the Quarter it is in. A
packet of a job that is bound here takes its decision from the job's map alone; TC0 and packets of other jobs have no map to take it from
where no entry names their DEID (log 10). -/
def State.route (s : State) (q : Nat) (p : Pkt) : Route :=
  let k := p.tc.toNat
  let part := s.partOfJob p.job
  let map := match part with
    | some i => if k < 4 && (s.genOf i p.gen = GenRes.prev) then (s.part i).pmap else (s.part i).map
    | none => {}
  match tfind map.groups p.deid.toNat with
  | some (blks, lanes) => { outs := (maskList 64 blks).map (fun g => qBlk g k) ++ lanes.map (fun l => qPort l k), mc := true }
  | none =>
    if p.deid = s.selfEid ∨ tfind map.ents p.deid.toNat = some .here then
      if k = 0 then { outs := [(q, nSquare)] }
      else if k = 3 then { outs := [qBlk (s.tagBlk p) 3] }
      else if k = 4 then
        match s.rootBlk p.job (sbits ((p.x[0]?).getD 0) 0 16) with
        | some g => { outs := [qBlk g 4] }
        | none => match part with
          | some i => { outs := [qBlk (s.lowBlk i) 4] }
          | none => {}
      else {}
    else match tfind map.ents p.deid.toNat with
      | some t => s.routeTo t k p.seid p.deid
      | none => if part.isSome ∧ k ≠ 0 then {} else s.routeEid k p.seid p.deid

/-! ### Offering a packet to its outputs (R97 to R103, R106 to R108) -/

/-- Returns the credits that a landed packet holds (R65, R66). -/
def State.creditBack (s : State) (m : Msg) : State :=
  if m.slots = 0 then s
  else s.updPort m.lane (fun p => { p with owed := tset p.owed m.tcIn (tget p.owed m.tcIn 0 + m.slots) 0 })

/-- The Block whose queue an output is. -/
def outBlk (o : Nat × Nat) : Option Nat := if 1024 ≤ o.2 ∧ o.2 < nSquare then some (16 * o.1 + (o.2 - 1024) / 8) else none

/-- Whether an output exists: an enabled port, the Square, or a MEMBER Block in its classes, which takes only responses while its
partition is FENCED (R93, R416, R417). -/
def State.outOk (s : State) (o : Nat × Nat) : Bool :=
  s.qExists o.1 o.2 && (match outBlk o with
    | some g => (s.blk g).state = .member && (match s.partOfBlk g with
      | some p => (s.part p).state ≠ .fenced || o.2 % 8 = 3
      | none => false)
    | none => true)

/-- Whether the ring stop of an output's Block discards a message of this job (R414). -/
def State.fenced (s : State) (job : JobId) (o : Nat × Nat) : Bool :=
  match outBlk o with
  | some g => match s.partOfBlk g with
    | some p => (s.blk g).state = .member && (s.part p).job ≠ job
    | none => false
  | none => false

/-- A message discarded by a Block's ring stop: FENCEDROP, and an event at most once per tick (R414). -/
def State.fenceDrop (s : State) (g : Nat) : State :=
  let s := s.updBlk g (fun b => { b with fenceDrop := satAdd b.fenceDrop 1, fenceSince := b.fenceSince + 1 })
  let b := s.blk g
  if b.fenceEvt = some s.now then s
  else
    let s := s.updBlk g (fun b => { b with fenceEvt := some s.now, fenceSince := 0 })
    s.raise { code := 0x43, unit := uBlk g, d0 := BitVec.ofNat 64 b.fenceSince }

/-- The slots waiting in a DIRECT channel, and its key (R107). -/
def directKey (upper : Bool) (k : Nat) : Nat := (if upper then 8 else 0) + k
def chanSlots (l : List Msg) : Nat := (l.map (fun m => m.pkt.slots)).sum

/-- On which neighbour link a packet from Quarter `q` reaches Quarter `r`: true from `r + 1` (R108). -/
def viaUpper (q r : Nat) (even : Bool) : Bool :=
  if (q + 1) % 4 = r then false else if (r + 1) % 4 = q then true else !even

/-- What a packet carries as it is admitted to an output queue: its sprayed order on a trunk, which any other output clears (R110, R112),
and in a response of Blocks the largest of their LEVELs (R144, R185). -/
def State.stamp (s : State) (r : Route) (m : Msg) : Msg × State :=
  let p := if m.src = [] then m.pkt else { m.pkt with load := BitVec.ofNat 4 (m.src.foldl (fun n g => max n (s.level g)) 0) }
  let k := p.tc.toNat
  match r.trunk with
  | some t =>
    if s.spray.getLsbD k then
      let n := tget (s.trunk t).pseq k 0
      ({ m with pkt := { p with spray := true, pseq := n } }, s.updTrunk t (fun x => { x with pseq := tset x.pseq k (n + 1) 0 }))
    else ({ m with pkt := { p with spray := false, pseq := 0 } }, s)
  | none => ({ m with pkt := { p with spray := false, pseq := 0 } }, s)

/-- Whether a class is lossless (R98). -/
def lossless (k : Nat) : Bool := k ≤ 4

/-- Admits a packet to the outputs of one Quarter, or refuses it. A dropped TC5 or TC6 packet counts as gone (R97, R98, R103). A copy of
a group's packet is stored as one, be it for one target (R102). -/
def State.admitAt (s : State) (q : Nat) (r : Route) (ns : List Nat) (m : Msg) : Option State :=
  let (w, t) := s.stamp r m
  match ns with
  | [] => some s
  | [n] =>
    if r.mc then t.admitMc q [(n, w)] w.pkt.cells (lossless w.pkt.tc.toNat)
    else match t.admitUni q n w with
      | some t => some t
      | none => if lossless m.pkt.tc.toNat then none else some (s.countRefused q n)
  | _ => t.admitMc q (ns.map (fun n => (n, w))) w.pkt.cells (lossless w.pkt.tc.toNat)

/-- The neighbour of Quarter `x` on its upper or lower link (R107). -/
def neighbour (x : Nat) (upper : Bool) : Nat := if upper then (x + 1) % 4 else (x + 3) % 4

/-- The outputs of a route that a message still goes to: those that exist and whose Block takes it. -/
def State.outsOf (s : State) (m : Msg) (r : Route) : List (Nat × Nat) :=
  r.outs.filter (fun o => s.outOk o && !s.fenced m.pkt.job o && !m.gone.contains o.1)

/-- Whether a message is a response to this device that matches no outstanding request (R163, R164). -/
def State.isLate (s : State) (m : Msg) : Bool :=
  m.pkt.tc = 3 && m.asker = .wire && m.pkt.deid = s.selfEid && (match s.answerTo m.pkt with
    | none => true
    | some (_, .held _) => true
    | _ => false)

/-- What a route loses: a late response that cannot reach the Block that last held its tag (R163), messages that a ring stop discards (R414), and one count for targets that are no queue (R93). -/
def State.lose (s : State) (q : Nat) (m : Msg) (r : Route) : State :=
  let drops := (r.outs.filter (fun o => s.fenced m.pkt.job o && !m.gone.contains o.1)).filterMap outBlk
  let none' := r.outs.any (fun o => !s.outOk o && !s.fenced m.pkt.job o && !m.gone.contains o.1)
  let s1 := drops.foldl (fun s g => s.fenceDrop g) s
  let lost : Bool := none' || (decide (s.outsOf m r = []) && decide (drops = []) && decide (m.gone = []))
  if s.isLate m then
    if lost ∨ drops ≠ [] then s1.updBlk (s.tagLast m.pkt.tag) (fun b => { b with lateRsp := satAdd b.lateRsp 1 }) else s1
  else if lost then s1.updQtr q (fun x => { x with unroute := satAdd x.unroute 1 })
  else s1

/-- Takes a copy for another Quarter across (R107): admitted there; in the DIRECT channel of the link into it; or, from the opposite
Quarter, in the TRANSIT channel of the link before. It passes no packet that waits ahead of it in a channel. `none`: no room. Log 96. -/
def State.cross (s : State) (q x : Nat) (even : Bool) (r : Route) (ns : List Nat) (m w : Msg) : Option State :=
  let up := viaUpper q x even
  let key := directKey up m.pkt.tc.toNat
  let direct := tget (s.qtr x).direct key []
  let far := (q + 2) % 4 = x
  let y := neighbour x up
  let transit := if far then tget (s.qtr y).transit key [] else []
  let size := m.pkt.slots
  let here := if direct = [] ∧ transit = [] then s.admitAt x r ns m else none
  match here with
  | some t => some (if m.slots = w.slots then t.creditBack m else t)
  | none =>
    if transit = [] ∧ chanSlots direct + size ≤ 1024 then
      some (s.updQtr x (fun z => { z with direct := tset z.direct key (direct ++ [w]) [] }))
    else if far ∧ chanSlots transit + size ≤ 1024 then
      some (s.updQtr y (fun z => { z with transit := tset z.transit key (transit ++ [w]) [] }))
    else none

/-- Offers a packet in Quarter `q` to its outputs. Copies for other Quarters are admitted there or wait in the channels between.
`none`: it stays where it is (R98). Log 96. -/
def State.offer (s : State) (q : Nat) (even : Bool) (m : Msg) (r : Route) : Option State :=
  let outs := s.outsOf m r
  let s := s.lose q m r
  if outs = [] then some (s.creditBack m)
  else
    let at' := fun x => (outs.filter (fun o => o.1 = x)).map (·.2)
    let others := [0, 1, 2, 3].filter (fun x => x ≠ q && at' x ≠ [])
    match s.admitAt q r (at' q) m with
    | none => none
    | some s1 =>
      -- a packet with one copy, for another Quarter, holds its landing credits until it is admitted
      let alone := at' q = [] && others.length = 1
      let w := if alone then m else { m with slots := 0, gone := [] }
      match others.foldl (fun (a : Option State) x => match a with
        | none => none
        | some s => s.cross q x even r (at' x) m w) (some s1) with
      | none => none
      | some s2 => some (if alone then s2 else s2.creditBack m)

/-- A packet that must wait: each Quarter of its targets that can take its copy does so now, and the copies of the others wait (R102, R103). -/
def State.offerSome (s : State) (q : Nat) (even : Bool) (m : Msg) (r : Route) : State × Msg :=
  if (r.outs.map (·.1)).eraseDups.length ≤ 1 then (s, m)
  else (r.outs.map (·.1)).eraseDups.foldl (fun a x =>
    if a.2.gone.contains x ∨ ¬(r.outs.any (fun o => o.1 = x && s.outOk o && !s.fenced m.pkt.job o)) then a
    else match a.1.offer q even { a.2 with slots := 0 } { r with outs := r.outs.filter (fun o => o.1 = x) } with
      | some t => (t, { a.2 with gone := x :: a.2.gone })
      | none => a) (s, m)

/-- Counts the wait of a lossless packet the first time it is refused (QT_QSTAT). -/
def State.beginWait (s : State) (m : Msg) (r : Route) : State :=
  if m.waits then s else (r.outs.filter (fun o => !m.gone.contains o.1)).foldl (fun s o => s.countRefused o.1 o.2) s

/-- A message as Block `g` sends it: stamped (R32), and a response to show the Block's LEVEL as it is admitted (R144). -/
def Msg.sentBy (m : Msg) (now g : Nat) : Msg :=
  { m with stamp := now, src := if m.pkt.tc = 3 ∧ m.ingress ≠ 3 ∧ m.src = [] then [g] else m.src }

/-- The route of a message of Block `g`: a request or answer inside the device goes to the Block that takes it. -/
def State.blkRoute (s : State) (g : Nat) (m : Msg) : Route :=
  match m.asker, m.pkt.tc.toNat with
  | .req c _, 3 => { outs := [qBlk (c / 16) 3] }
  | .coll h _ _, 3 => { outs := [qBlk h 3] }
  | .pte p _, 3 => { outs := [qBlk (s.lowBlk p) 3] }
  | _, _ => s.route (qOfBlk g) m.pkt

/-- A message that Block `g` sends: admitted, or waiting behind its earlier ones of the class (R19, R100). Log 105. -/
def State.sendBlk (s : State) (g : Nat) (m : Msg) : State :=
  let m := m.sentBy s.now g
  let wait := fun (s : State) (m : Msg) => s.updBlk g (fun b => { b with outq := b.outq ++ [{ m with waits := true }] })
  if (s.blk g).outq.any (fun w => w.pkt.tc = m.pkt.tc) then wait s m
  else
    let r := s.blkRoute g m
    match s.offer (qOfBlk g) (g % 2 = 0) m r with
    | some s => s
    | none =>
      let (s, m) := s.offerSome (qOfBlk g) (g % 2 = 0) m r
      wait (s.beginWait m r) m

/-- The Quarter at which a message of the Square enters: that of its first output, where it has several (log 127). -/
def State.sqEntry (s : State) (m : Msg) : Nat := match (s.route 0 m.pkt).outs with | o :: _ => o.1 | [] => 0

/-- A message of the Square: admitted, or waiting behind the earlier ones of its class for its Quarter (R19, R100). Log 127. -/
def State.sendSq (s : State) (m : Msg) : State :=
  let m := { m with stamp := s.now }
  let r := s.route 0 m.pkt
  let q := s.sqEntry m
  let wait := fun (s : State) => { s with sqOut := s.sqOut ++ [{ m with waits := true }] }
  if s.sqOut.any (fun w => s.sqEntry w = q && w.pkt.tc = m.pkt.tc) then wait s
  else match s.offer q true m r with
    | some s => s
    | none => wait (s.beginWait m r)

end Sys2Proof.Machine
end

