-- ==== Sys2Proof/Machine/Page.lean ====
section
/-! DEFINITION. Pages and frames of a partition: placement, release, translation (08 R212 to R227, R229, R240). -/

namespace Sys2Proof.Machine

/-- The page-size shift of a 256 MiB page. -/
abbrev pgShift : Nat := 2 ^ 28

/-- The key of the page that holds 256 MiB page `n`: the first of its 64 for a 16 GiB page (R215). -/
def Part.pageKey (p : Part) (n : Nat) : Nat :=
  match tfind p.pages (n - n % 64) with
  | some x => if x.big then n - n % 64 else n
  | none => n

/-- The state of a page; UNPLACED where nothing is listed. -/
def Part.page (p : Part) (n : Nat) : Page := tget p.pages (p.pageKey n) {}
def State.updPage (s : State) (p k : Nat) (f : Page → Page) : State :=
  s.updPart p (fun x => { x with pages := tset x.pages k (f (tget x.pages k {})) {} })

/-- Frames of a page (R215). -/
def Page.frames (g : Page) : Nat := if g.big then 64 else 1
/-- Pool bytes of a page. -/
def Page.size (g : Page) : Nat := g.frames * pgShift

/-- Free frames of a tier of a partition (1 near, 2 bulk, 3 tray). -/
def State.freeFrames (s : State) (p tier : Nat) : Nat :=
  match tier with
  | 1 => (s.part p).nearFree
  | 2 => (s.part p).bulkFree
  | _ => s.trayFree p

/-- The tray that takes the next tray frame (R214): the next with a free frame after the last one used, ascending. -/
def State.nextTray (s : State) (p : Nat) (skip : Option Nat) : Option Nat :=
  let x := s.part p
  let ok := fun t => x.trays.getLsbD t && (s.tray t).state = .assigned && some t ≠ skip && (s.tray t).placed.toNat < (s.tray t).frames.toNat
  ((List.range 16).map (fun i => (x.lastTray + 1 + i) % 16)).find? ok

/-- Frames of a tier that pages of its present layout hold, or that are not clean yet; tray frames with their trays. -/
def Part.heldFrames (x : Part) (tier : Nat) : List (Nat × Nat) :=
  x.pages.flatMap (fun e =>
    let of := fun (t : BitVec 2) (lay : BitVec 64) (ts fs : List Nat) =>
      if t.toNat ≠ tier then [] else if tier = 3 then ts.zip fs else if lay = x.blocks then fs.map (fun f => (0, f)) else []
    of e.2.tier e.2.lay e.2.trays e.2.frms ++ of (if e.2.state = .migrating then e.2.dst else e.2.tier) e.2.dstLay e.2.dstTrays e.2.dstFrms)
  ++ x.dirtyFrms.flatMap (fun e => if tier = 3 then (if 16 ≤ e.1 then e.2.map (fun f => (e.1 - 16, f)) else []) else if e.1 = tier then e.2.map (fun f => (0, f)) else [])

/-- Takes a free frame of tray `t`, or of a tier of `n` frames (`t` 0): which one the spec leaves open (log 142). -/
def State.pickFrame (s : State) (p tier t n : Nat) (also : List Nat) : Nat × State :=
  let held := ((s.part p).heldFrames tier).filterMap (fun e => if e.1 = t then some e.2 else none)
  let free := (List.range n).filter (fun f => !held.contains f && !also.contains f)
  let (v, s) := s.free
  (nth free (v % max 1 free.length), s)

/-- Takes `n` frames of a tier: the trays they lie on, and the frames. -/
def State.takeFrames (s : State) (p tier n : Nat) (skip : Option Nat) : State × List Nat × List Nat :=
  let k := popcount (s.part p).blocks
  let pick := fun (s : State) (total : Nat) => (List.range n).foldl (fun (a : State × List Nat) _ =>
    let (f, s) := a.1.pickFrame p tier 0 total a.2
    (s, a.2 ++ [f])) (s, [])
  match tier with
  | 1 =>
    let (s, fs) := pick s (nearFrames k)
    (s.updPart p (fun x => { x with usedNear := x.usedNear + n }), [], fs)
  | 2 =>
    let (s, fs) := pick s (bulkFrames k)
    (s.updPart p (fun x => { x with usedBulk := x.usedBulk + n }), [], fs)
  | _ => (List.range n).foldl (fun (a : State × List Nat × List Nat) _ =>
      match a.1.nextTray p skip with
      | none => a
      | some t =>
        let mine := (a.2.1.zip a.2.2).filterMap (fun e => if e.1 = t then some e.2 else none)
        let (f, s) := a.1.pickFrame p 3 t (a.1.tray t).frames.toNat mine
        let s := s.updTray t (fun x => { x with placed := satAdd x.placed 1, touched := max x.touched (x.placed.toNat + 1) })
        (s.updPart p (fun x => { x with lastTray := t }), a.2.1 ++ [t], a.2.2 ++ [f])) (s, [], [])

/-- Gives frames to the sparge scrubber (R229): they stay in use until they hold zeros. Keys: 1 near, 2 bulk, 16 + t a tray. -/
def State.dirtyFrames (s : State) (p tier n : Nat) (trays frms : List Nat) : State :=
  let add := fun (x : Part) k m (fs : List Nat) =>
    { x with dirty := tset x.dirty k (tget x.dirty k 0 + m) 0, dirtyFrms := tset x.dirtyFrms k (tget x.dirtyFrms k [] ++ fs) [] }
  match tier with
  | 0 => s
  | 3 => (trays.zip (frms ++ List.replicate (trays.length - frms.length) 0)).foldl (fun s t => s.updPart p (fun x => add x (16 + t.1) 1 [t.2])) s
  | _ => s.updPart p (fun x => add x tier n frms)

/-- The tiers tried for a first placement, in order (R223). -/
def tierOrder (tier : Nat) : List Nat :=
  match tier with
  | 1 => [1, 2, 3]
  | 3 => [3]
  | _ => [2, 3]

/-- Places an UNPLACED page in a tier. -/
def State.placeIn (s : State) (p k t : Nat) (big : Bool) : State :=
  let lay := (s.part p).blocks
  let (s, trays, frms) := s.takeFrames p t (if big then 64 else 1) none
  s.updPage p k (fun g => { g with state := .placed, tier := BitVec.ofNat 2 t, trays := trays, frms := frms, lay := lay, big := big })

/-- Places an UNPLACED page by R223. `none`: no tier has enough free frames. -/
def State.placePage (s : State) (p k tier : Nat) (big : Bool) : Option State :=
  ((tierOrder tier).find? (fun t => (if big then 64 else 1) ≤ s.freeFrames p t)).map (fun t => s.placeIn p k t big)

/-- A placement refused for capacity: counted, and NO_CAPACITY at most once per tick per partition (R223). -/
def State.noCapacity (s : State) (p page : Nat) : State :=
  let s := s.updPart p (fun x => { x with noCap := satAdd x.noCap 1 })
  if (s.part p).nocapEvt = some s.now then s
  else
    let s := s.updPart p (fun x => { x with nocapEvt := some s.now })
    s.raise ({ code := 0x29, unit := uSquare, d0 := BitVec.ofNat 64 page : Event }.inPart p (s.part p))

/-- Counts an access of `n` lines to a page (R224). -/
def State.touchPage (s : State) (p page n : Nat) : State :=
  let x := s.part p
  let g := x.page page
  if g.state = .placed ∨ g.state = .migrating then
    s.updPage p (x.pageKey page) (fun g => { g with acc := satAdd g.acc n, lastt := s.now })
  else s

/-- Frees the frames of a page and makes it UNPLACED, its bytes zero, its hint, pin and seal cleared (R228, R229, R233). -/
def State.freePage (s : State) (p k : Nat) : State :=
  let g := (s.part p).page k
  let s := s.dirtyFrames p g.tier.toNat g.frames g.trays g.frms
  let s := if g.state = .migrating then s.dirtyFrames p g.dst.toNat g.frames g.dstTrays g.dstFrms else s
  let s := s.clearPool p (k * pgShift) g.size
  s.updPage p k (fun _ => {})

/-! ### Segments and the page table -/

/-- The segment that a descriptor's two slots spell (R216), and whether a reserved bit is set. -/
def segOf (n : Nat) : Segment × Bool :=
  let f := fun lo w => bits n lo w
  ({ cbase := BitVec.ofNat 48 (f 0 48), clast := BitVec.ofNat 48 (f 64 48), pbase := BitVec.ofNat 52 (f 128 52),
     v := f 192 1 = 1, rd := f 193 1 = 1, wr := f 194 1 = 1 },
   f 48 16 ≠ 0 || f 112 16 ≠ 0 || f 180 12 ≠ 0 || f 195 61 ≠ 0)

/-- Whether a descriptor may be installed (R216): an unused one is not checked. -/
def segLegal (n : Nat) : Bool :=
  let (g, rsv) := segOf n
  !g.v || (!rsv && g.cbase.toNat % 4096 = 0 && (g.clast.toNat + 1) % 4096 = 0 && g.pbase.toNat % 4096 = 0
    && g.cbase.toNat ≤ g.clast.toNat && g.pbase.toNat + (g.clast.toNat - g.cbase.toNat) < 2 ^ 52)

/-- The segments that a run of 32 B descriptors installs; an unused one is all zero. -/
def segsOf (ns : List Nat) : List Segment := ns.map (fun n => let g := (segOf n).1; if g.v then g else {})

/-- The lowest-numbered valid segment that contains a whole request (R217). -/
def segFind (l : List Segment) (a n : Nat) : Option Segment :=
  l.find? (fun g => g.v && g.cbase.toNat ≤ a && a + n ≤ g.clast.toNat + 1)

/-- The segment check of R168 and R217: the pool address, or a status. -/
def segCheck (l : List Segment) (a n : Nat) (rd wr : Bool) : Except Status Nat :=
  match segFind l a n with
  | none => .error stNoTrans
  | some g => if (rd && !g.rd) || (wr && !g.wr) then .error stPerm else .ok (g.pbase.toNat + (a - g.cbase.toNat))

/-- The page-table entry that eight bytes spell (R220). -/
def pteOf (v : Nat) : Pte :=
  { v := bits v 0 1 = 1, rd := bits v 1 1 = 1, wr := bits v 2 1 = 1, ps := bits v 3 1 = 1, tier := BitVec.ofNat 2 (bits v 4 2),
    rsv0 := BitVec.ofNat 2 (bits v 6 2), dev := BitVec.ofNat 12 (bits v 8 12), rsv1 := BitVec.ofNat 12 (bits v 20 12) }

/-- Whether an entry is malformed (R221). -/
def Pte.malformed (e : Pte) : Bool := e.v && (e.rsv0 ≠ 0 || e.rsv1 ≠ 0 || e.dev = 0xFFF)

/-- PTE_INVALID, at most once per tick per job (R169, R221). -/
def State.pteInvalid (s : State) (job : JobId) (n : Nat) : State :=
  if tget s.pteEvt job.toNat 0 = s.now + 1 then s
  else
    let s := { s with pteEvt := tset s.pteEvt job.toNat (s.now + 1) 0 }
    let e : Event := { code := 0x28, unit := uSquare, job := job, d0 := BitVec.ofNat 64 n }
    s.raise (match s.partOfJob job with | some p => e.inPart p (s.part p) | none => e)

/-- What a translation cache says of one entry (R222): `none`, the table must be read. -/
inductive PteAns where
  | ent (e : Pte)
  | bad (st : Status)
  | read
deriving DecidableEq, Repr

/-- The unit of a translation cache: a Block by its number, a fabric port from 64 on by its lane (R222). Log 78. -/
def portUnit (l : Nat) : Nat := 64 + l
/-- Entry `n` in the cache of unit `u`; and back. Log 78. -/
def xKey (u n : Nat) : Nat := u * 2 ^ 24 + n
def keyPage (k : Nat) : Nat := k % 2 ^ 24

/-- Entry `n` as the cache of unit `u`, or an answer just read for it, has it. -/
def Part.cached (p : Part) (u n : Nat) : PteAns :=
  match tfind p.tcache (xKey u n) with
  | some e => .ent e
  | none => match tget p.pteRes (xKey u n) none with
    | some (e, st) => if st ≠ stOk then .bad st else .ent e
    | none => .read

/-- The outcome of translating a page. -/
inductive XRes where
  | ok (e : Pte)
  | bad (st : Status)
  | read (n : Nat)
deriving DecidableEq, Repr

/-- Translation of 256 MiB page `n` of a partition's job by unit `u`. Entry PTPN is never read: its page has PS 0 and heads no 16 GiB page
(R219, R221). -/
def State.xlate (s : State) (p u n : Nat) : XRes :=
  let x := s.part p
  if ¬x.ptv then .bad stNoTrans
  else if n = x.ptpn.toNat then .ok { v := true, rd := true, wr := true, tier := 1, dev := x.ptdev }
  else match x.cached u n with
    | .read => .read n
    | .bad st => .bad st
    | .ent e =>
      if ¬e.v ∨ e.malformed then .bad stNoTrans
      else if ¬e.ps then .ok e
      else if n - n % 64 = x.ptpn.toNat then .bad stNoTrans
      else match x.cached u (n - n % 64) with
        | .read => .read (n - n % 64)
        | .bad st => .bad st
        | .ent f => if ¬f.v ∨ ¬f.ps ∨ f.malformed then .bad stNoTrans else .ok { f with ps := true }

/-- Uses up the answers read for page `n` that the cache of unit `u` does not keep (R222). -/
def State.xlateUsed (s : State) (p u n : Nat) : State :=
  s.updPart p (fun x => { x with pteRes := tdel (tdel x.pteRes (xKey u n)) (xKey u (n - n % 64)) })

/-- A valid entry names its page's device: a page that this device takes up raises the horizon of its Blocks (R178), and one that leaves it
has its cached copies recalled with their data (R210). A page never read before is taken up if homes have moved since the job was bound and it
is not placed. Logs 58, 139. -/
def State.tookDev (s : State) (p n : Nat) (dev : Eid) : State :=
  let x := s.part p
  let k := x.pageKey n
  let old := (tfind x.devs k).getD (if (x.page n).state ≠ .unplaced then s.selfEid else if x.rehomed then 0xFFF else dev)
  let s := s.updPart p (fun x => { x with devs := tins (tdel x.devs k) k dev })
  if old ≠ s.selfEid ∧ dev = s.selfEid then x.blist.foldl (fun s g => s.updBlk g (fun b => { b with hz := s.tb.tick })) s
  else if old = s.selfEid ∧ dev ≠ s.selfEid then
    x.blist.foldl (fun s g => s.updBlk g (fun b => { b with walks := b.walks ++ [.recalling [k] false false] })) s
  else s

/-- Takes what was read of an entry for the cache key `k`: a valid entry is cached, any other is kept for the requests that wait (R221, R222).
DEV counts in the first entry of a page alone (R221). -/
def State.pteTake (s : State) (p k : Nat) (e : Pte) (st : Status) : State :=
  let n := keyPage k
  let s := if st = stOk ∧ e.malformed then s.pteInvalid (s.part p).job n else s
  let s := if st = stOk ∧ e.v ∧ ¬e.malformed ∧ ¬(e.ps ∧ n % 64 ≠ 0) then s.tookDev p n e.dev else s
  s.updPart p (fun x =>
    let x := { x with pteAsk := tset x.pteAsk k none none }
    if st = stOk ∧ e.v ∧ ¬e.malformed then { x with tcache := tins (tdel x.tcache k) k e }
    else { x with pteRes := tset x.pteRes k (some (e, st)) none })

/-- Empties every translation cache of a partition's job (R222). -/
def Part.flushCache (x : Part) : Part := { x with tcache := [], pteRes := [] }

end Sys2Proof.Machine
end

