-- ==== Sys2Proof/Machine/Home.lean ====
section
/-! DEFINITION. The home of a line: directory slice, snoops, hot lines, atomics, responses (06 R155 to R175; 07 R185 to R211; 08 R223,
R236 to R240). -/

namespace Sys2Proof.Machine

/-! ### Message types of TC2 and TC3 (R150, R151, R189 to R191) -/

abbrev tLD : Nat := 0
abbrev tST : Nat := 1
abbrev tAT : Nat := 2
abbrev tPF : Nat := 3
abbrev tRdShared : Nat := 16
abbrev tRdOwn : Nat := 17
abbrev tWrInv : Nat := 18
abbrev tWrBack : Nat := 19
abbrev tEvict : Nat := 20
abbrev tLostClr : Nat := 21
abbrev rNAK : Nat := 0
abbrev rLD : Nat := 1
abbrev rST : Nat := 2
abbrev rAT : Nat := 3
abbrev rPF : Nat := 4
abbrev rGrantS : Nat := 16
abbrev rGrantE : Nat := 17
abbrev rGrantM : Nat := 18
abbrev rWrDone : Nat := 19
abbrev rSnpResp : Nat := 20
abbrev rSnpRespD : Nat := 21
abbrev rPinned : Nat := 22
abbrev rGrantNC : Nat := 23
abbrev tSnpInv : Nat := 0
abbrev tFwdRdS : Nat := 1
abbrev tFwdRdO : Nat := 2
abbrev tSnpShare : Nat := 3
abbrev tBackInv : Nat := 4

/-- Whether a request writes or takes ownership, as R200 and R203 count them. -/
def isOwning (k : Nat) : Bool := k = tST || k = tAT || k = tRdOwn || k = tWrInv
/-- Whether a request is refused at a registered root and in a sealed page (R239, R240). -/
def isWrite (k : Nat) : Bool := isOwning k || k = tLostClr

/-- MEMX fields of a request (R152). -/
def Pkt.memx (p : Pkt) : Nat := ((p.x[0]?).getD 0).toNat
def Pkt.addr (p : Pkt) : Nat := bits p.memx 0 52
def Pkt.pa (p : Pkt) : Bool := bits p.memx 52 1 = 1
def Pkt.szm1 (p : Pkt) : Nat := bits p.memx 56 12
def Pkt.aop (p : Pkt) : Nat := bits p.memx 68 4
def Pkt.atype (p : Pkt) : Nat := bits p.memx 72 4
def Pkt.issue (p : Pkt) : Nat := bits p.memx 76 16
def Pkt.pmask (p : Pkt) : Nat := bits p.memx 92 32
/-- POIS of a COHX slot (R192). -/
def Pkt.pois (p : Pkt) : Bool := bits p.memx 53 1 = 1

/-- Width in bytes of an operand type (R157). -/
def atWidth (t : Nat) : Nat := if t = 6 then 16 else if t = 2 ∨ t = 3 ∨ t = 5 then 8 else 4

/-- The bytes that a request or response carries for `n` bytes at address `a` (R154). -/
def payload (data : List Slot) (a n : Nat) : List Byte := bytesAt (slotsBytes data) (if n < 16 then a % 16 else 0) n
/-- Slots that carry `n` bytes at address `a` (R154). -/
def payloadSlots (v : List Byte) (a : Nat) : List Slot :=
  if v.length < 16 then bytesSlots 1 (List.replicate (a % 16) 0 ++ v) else bytesSlots (cdiv v.length 16) v

/-! ### Directory entries (R188) -/

/-- An entry that holds nothing is no entry. -/
def DirEnt.tidy (e : DirEnt) : DirEnt :=
  if e.mode = .none ∧ e.txn = none ∧ e.hot = none ∧ e.due = none then {} else e
def State.ent (s : State) (g l : Nat) : DirEnt := tget (s.blk g).dir l {}
def State.setEnt (s : State) (g l : Nat) (e : DirEnt) : State :=
  s.updBlk g (fun b => { b with dir := tset b.dir l e.tidy {} })
def State.updEnt (s : State) (g l : Nat) (f : DirEnt → DirEnt) : State := s.setEnt g l (f (s.ent g l))

/-- The mode a transaction or a request leaves a line in, with the transaction record freed. -/
def State.setMode (s : State) (g l : Nat) (m : DirMode) : State :=
  let e := s.ent g l
  if e.mode = .none ∧ m ≠ .none then
    let n := (s.blk g).dirSeq
    (s.updBlk g (fun b => { b with dirSeq := n + 1 })).setEnt g l { e with mode := m, txn := none, seq := n }
  else s.setEnt g l { e with mode := m, txn := none }

/-- The set of a line (R188). -/
def dirSet (l : Nat) : Nat := ((l >>> 4) ^^^ (l >>> 19)) % 32768

/-- Sharers with one more (R198). -/
def groupBit (e : Nat) : BitVec 64 := BitVec.ofNat 64 (2 ^ (e / 64))
def DirMode.add (m : DirMode) (e : Nat) : DirMode :=
  match m with
  | .exact l => if l.contains e then m else if l.length < 4 then .exact (l ++ [e])
                else .coarse (l.foldl (fun a x => a ||| groupBit x) (groupBit e))
  | .coarse g => .coarse (g ||| groupBit e)
  | _ => .exact [e]

/-- The agents to snoop to invalidate a shared line, but for `skip` (R194, R198, R204): those with a current incarnation, and never
the device itself, which caches nothing. -/
def State.sharers (s : State) (m : DirMode) (skip : Option Nat) : List Nat :=
  let ok := fun e => some e ≠ skip && e ≠ s.selfEid.toNat && s.incOf (BitVec.ofNat 12 e) ≠ 0
  match m with
  | .exact l => l.filter ok
  | .coarse g => (s.eidInc.map (·.1)).filter (fun e => g.getLsbD (e / 64) && ok e)
  | _ => []

/-! ### Line data: memory, or the hot slot (R200, R206) -/

def State.hotOf (s : State) (g l : Nat) : Option (Nat × Hot) :=
  match (s.ent g l).hot with
  | some k => (tget (s.blk g).hot k none).map (fun h => (k, h))
  | none => none
def State.setHot (s : State) (g k : Nat) (h : Option Hot) : State :=
  s.updBlk g (fun b => { b with hot := tset b.hot k h none })

def State.lineBytes (s : State) (g p l : Nat) : List Byte :=
  match s.hotOf g l with
  | some (_, h) => h.bytes
  | none => s.peeks p (128 * l) 128
/-- Whether the line is LOST or its poison flag is set. -/
def State.lineBad (s : State) (g p l : Nat) : Bool :=
  match s.hotOf g l with
  | some (_, h) => h.poison || h.lost
  | none => s.poisoned p l || s.isLost p l

/-- Puts bytes at offset `o` of a line. Poisoned data sets the poison flag; clean data clears it and LOST where it may (`clears`). -/
def State.linePut (s : State) (g p l o : Nat) (v : List Byte) (pois clears : Bool) : State :=
  match s.hotOf g l with
  | some (k, h) =>
    let h := { h with bytes := putBytes h.bytes o v }
    s.setHot g k (some (if pois then { h with poison := true } else if clears then { h with poison := false, lost := false } else h))
  | none =>
    let s := s.pokes p (128 * l + o) v
    if pois then s.setPoison p l true
    else if clears then (s.setPoison p l false).setLost p l false else s

/-- A request's write: of these a whole clean line clears the poison flag and LOST (R152, R208). -/
def State.lineWrite (s : State) (g p l o : Nat) (v : List Byte) (pois : Bool) : State := s.linePut g p l o v pois (v.length = 128)
/-- A snoop's data written to its line: it clears neither flag (R208). -/
def State.lineReturn (s : State) (g p l : Nat) (v : List Byte) (pois : Bool) : State := s.linePut g p l 0 v pois false

/-- Clears LOST and nothing else (R208). -/
def State.lineUnlost (s : State) (g p l : Nat) : State :=
  match s.hotOf g l with
  | some (k, h) => s.setHot g k (some { h with lost := false })
  | none => s.setLost p l false

/-- Marks a line LOST with its owner, in the log where there is room (R204, R205, R209). -/
def State.markLost (s : State) (g p l : Nat) (e : Eid) (i : Inc) : State :=
  let s := s.setLost p l true
  s.updBlk g (fun b =>
    if b.lostLog.length < 4096 then
      { b with lostLog := b.lostLog ++ [{ line := l, eid := e, inc := i, job := (s.part p).job, tick := s.now }] }
    else { b with lostOvf := satAdd b.lostOvf 1 })

/-- Settles an owner that is no longer current: its line is LOST and in home state I (R204). -/
def State.settleOwner (s : State) (g p l : Nat) : State :=
  match (s.ent g l).mode with
  | .own e i => if s.incOf e = i then s else (s.markLost g p l e i).updEnt g l (fun x => { x with mode := .none })
  | _ => s

/-! ### Responses (R155, R156, R191) -/

/-- Sends a response of Block `g` to a request. -/
def State.reply (s : State) (g : Nat) (m : Msg) (mt : Nat) (st : Status) (x data : List Slot) : State :=
  let pkt : Pkt := { tc := 3, mtype := BitVec.ofNat 5 mt, deid := m.pkt.seid, seid := s.selfEid, sinc := m.pkt.sinc, job := m.pkt.job,
                     gen := m.pkt.gen, tag := m.pkt.tag, status := st, load := m.pkt.load, len := BitVec.ofNat 9 data.length,
                     xslots := BitVec.ofNat 2 x.length, x := x, data := data }
  s.sendBlk g { pkt := pkt, asker := m.asker, ingress := m.ingress, src := m.src }

/-- The COHX slot of a grant or completion for a line. -/
def cohx (l : Nat) (pois : Bool) : Slot := packSlot [(53, 128 * l), (1, b1 pois)]

/-- A grant with the line's current data (R191, R207). -/
def State.grant (s : State) (g p : Nat) (m : Msg) (mt l : Nat) : State :=
  let bad := s.lineBad g p l
  s.reply g m mt (if bad then stPoison else stOk) [cohx l bad] (bytesSlots 8 (s.lineBytes g p l))

/-- The positions of a list of lines that hold poison, as a mask; a position that failed holds none. -/
def maskAt (order pois : List Nat) (fails : Tbl Status) : Nat :=
  (((List.range order.length).zip order).map (fun x => if pois.contains x.2 && (tfind fails x.1).isNone then 2 ^ x.1 else 0)).sum

/-- Lines of an LD or ST in address order. -/
def Msg.span (m : Msg) : List Nat :=
  let a := m.paddr
  (List.range ((a + m.pkt.szm1) / 128 - a / 128 + 1)).map (· + a / 128)

/-- The response to an LD, ST or PFLIST from what its lines gave: by line data and poison, by list position failures (R155, R156). -/
def State.answer (s : State) (g : Nat) (m : Msg) (order : List Nat) (got : Tbl (List Byte)) (pois : List Nat) (fails : Tbl Status)
    (bad : Option Status) : State :=
  let bytes := fun l => bytesAt (tget got l []) 0 128
  match m.pkt.mtype.toNat with
  | 0 =>
    let st := bad.getD (if pois = [] then stOk else stPoison)
    if st ≠ stOk ∧ st ≠ stPoison then s.reply g m rNAK st [] []
    else
      let ls := m.span
      let n := m.pkt.szm1 + 1
      let v := bytesAt (ls.flatMap bytes) (m.paddr % 128) n
      s.reply g m rLD st (if st = stPoison then [BitVec.ofNat 128 (maskAt ls pois [])] else []) (payloadSlots v m.paddr)
  | 1 =>
    match bad with
    | some st => s.reply g m rNAK st [] []
    | none => s.reply g m rST stOk [] []
  | _ =>
    match bad with
    | some st => s.reply g m rNAK st [] []
    | none =>
      let at' := (List.range order.length).zip order
      let fm := (fails.map (fun e => 2 ^ e.1)).sum
      let pm := maskAt order pois fails
      let st : Option Status := at'.findSome? (fun (x : Nat × Nat) =>
        match tfind fails x.1 with
        | some f => some f
        | none => if pois.contains x.2 then some stPoison else none)
      let line := fun (x : Nat × Nat) => if (tfind fails x.1).isSome then List.replicate 8 0 else bytesSlots 8 (bytes x.2)
      s.reply g m rPF (st.getD stOk) [BitVec.ofNat 128 (fm + 2 ^ 32 * pm)] (at'.flatMap line)

/-- One part of a request with several homes is done; with the last, the one response goes out (R185). Log 107. -/
def State.joinPart (s : State) (g j : Nat) (first : Nat) (st : Status) (got : Tbl (List Byte)) (pois : List Nat) (fails : Tbl Status) : State :=
  match tget s.joins j none with
  | none => s
  | some x =>
    let at' := fun l => (List.range x.order.length).filter (fun i => nth x.order i = l && (tfind x.fails i).isNone)
    let x : Join := { x with
      left := x.left - 1
      got := x.got ++ got
      pois := x.pois ++ pois
      blks := setIns x.blks g
      bad := if st = stOk then x.bad else match x.bad with
        | some (a, f) => if first < a then some (first, st) else some (a, f)
        | none => some (first, st)
      fails := fails.foldl (fun t e => (at' e.1).foldl (fun t i => tins (tdel t i) i e.2) t) x.fails }
    if x.left = 0 then
      let m := { x.msg with src := x.blks }
      (State.answer { s with joins := tset s.joins j none none } g m x.order x.got x.pois x.fails
        (match x.bad with | some b => some b.2 | none => none))
    else { s with joins := tset s.joins j (some x) none }

/-- The lines of a part that this home serves, without repeats. -/
def Msg.linesAt (m : Msg) (g : Nat) : List LineRef :=
  (m.lines.filter (fun r => r.home = g)).foldl (fun l r => if l.any (fun x => x.line = r.line) then l else l ++ [r]) []

/-- A request or part that is not performed: a NAK, or its share of the one response (R155, R185). -/
def State.refuse (s : State) (g : Nat) (m : Msg) (st : Status) : State :=
  match m.asker with
  | .join j =>
    s.joinPart g j (nth ((m.linesAt g).map (·.line)) 0) st [] [] []
  | _ => s.reply g m rNAK st [] []

/-- What an LD, ST or PFLIST gathered at this home goes out. -/
def State.finish (s : State) (g : Nat) (w : Work) : State :=
  let ls := (w.msg.linesAt g).map (·.line)
  let order := if w.msg.pkt.mtype.toNat = tPF then w.msg.lines.map (·.line) else ls
  match w.msg.asker with
  | .join j => s.joinPart g j (nth ls 0) (if w.pois = [] ∨ w.msg.pkt.mtype.toNat = tPF then stOk else stPoison) w.got w.pois w.fails
  | _ =>
    let fails := ((List.range order.length).zip order).filterMap (fun x => (tfind w.fails x.2).map (fun f => (x.1, f)))
    s.answer g w.msg order w.got w.pois fails none

/-! ### Atomics (R157 to R161, R171 to R173) -/

/-- What an atomic writes: `none`, nothing. -/
def atNew (aop atype : Nat) (old : List Byte) (ops : List Slot) : Option (List Byte) :=
  let w := atWidth atype
  let o := bytesAt (slotsBytes ops) 0 w
  let a := leNat old
  let b := leNat o
  let fmt := if atype = 5 then fmtF64 else fmtF32
  let float := atype = 4 || atype = 5
  let signedT := atype = 0 || atype = 2
  let le := fun x y => if signedT then decide (signed (8 * w) x ≤ signed (8 * w) y) else decide (x ≤ y)
  match aop with
  | 0 => some (leBytes w (if float then fmt.addNe a b else a + b))
  | 1 => some (leBytes w (if float then fmt.minMax false a b else if le a b then a else b))
  | 2 => some (leBytes w (if float then fmt.minMax true a b else if le a b then b else a))
  | _ => if old = o then some (bytesAt (slotsBytes ops) (if atype = 6 then 16 else 8) w) else none

/-- T0 of an ISSUE field, seen in tick `now`: the tick from now − 65,534 to now + 1 with those low bits. -/
def issueTick (now issue : Nat) : Int := (now : Int) + 1 - (((now : Int) + 1 - issue) % 65536)

/-- An entry still held (R171). -/
def State.replays (s : State) (g : Nat) : List Replay := (s.blk g).replay.filter (fun e => s.now < e.expiry)

/-- The rows of R172 that need not see the line: a status and counter, or the cached value. `Tn` is `tn`. -/
inductive AtAns where
  | cached (v : BitVec 128)
  | clash
  | unknown
  | go
deriving DecidableEq, Repr

def State.atDecide (s : State) (g : Nat) (m : Msg) (tn : Nat) : AtAns :=
  let p := m.pkt
  let t0 := issueTick tn p.issue
  match (s.replays g).find? (fun e => e.seid = p.seid && e.sinc = p.sinc && e.tag = p.tag && e.issue.toNat = p.issue) with
  | some e =>
    if e.paddr = m.paddr ∧ e.aop.toNat = p.aop ∧ e.atype.toNat = p.atype ∧ e.ops = p.data then .cached e.value else .clash
  | none => if (tn : Int) ≥ t0 + 128 ∨ t0 ≤ ((s.blk g).hz.toNat : Int) then .unknown else .go

/-- ATDONE with the value the location held (R158). -/
def State.atDone (s : State) (g : Nat) (m : Msg) (v : BitVec 128) : State := s.reply g m rAT stOk [] [v]

/-- The outcome of an atomic that is answered without being applied (R172): rows 1 to 4. Log 106. -/
def State.atEarly (s : State) (g : Nat) (m : Msg) (tn : Nat) : Option State :=
  match s.atDecide g m tn with
  | .cached v => some ((s.updBlk g (fun b => { b with hit := satAdd b.hit 1 })).atDone g m v)
  | .clash => some ((s.updBlk g (fun b => { b with clash := satAdd b.clash 1 })).reply g m rNAK stUnknown [] [])
  | .unknown => some ((s.updBlk g (fun b => { b with unknown := satAdd b.unknown 1 })).reply g m rNAK stUnknown [] [])
  | .go => none

/-- Decides and performs an atomic whose line has no cached copy (R172). -/
def State.atPerform (s : State) (g p : Nat) (m : Msg) (tn : Nat) : State :=
  match s.atEarly g m tn with
  | some s => s
  | none =>
    let k := m.pkt
    let l := m.paddr / 128
    if s.lineBad g p l then s.reply g m rNAK stPoison [] []
    else if 256 ≤ ((s.replays g).filter (fun e => e.seid = k.seid && e.sinc = k.sinc)).length then
      (s.updBlk g (fun b => { b with full := satAdd b.full 1 })).reply g m rNAK stRetry [] []
    else
      let w := atWidth k.atype
      let old := bytesAt (s.lineBytes g p l) (m.paddr % 128) w
      let v : BitVec 128 := BitVec.ofNat 128 (leNat old)
      let e : Replay := { seid := k.seid, sinc := k.sinc, tag := k.tag, issue := BitVec.ofNat 16 k.issue, job := k.job, paddr := m.paddr,
                          aop := BitVec.ofNat 4 k.aop, atype := BitVec.ofNat 4 k.atype, ops := k.data, value := v,
                          expiry := endOf s.now 128 }
      let s := s.updBlk g (fun b => { b with replay := b.replay ++ [e] })
      let s := match atNew k.aop k.atype old k.data with
        | some n => s.lineWrite g p l (m.paddr % 128) n false
        | none => s
      s.atDone g m v

/-! ### Snoops (R190, R204) -/

/-- Sends a snoop, when the Quarter has a tag towards the agent. -/
def State.snoop (s : State) (g p l mt : Nat) (e : Nat) (own : Bool) (fwd : Option Pkt) : Option (Snoop × State) :=
  let eid : Eid := BitVec.ofNat 12 e
  match s.tagTake g eid (.snoop g l) with
  | none => none
  | some (tag, s) =>
    let (re, ri, rt) := match fwd with
      | some r => (r.seid.toNat, r.sinc.toNat, r.tag.toNat)
      | none => (0, 0, 0)
    let x := packSlot [(54, 128 * l), (1, b1 own), (5, 0), (12, re), (8, ri), (12, rt)]
    let pkt : Pkt := { tc := 1, mtype := BitVec.ofNat 5 mt, deid := eid, seid := s.selfEid, sinc := s.selfInc, job := (s.part p).job,
                       gen := (s.part p).gen, tag := tag, xslots := 1, x := [x] }
    some ({ eid := eid, inc := s.incOf eid, tag := tag, asOwner := own, sent := s.now, slow := false },
      s.sendBlk g { pkt := pkt, part := p })

/-- Sends the same snoop to several agents. Log 104. -/
def State.snoops (s : State) (g p l mt : Nat) (own : Bool) (fwd : Option Pkt) : List Nat → Option (List Snoop × State)
  | [] => some ([], s)
  | e :: r => match s.snoop g p l mt e own fwd with
    | none => none
    | some (n, s) => match s.snoops g p l mt own fwd r with
      | none => none
      | some (ns, s) => some (n :: ns, s)

/-- Transaction records in use (R188). -/
def Block.txns (b : Block) : Nat := (b.dir.filter (fun e => e.2.txn.isSome)).length

/-- What must be snooped before a request of agent `r` can be performed on a line: the message, the agents, whether it goes to the
recorded owner (R194). An owner's own read of its line is answered as from home state I. -/
def State.needs (s : State) (g l k : Nat) (r : Eid) (ri : Inc) : Nat × List Nat × Bool :=
  match (s.ent g l).mode with
  | .none => (0, [], false)
  | .own e i =>
    if (k = tRdShared ∨ k = tRdOwn) ∧ e = r ∧ i = ri then (0, [], false)
    else
      let mt := if k = tRdShared then tFwdRdS else if k = tRdOwn then tFwdRdO else if k = tLD ∨ k = tPF then tSnpShare else tSnpInv
      (mt, [e.toNat], true)
  | m =>
    if k = tRdShared ∨ k = tLD ∨ k = tPF then (0, [], false)
    else (tSnpInv, s.sharers m (if k = tRdOwn then some r.toNat else match m with | .coarse _ => some r.toNat | _ => none), false)

/-! ### Recalls and room in a set (R199, R229) -/

/-- Recalls every copy of a line by BackInv: an eviction or a recall walk (R199, R229). A BUSY line is left. -/
def State.recallLine (s : State) (g p l : Nat) (k : TxnKind) : Option State :=
  if (s.ent g l).txn.isSome ∨ (s.ent g l).hot.isSome then some s
  else
    let s := s.settleOwner g p l
    let (_, ts, own) := s.needs g l tST 0xFFF 0
    if ts = [] then some (s.setMode g l .none)
    else if 256 ≤ (s.blk g).txns then none
    else match s.snoops g p l tBackInv own none ts with
      | none => none
      | some (ns, s) => some (s.updEnt g l (fun e => { e with txn := some { kind := k, waits := ns, fwd := false, keepS := false } }))

/-- The ways of a line's set in use (R188). -/
def State.ways (s : State) (g l : Nat) : List (Nat × DirEnt) :=
  (s.blk g).dir.filter (fun e => dirSet e.1 = dirSet l && (e.2.mode ≠ .none || e.2.hot.isSome || e.2.txn.isSome))

/-- The victim of a full set (R199). -/
def victim (ways : List (Nat × DirEnt)) : Option Nat :=
  let idle := ways.filter (fun e => e.2.txn.isNone && e.2.hot.isNone)
  let oldest := fun (l : List (Nat × DirEnt)) => match l with
    | [] => none
    | a :: r => some (r.foldl (fun (b : Nat × DirEnt) e => if e.2.seq < b.2.seq then e else b) a).1
  let coarse := fun (e : Nat × DirEnt) => match e.2.mode with | .coarse _ => true | _ => false
  match oldest (idle.filter (fun e => !coarse e)) with
  | some v => some v
  | none => oldest (idle.filter coarse)

/-- Makes room in a full set: starts one eviction unless one is under way. Log 123. -/
def State.evictWay (s : State) (g p l : Nat) : Option State :=
  let ws := s.ways g l
  if ws.any (fun e => match e.2.txn with | some t => t.kind = .evictDir | none => false) then none
  else match victim ws with
    | none => none
    | some v => (s.recallLine g p v .evictDir).map (fun s => s.updBlk g (fun b => { b with backInv := satAdd b.backInv 1 }))

/-- Whether a line without an entry finds no way free in its set (R199). -/
def State.wayLess (s : State) (g l : Nat) : Bool :=
  let e := s.ent g l
  decide (e.mode = .none) && e.hot.isNone && e.txn.isNone && decide (16 ≤ (s.ways g l).length)

/-! ### Hot lines (R200 to R203) -/

/-- The line enters HOT in the slot reserved for it. -/
def State.enterHot (s : State) (g p l k : Nat) : State :=
  let h : Hot := { line := l, bytes := s.peeks p (128 * l) 128, poison := s.poisoned p l, lost := s.isLost p l,
                   pinEnd := endOf s.now 16, taken := 0, takenAt := 0, served := 0, servedAt := 0 }
  let s := (s.setHot g k (some h)).updBlk g (fun b => { b with hotPin := satAdd b.hotPin 1 })
  s.updEnt g l (fun e => { e with mode := .none, txn := none, hot := some k, due := none })

/-- A line due to become hot and not BUSY: every copy is recalled, and then it enters HOT, once it has a way (R199, R200). Log 104. -/
def State.startHot (s : State) (g p l : Nat) : State :=
  let e := s.ent g l
  match e.due, e.txn with
  | some k, none =>
    let s := s.settleOwner g p l
    let (mt, ts, own) := s.needs g l tST 0xFFF 0
    if s.wayLess g l then (s.evictWay g p l).getD s
    else if ts = [] then s.enterHot g p l k
    else if 256 ≤ (s.blk g).txns then s
    else match s.snoops g p l mt own none ts with
      | none => s
      | some (ns, s) => s.updEnt g l (fun e => { e with txn := some { kind := .toHot, waits := ns, fwd := false, keepS := false } })
  | _, _ => s

/-- Counts a request set aside for a line; the eighth of a tick makes the line due to become hot (R200). -/
def State.countAside (s : State) (g p l : Nat) : State :=
  let n := tget (s.blk g).aside l 0 + 1
  let s := s.updBlk g (fun b => { b with aside := tset b.aside l n 0 })
  let e := s.ent g l
  if n ≠ 8 ∨ e.hot.isSome ∨ e.due.isSome then s
  else
    let b := s.blk g
    let taken := fun k => (tget b.hot k none).isSome || b.dir.any (fun x => x.2.due = some k)
    match (List.range 16).find? (fun k => !taken k) with
    | none => s.updBlk g (fun b => { b with hotFull := satAdd b.hotFull 1 })
    | some k => (s.updEnt g l (fun e => { e with due := some k })).startHot g p l

/-- Requests served on a hot line in this tick (R202). -/
def State.hotServed (s : State) (h : Hot) : Nat := if h.servedAt = s.now then h.served else 0
def State.countServed (s : State) (g l : Nat) : State :=
  match s.hotOf g l with
  | some (k, h) => s.setHot g k (some { h with served := s.hotServed h + 1, servedAt := s.now })
  | none => s
/-- Counts an ownership request taken for a hot line (R203). -/
def State.countTaken (s : State) (g l : Nat) : State :=
  match s.hotOf g l with
  | some (k, h) => s.setHot g k (some { h with taken := (if h.takenAt = s.now then h.taken else 0) + 1, takenAt := s.now })
  | none => s

/-- The slot goes to memory with its flags and the line to home state I (R203). -/
def State.endHot (s : State) (g p l : Nat) : State :=
  match s.hotOf g l with
  | none => s
  | some (k, h) =>
    let s := (s.setHot g k none).updEnt g l (fun e => { e with hot := none })
    ((s.pokes p (128 * l) h.bytes).setPoison p l h.poison).setLost p l h.lost

/-! ### Performing a request on a line -/

/-- Whether a line's page is lost (R246). -/
def State.pageLost (s : State) (p l : Nat) : Bool := decide (((s.part p).page (l / 2 ^ 21)).state = .lostPage)

/-- LD, PFLIST, ST, WrInv and LostClr on one line that no cache holds, or from memory beside shared copies. -/
def State.performLine (s : State) (g p : Nat) (w : Work) (l : Nat) : State × Work :=
  let k := w.msg.pkt
  match k.mtype.toNat with
  | 1 =>
    let a := w.msg.paddr
    let n := k.szm1 + 1
    let v := payload k.data a n
    let lo := max a (128 * l)
    let hi := min (a + n) (128 * (l + 1))
    (s.lineWrite g p l (lo - 128 * l) (bytesAt v (lo - a) (hi - lo)) (bits k.pmask (l - a / 128) 1 = 1), w)
  | 18 => (s.lineWrite g p l 0 (bytesAt (slotsBytes k.data) 0 128) k.pois, w)
  | 21 => (s.lineUnlost g p l, w)
  | _ =>
    if s.pageLost p l then (s, { w with got := w.got ++ [(l, List.replicate 128 0)], pois := w.pois ++ [l] })
    else (s, { w with got := w.got ++ [(l, s.lineBytes g p l)], pois := if s.lineBad g p l then w.pois ++ [l] else w.pois })

/-- The work of a Block by number. -/
def State.setWork (s : State) (g i : Nat) (w : Option Work) : State :=
  s.updBlk g (fun b => { b with works := tset b.works i w none })

/-- A line of a request can be performed: its snoops, if any, are answered (R194). `t` is its transaction. A page lost meanwhile leaves an LD
zero data with POISON and any other request NAK POISON, unless the owner has granted it (R246). -/
def State.lineDone (s : State) (g p i l : Nat) (t : Option Txn) : State :=
  let mode := (s.ent g l).mode
  let keep : DirMode := match t, mode with
    | some t, .own e _ => if t.keepS then .exact [e.toNat] else .none
    | _, _ => .none
  match tget (s.blk g).works i none with
  | none => if t.isSome then s.setMode g l keep else s
  | some w =>
    let m := w.msg
    let k := m.pkt.mtype.toNat
    let hot := s.hotOf g l
    let s := s.countServed g l
    if s.pageLost p l ∧ k ≠ tLD ∧ ¬(t.any (·.fwd)) then ((s.setWork g i none).setMode g l keep).refuse g m stPoison
    else if k = tAT then ((s.setWork g i none).setMode g l .none).atPerform g p m w.tick
    else if k = tRdShared then
      let s := s.setWork g i none
      match hot with
      | some _ => s.grant g p m rGrantNC l
      | none => match mode, t with
        | .own _ _, none => s.grant g p m rGrantE l
        | .own _ _, some t =>
          let s := s.setMode g l (keep.add m.pkt.seid.toNat)
          if t.fwd then s else s.grant g p m rGrantS l
        | .none, _ =>
          if (s.blk g).roots.contains l then (s.setMode g l (.exact [m.pkt.seid.toNat])).grant g p m rGrantS l
          else if t.isSome then (s.setMode g l (.exact [m.pkt.seid.toNat])).grant g p m rGrantS l
          else (s.setMode g l (.own m.pkt.seid m.pkt.sinc)).grant g p m rGrantE l
        | _, _ => (s.setMode g l (mode.add m.pkt.seid.toNat)).grant g p m rGrantS l
    else if k = tRdOwn then
      let s := s.setWork g i none
      match hot with
      | some (_, h) => s.reply g m rPinned stRetry [packSlot [(92, 128 * l), (16, h.pinEnd)]] []
      | none =>
        let s := s.setMode g l (.own m.pkt.seid m.pkt.sinc)
        if (match t with | some t => t.fwd | none => false) then s else s.grant g p m rGrantM l
    else
      let (s, w) := s.performLine g p w l
      let s := if k = tLD ∨ k = tPF then (if t.isSome then s.setMode g l keep else s) else s.setMode g l .none
      let w := { w with left := setDel w.left l }
      if w.left ≠ [] then s.setWork g i (some w)
      else
        let s := s.setWork g i none
        if k = tWrInv ∨ k = tLostClr then s.reply g m rWrDone stOk [cohx l false] []
        else s.finish g w

/-- Every snoop of a transaction is answered. -/
def State.settle (s : State) (g p l : Nat) : State :=
  match (s.ent g l).txn with
  | none => s
  | some t =>
    if t.waits ≠ [] then s
    else
      let s := match t.kind with
        | .serve i => (s.lineDone g p i l (some t)).updEnt g l (fun e => { e with txn := none })
        | .evictDir => s.setMode g l .none
        | .recalling _ => s.setMode g l .none
        | .toHot => match (s.ent g l).due with
          | some k => s.enterHot g p l k
          | none => s.setMode g l .none
        | .publish => s.updEnt g l (fun e => { e with mode := .none })
      s.startHot g p l

/-! ### Serving a request (R185, R187, R194) -/

/-- What becomes of a request that a home looks at: served or answered, set aside (`more`: an eviction was started for it), or not
taken yet. -/
inductive Took where
  | done (s : State)
  | aside (s : State) (more : Bool)
  | stay

/-- What a page says to a request of kind `k` on one of its lines (R223, R239, R240, R246). -/
inductive PageAns where
  | ok (s : State)
  | zero (s : State)
  | bad (s : State) (st : Status)

def State.pageAsk (s : State) (g p k : Nat) (r : LineRef) : PageAns :=
  let n := r.line / 2 ^ 21
  let pg := (s.part p).page n
  if pg.state ≠ .lostPage ∧ isWrite k ∧ (pg.sealed ∨ (s.blk g).roots.contains r.line) then .bad s stPerm
  else match pg.state with
  | .lostPage => if k = tLD then .zero s else .bad s stPoison
  | .unplaced =>
    let big := r.tier ≥ 4
    match s.placePage p (if big then n - n % 64 else n) (r.tier % 4) big with
    | some s => .ok (s.touchPage p n 1)
    | none => .bad (s.noCapacity p n) stNoTrans
  | _ => .ok (s.touchPage p n 1)

/-- A line that cannot be served now: BUSY, due to become hot, or hot with its tick's 500 served (R185, R194, R202). -/
def State.lineHeld (s : State) (g l : Nat) : Bool :=
  let e := s.ent g l
  e.txn.isSome || e.due.isSome || (match s.hotOf g l with | some (_, h) => 500 ≤ s.hotServed h | none => false)

/-- What settles a snoop that is never sent, its target no longer current: an owner other than the requester answered a RdShared with FWD 0,
FINAL I (R204). -/
def State.unsent (s : State) (g l i : Nat) (m : Msg) : Option Txn :=
  match (s.ent g l).mode with
  | .own e n =>
    if s.incOf e ≠ n ∧ e ≠ m.pkt.seid ∧ m.pkt.mtype.toNat = tRdShared then some { kind := .serve i, waits := [], fwd := false, keepS := false } else none
  | _ => none

/-- Starts a request on each of its lines; `none` when transaction space or a tag is lacking (R187). Log 123. -/
def State.startLines (s : State) (g p i : Nat) (m : Msg) : List Nat → Option State
  | [] => some s
  | l :: r =>
    let k := m.pkt.mtype.toNat
    let u := s.unsent g l i m
    let s := s.settleOwner g p l
    let (mt, ts, own) := s.needs g l k m.pkt.seid m.pkt.sinc
    if ts = [] then (s.lineDone g p i l u).startLines g p i m r
    else if 256 ≤ (s.blk g).txns then none
    else
      let fwd := if mt = tFwdRdS ∨ mt = tFwdRdO then some m.pkt else none
      match s.snoops g p l mt own fwd ts with
      | none => none
      | some (ns, s) =>
        (s.updEnt g l (fun e => { e with txn := some { kind := .serve i, waits := ns, fwd := false, keepS := false } })).startLines g p i m r

/-- Serves a request whose lines are free of earlier set-aside ones. `tn` is the tick in which it was taken. -/
def State.serve (s : State) (g p : Nat) (m : Msg) (tn : Nat) : Took :=
  let k := m.pkt.mtype.toNat
  let ls := m.linesAt g
  if ls.any (fun r => s.lineHeld g r.line) then .aside s false
  else
    let s0 := s
    let seen := fun (s : State) => ls.foldl (fun s r => s.countServed g r.line) s
    -- the pages of the lines
    let (s, w, bad) := ls.foldl (fun (a : State × Work × Option Status) r =>
      let (s, w, bad) := a
      match bad with
      | some _ => a
      | none => match s.pageAsk g p k r with
        | .ok s => (s, { w with left := w.left ++ [r.line] }, none)
        | .zero s => (s, { w with got := w.got ++ [(r.line, List.replicate 128 0)], pois := w.pois ++ [r.line] }, none)
        | .bad s st => if k = tPF ∧ st ≠ stPoison then (s, { w with fails := w.fails ++ [(r.line, st)] }, none) else (s, w, some st))
      (s, { msg := m, tick := tn, left := [], got := [], pois := [] }, none)
    match bad with
    | some st => .done ((seen s).refuse g m st)
    | none =>
      if w.left = [] then .done (s.finish g w)
      else
        let l := nth w.left 0
        let early := if k = tAT then (seen s).atEarly g m tn else none
        match early with
        | some s => .done s
        | none =>
          if (k = tRdShared ∨ k = tRdOwn) ∧ s.wayLess g l then
            -- it is served later: nothing is counted of it yet
            (match s0.evictWay g p l with | some s => .aside s true | none => .aside s0 false)
          else
            let i := (s.blk g).workNext
            let s := (s.updBlk g (fun b => { b with workNext := i + 1 })).setWork g i (some w)
            match s.startLines g p i m w.left with
            | none => .stay
            | some s => .done s

/-- Whether a request must wait behind set-aside ones for its lines (R185). -/
def behind (conf : List SetAside) (g : Nat) (m : Msg) : Bool :=
  let ls := (m.linesAt g).map (·.line)
  conf.any (fun c => (c.msg.linesAt g).any (fun r => ls.contains r.line))

/-- Whether a request must wait behind a PUBLISH of one of its lines that came before `ord` (R185, R238). -/
def State.pubBehind (s : State) (g : Nat) (m : Msg) (ord : Nat) : Bool :=
  (s.blk g).pubs.any (fun u => u.ord < ord && (m.linesAt g).any (fun r => r.line = u.root))

/-- WrBack and Evict, taken on arrival whatever the state of the line (R186, R194): a BUSY line keeps its word, so its recorded owner's data
is written, unless the line is being recalled with its data discarded, and a sharer that leaves is removed. A WrBack to a sealed page is refused
(R240), its line left as it is. Logs 68, 104. Log 138. -/
def State.writeBack (s : State) (g p : Nat) (m : Msg) : State :=
  let l := m.paddr / 128
  let k := m.pkt
  let e := s.ent g l
  let wb := k.mtype.toNat = tWrBack
  let ack := fun (s : State) => s.reply g m rWrDone stOk [cohx l false] []
  if s.pageLost p l then s.reply g m rNAK stPoison [] []
  else if wb ∧ ((s.part p).page (l / 2 ^ 21)).sealed then s.reply g m rNAK stPerm [] []
  else
    let s := s.touchPage p (l / 2 ^ 21) 1
    let stale := ack (s.updBlk g (fun b => { b with staleWb := satAdd b.staleWb 1 }))
    match e.mode with
    | .own x i =>
      if x = k.seid ∧ i = k.sinc then
        let drop := e.txn.any (fun t => t.kind = .recalling true)
        let s := if wb ∧ ¬drop then s.lineWrite g p l 0 (bytesAt (slotsBytes k.data) 0 128) k.pois else s
        ack (if e.txn.isSome then s else s.setMode g l .none)
      else stale
    | .exact sh =>
      if wb then stale
      else
        let rest := sh.filter (· ≠ k.seid.toNat)
        ack (s.updEnt g l (fun e => { e with mode := if rest = [] then .none else .exact rest }))
    | .coarse _ => if wb then stale else ack s
    | .none => stale

/-- Whether a Block is a line's home under the current map, or under the previous one while it drains (R177). -/
def Part.isHome (x : Part) (now g l : Nat) : Bool :=
  homeOf x.blocks l = g || (match x.oldBlocks, x.drainEnd with
    | some b, some e => decide (now < e) && homeOf b l = g
    | _, _ => false)

/-- The checks of a home before a request is taken: fencing, incarnation, killed job, homes still to arrive (R170, R177, R417). Log 59. -/
def State.homeGate (s : State) (g p : Nat) (m : Msg) : Option State :=
  let x := s.part p
  let k := m.pkt
  if x.state = .fenced then some (s.refuse g m stDead)
  else if k.sinc = 0 ∨ s.incOf k.seid ≠ k.sinc then
    let s := s.updBlk g (fun b => { b with staleReq := satAdd b.staleReq 1 })
    some (match m.asker with | .join j => { s with joins := tset s.joins j none none } | _ => s)
  else if x.killed then some ((s.updBlk g (fun b => { b with teardown := satAdd b.teardown 1 })).refuse g m stTeardown)
  else if (m.linesAt g).any (fun r => (tget x.arriving r.line none).isSome || !x.isHome s.now g r.line) then some (s.refuse g m stRetry)
  else none

/-- A home takes the request at the head of its TC2 queue when it is one of the kinds `want`: it is answered, served, or set aside;
otherwise it stays (R185 to R187). Log 69. -/
def State.homeTake (s : State) (g : Nat) (want : Nat → Bool) : State :=
  match s.takeHead (qOfBlk g) (nBlk g 2), s.partOfBlk g with
  | some (qp, t), some p =>
    let m := qp.msg
    let k := m.pkt.mtype.toNat
    if ¬want k then s
    else match t.homeGate g p m with
      | some t => t
      | none =>
        if k = tWrBack ∨ k = tEvict then t.writeBack g p m
        else
          let ls := (m.linesAt g).map (·.line)
          let t := if isOwning k then ls.foldl (fun t l => t.countTaken g l) t else t
          let aside := fun (t : State) =>
            if 1024 ≤ (t.blk g).conf.length then s
            else
              let t := t.updBlk g (fun b => { b with conf := b.conf ++ [{ msg := m, tick := s.now, ord := b.ordNext }], ordNext := b.ordNext + 1 })
              if isOwning k then ls.foldl (fun t l => t.countAside g p l) t else t
          if behind (t.blk g).conf g m ∨ t.pubBehind g m (t.blk g).ordNext then aside t
          else match t.serve g p m s.now with
            | .done t => t
            | .aside t _ => aside t
            | .stay => s
  | _, _ => s

/-- Serves the first set-aside request that can be served (R185); lines due to become hot are started first. -/
def State.serveAside (s : State) (g p : Nat) : List SetAside → List SetAside → State
  | _, [] => s
  | before, c :: rest =>
    if behind before g c.msg ∨ s.pubBehind g c.msg c.ord then s.serveAside g p (before ++ [c]) rest
    else
      let t := s.updBlk g (fun b => { b with conf := before ++ rest })
      match t.serve g p c.msg c.tick with
      | .done t => t
      | .aside t more => if more then t.updBlk g (fun b => { b with conf := before ++ c :: rest })
                         else s.serveAside g p (before ++ [c]) rest
      | .stay => s.serveAside g p (before ++ [c]) rest

/-! ### Answers to snoops (R191, R194, R204) -/

/-- Whether data that a snoop returns is written (R194): not when its line is recalled with its data discarded or its page is lost (R246), nor
on a sealed page once no PUBLISH walks it any more (R240, R241). Log 138. -/
def State.takesData (s : State) (g p l : Nat) (t : Txn) : Bool :=
  let n := l / 2 ^ 21
  let walked := (s.blk g).walks.any (fun w => match w with | .publish ks _ => ks.contains ((s.part p).pageKey n) | _ => false)
  t.kind ≠ .recalling true && !s.pageLost p l && (!((s.part p).page n).sealed || walked)

/-- A snoop of agent `x` is answered: with data or without, forwarded or not, the agent keeping S or not. The snoops of other agents that have
the same tag stay awaited. -/
def State.snoopDone (s : State) (g p l : Nat) (tag : Tag) (x : Eid) (fwd keepS : Bool) (data : Option (List Byte × Bool)) : State :=
  match (s.ent g l).txn with
  | none => s
  | some t =>
    let s := match data with
      | some (v, pois) => if s.takesData g p l t then s.lineReturn g p l v pois else s
      | none => s
    let t := { t with waits := t.waits.filter (fun w => !(w.tag = tag && w.eid = x)), fwd := t.fwd || fwd, keepS := t.keepS || keepS }
    (s.updEnt g l (fun e => { e with txn := some t })).settle g p l

/-- Settles every snoop of a Block that awaits an agent no longer current (R204). -/
def State.settleSnoops (s : State) (g p : Nat) : State :=
  (s.blk g).dir.foldl (fun s e =>
    match e.2.txn with
    | none => s
    | some t => t.waits.foldl (fun s w =>
        if w.inc = s.incOf w.eid then s
        else
          let s := s.tagDrop w.tag w.eid
          let s := if w.asOwner then s.markLost g p e.1 w.eid w.inc else s
          s.snoopDone g p e.1 w.tag w.eid false false none) s) s

/-- The TC3 message at the head of a Block's queue, when it is of type `mt` (R186). -/
def State.takeTc3 (s : State) (g mt : Nat) : Option (Msg × State) :=
  match s.takeHead (qOfBlk g) (nBlk g 3) with
  | some (qp, t) => if qp.msg.pkt.mtype.toNat = mt then some (qp.msg, t) else none
  | none => none

/-- A response that matches nothing outstanding (R163). Log 76. -/
def State.lateRsp (s : State) (tag : Tag) : State :=
  s.updBlk (s.tagLast tag) (fun b => { b with lateRsp := satAdd b.lateRsp 1 })

/-- SnpResp and SnpRespD at a home. Log 69. -/
def State.snoopAnswer (s : State) (g mt : Nat) : State :=
  match s.takeTc3 g mt with
  | none => s
  | some (m, t) =>
    let k := m.pkt
    match t.tagHolder k.tag k.seid, t.partOfBlk g with
    | some (.snoop h l), some p =>
      let known := h = g && (match (t.ent g l).txn with
        | some x => x.waits.any (fun w => w.tag = k.tag && w.eid = k.seid)
        | none => false)
      if ¬known then t.lateRsp k.tag
      else
        let x := k.memx
        let data := if mt = rSnpRespD then some (bytesAt (slotsBytes k.data) 0 128, k.pois) else none
        (t.tagDrop k.tag k.seid).snoopDone g p l k.tag k.seid (bits x 55 1 = 1) (bits x 56 2 = 1) data
    | _, _ => t.lateRsp k.tag

end Sys2Proof.Machine
end

