-- ==== Sys2Proof/Machine/Check.lean ====
section
/-! DEFINITION. The checks a request meets and where it is performed: legal forms, segments, page table, generation, homes (01 R27, R28;
06 R153, R157, R167 to R169, R175, R177, R509; 08 R217, R221). -/

namespace Sys2Proof.Machine

/-! ### Legal forms -/

/-- Bytes that a request is checked for (R153, R217). -/
def Pkt.reqSize (p : Pkt) : Nat :=
  match p.mtype.toNat with
  | 0 => p.szm1 + 1
  | 1 => p.szm1 + 1
  | 2 => atWidth p.atype
  | _ => 128

/-- A legal size at an address (R153). -/
def legalSpan (a n : Nat) : Bool :=
  ((n = 1 || n = 2 || n = 4 || n = 8) && a % n = 0 || (n % 16 = 0 && n ≤ 4096 && 0 < n && a % 16 = 0)) && a % 4096 + n ≤ 4096

/-- The first legal request of a run of `n` bytes from address `a`, `n` not 0: whole 16 B runs inside a 4 KiB page where they fit, else the
largest aligned power of two (R153). -/
def nextPiece (a n : Nat) : Nat :=
  if a % 16 = 0 ∧ 16 ≤ n then min (n / 16 * 16) (4096 - a % 4096)
  else if a % 8 = 0 ∧ 8 ≤ n then 8
  else if a % 4 = 0 ∧ 4 ≤ n then 4
  else if a % 2 = 0 ∧ 2 ≤ n then 2
  else 1

/-- Payload slots of a request (R150, R189). -/
def Pkt.reqLen (p : Pkt) : Nat :=
  match p.mtype.toNat with
  | 0 => 0
  | 1 => cdiv (p.szm1 + 1) 16
  | 2 => if p.aop = 3 ∧ p.atype = 6 then 2 else 1
  | 3 => cdiv (p.szm1 + 1) 2
  | 18 => 8
  | 19 => 8
  | _ => 0

/-- The addresses of a PFLIST (R154). -/
def Pkt.listAddrs (p : Pkt) : List Nat := (halves p.data).take (p.szm1 + 1)

/-- Whether a TC2 packet has a legal encoding (R150, R152, R153, R157, R189, R192). `edge`: it comes from an endpoint port or an
engine, which name context addresses. Of the bytes that R154 and R158 say are zero, those beside the addresses of a list are checked, the
padding of ST and AT data is not looked at (DESIGN CHOICE: whether a receiver checks it is not said). Log 137. -/
def Pkt.legalReq (p : Pkt) (edge : Bool) : Bool :=
  let k := p.mtype.toNat
  let x := p.memx
  let f := fun lo n => bits x lo n
  let known := k ≤ 3 || (16 ≤ k && k ≤ 21)
  let ctx := if p.pa then !edge else f 48 4 = 0 || k = 3
  let size := p.szm1 + 1
  known && p.xslots = 1 && p.len.toNat = p.reqLen && ctx
    && (if k = 0 then f 53 3 = 0 && f 68 60 = 0 && legalSpan p.addr size
        else if k = 1 then f 53 3 = 0 && f 68 24 = 0 && f 124 4 = 0 && legalSpan p.addr size
        else if k = 2 then f 53 3 = 0 && f 56 12 = 0 && f 92 36 = 0 && p.aop ≤ 3 && p.atype ≤ 6 && (p.atype ≠ 6 || p.aop = 3)
          && p.addr % atWidth p.atype = 0
        else if k = 3 then f 53 3 = 0 && f 68 60 = 0 && p.addr = 0 && size ≤ 32
          && (halves p.data).all (fun a => a % 128 = 0 && a < 2 ^ 52 && (p.pa || a < 2 ^ 48))
          && ((halves p.data).drop size).all (fun a => a = 0)
        else f 54 74 = 0 && (f 53 1 = 0 || k = 18 || k = 19) && p.addr % 128 = 0)

/-- Permissions that a request needs: read, write (R168, R189). -/
def reqPerm (k : Nat) : Bool × Bool :=
  if k = tAT ∨ k = tRdOwn then (true, true)
  else if k = tST ∨ k = tWrInv ∨ k = tWrBack ∨ k = tLostClr then (false, true) else (true, false)

/-! ### Reading the page table (R221, R222) -/

/-- A request of Block `g` has had no answer after TOUT: counted in TIMEOUT, and TARGET_TIMEOUT at most once per tick for each job and DEID
(R180). Log 78. -/
def State.timedOut (s : State) (g p : Nat) (k : Pkt) (c : Option Nat) : State :=
  let s := s.updBlk g (fun b => { b with timeout := satAdd b.timeout 1 })
  if tget (s.part p).toutEvt k.deid.toNat 0 = s.now + 1 then s
  else
    let e := ({ code := 0x18, unit := uBlk g, eid := k.deid, inc := s.incOf k.deid, d0 := k.tag.zeroExtend 64 } : Event).inPart p (s.part p)
    (s.updPart p (fun x => { x with toutEvt := tset x.toutEvt k.deid.toNat (s.now + 1) 0 })).raise (match c with | some c => e.inCtx c | none => e)

/-- A line whose home differs between the maps while homes move (R177). -/
def Part.moves (x : Part) (now l : Nat) : Bool :=
  match x.oldBlocks, x.drainEnd with
  | some b, some e => now < e && x.moveh && homeOf b l ≠ homeOf x.blocks l
  | _, _ => false

/-- The home Block of a line of partition `p` under its current Blocks. Log 59. -/
def State.homeNow (s : State) (p l : Nat) : Nat := homeOf (s.part p).blocks l

/-- The bytes of an entry whose table is on this device, when its line needs no recall and its home is not on the move (R177): data, and
whether it is poisoned. -/
def State.pteHere (s : State) (p n : Nat) : Option (List Byte × Bool) :=
  let a := (s.part p).ptpn.toNat * pgShift + 8 * n
  let l := a / 128
  let g := s.homeNow p l
  let e := s.ent g l
  let owned := match e.mode with | .own _ _ => true | _ => false
  if owned || e.txn.isSome || (s.part p).moves s.now l || (tget (s.part p).arriving l none).isSome then none
  else if ((s.part p).page (a / pgShift)).state = .lostPage then some (List.replicate 8 0, true)
  else some (bytesAt (s.lineBytes g p l) (a % 128) 8, s.lineBad g p l)

/-- Sends the read of an entry for the cache key `n`: through its home here, not while that moves (R177), or to PTDEV. Log 78. -/
def State.pteSend (s : State) (p n : Nat) : State :=
  let x := s.part p
  let a := x.ptpn.toNat * pgShift + 8 * keyPage n
  let pkt : Pkt := { tc := 2, mtype := 0, deid := x.ptdev, seid := s.selfEid, sinc := s.selfInc, job := x.job, gen := x.gen, xslots := 1,
                     x := [packSlot [(52, a), (1, 1), (3, 0), (12, 7)]] }
  let g := s.lowBlk p
  if x.ptdev = s.selfEid then
    let h := s.homeNow p (a / 128)
    let m : Msg := { pkt := pkt, asker := .pte p n, part := p, paddr := a, lines := [{ line := a / 128, home := h }], stamp := s.now }
    if x.moves s.now (a / 128) then s else
    match s.offer (qOfBlk g) (g % 2 = 0) m { outs := [qBlk h 2] } with
    | some s => s.updPart p (fun x => { x with pteAsk := tset x.pteAsk n (some (s.now, s.now, 0)) none })
    | none => s
  else
    match s.tagTake g x.ptdev (.pte p n) with
    | none => s
    | some (tag, s) =>
      (s.updPart p (fun x => { x with pteAsk := tset x.pteAsk n (some (s.now, s.now, tag)) none })).sendBlk g
        { pkt := { pkt with tag := tag }, part := p }

/-- Reads an entry for the cache key `n`, or sees to it that it is being read: resent every RTO ticks, given up after TOUT (R167, R180). Log 78. -/
def State.pteRead (s : State) (p n : Nat) : State :=
  let x := s.part p
  let here := if x.ptdev = s.selfEid then s.pteHere p (keyPage n) else none
  match here with
  | some (v, bad) => (s.touchPage p x.ptpn.toNat 1).pteTake p n (pteOf (leNat v)) (if bad then stPoison else stOk)
  | none => match tget x.pteAsk n none with
    | none => s.pteSend p n
    | some (first, last, tag) =>
      if x.ptdev = s.selfEid then s
      else if endOf first x.tout.toNat ≤ s.now then
        let s := s.timedOut (s.lowBlk p) p { deid := x.ptdev, tag := tag } none
        (s.tagSet tag x.ptdev (.held (endOf s.now 512))).pteTake p n {} stDead
      else if last + x.rto.toNat ≤ s.now then
        let a := x.ptpn.toNat * pgShift + 8 * keyPage n
        let pkt : Pkt := { tc := 2, mtype := 0, deid := x.ptdev, seid := s.selfEid, sinc := s.selfInc, job := x.job, gen := x.gen,
                           tag := tag, xslots := 1, x := [packSlot [(52, a), (1, 1), (3, 0), (12, 7)]] }
        (s.updPart p (fun x => { x with pteAsk := tset x.pteAsk n (some (first, s.now, tag)) none })).sendBlk (s.lowBlk p)
          { pkt := pkt, part := p }
      else s

/-- Translation by unit `u` with the reads it needs: at most the entry and the first entry of its page. -/
def State.translate (s : State) (p u n : Nat) : State × XRes :=
  match s.xlate p u n with
  | .read k =>
    let s := s.pteRead p (xKey u k)
    match s.xlate p u n with
    | .read k =>
      let s := s.pteRead p (xKey u k)
      (s, s.xlate p u n)
    | r => (s, r)
  | r => (s, r)

/-! ### Checking an address -/

/-- An address checked: a status, a wait for the page table, or pool address, tier of first placement and home device. -/
inductive Chk where
  | bad (st : Status)
  | wait
  | ok (a tier : Nat) (dev : Eid)
deriving DecidableEq, Repr

/-- Checks 2 and 3 of R27 on `n` bytes by unit `u`; a pool address (`segs` none) meets only the page table (R169). Log 83. -/
def State.checkAddr (s : State) (p u : Nat) (segs : Option (List Segment)) (a n : Nat) (rd wr : Bool) : State × Chk :=
  let seg : Except Status Nat := match segs with
    | some l => segCheck l a n rd wr
    | none => .ok a
  match seg with
  | .error st => (s, .bad st)
  | .ok a =>
    let (s, r) := s.translate p u (a / pgShift)
    match r with
    | .read _ => (s, .wait)
    | .bad st => (s.xlateUsed p u (a / pgShift), .bad st)
    | .ok e =>
      let s := s.xlateUsed p u (a / pgShift)
      if (rd && !e.rd) || (wr && !e.wr) then (s, .bad stPerm) else (s, .ok a (e.tier.toNat + 4 * b1 e.ps) e.dev)

/-- Sees to the page-table reads of a list of addresses before any answer is used up: whether one must be waited for. Log 83. -/
def State.askAddrs (s : State) (p u : Nat) (segs : Option (List Segment)) (rd wr : Bool) : List Nat → State × Bool
  | [] => (s, false)
  | a :: r =>
    let seg : Except Status Nat := match segs with
      | some l => segCheck l a 128 rd wr
      | none => .ok a
    match seg with
    | .error _ => s.askAddrs p u segs rd wr r
    | .ok a =>
      let (s, x) := s.translate p u (a / pgShift)
      let (s, w) := s.askAddrs p u segs rd wr r
      (s, w || (match x with | .read _ => true | _ => false))

/-! ### Generation and homes (R28, R175, R177) -/

/-- Where a checked request goes. -/
inductive Fwd where
  | nak (st : Status)
  | wait
  | home (m : Msg)
  | list (m : Msg) (order : List Nat) (fails : Tbl Status)
  | remote (m : Msg)
  | proxy (m : Msg) (order : List Nat) (fails : Tbl Status)
deriving DecidableEq, Repr

/-- The Blocks that a generation's map spreads homes over. -/
def Part.maskOf (x : Part) (cur : Bool) : BitVec 64 := if cur then x.blocks else x.oldBlocks.getD x.blocks

/-- The lines of a span of pool addresses, with their homes. -/
def spanLines (blocks : BitVec 64) (a n tier : Nat) : List LineRef :=
  (List.range ((a + n - 1) / 128 - a / 128 + 1)).map (fun i =>
    let l := a / 128 + i
    { line := l, home := homeOf blocks l, tier := tier })

/-- The generation check of R175 on a request, and for one homed here (`here`) that of R177; the lines with their homes under its map. -/
def State.byGen (s : State) (p : Nat) (gen : Gen) (here : Bool) (mk : BitVec 64 → List LineRef) : Except Status (List LineRef) :=
  let x := s.part p
  match s.genOf p gen with
  | .bad st => .error st
  | .cur => let ls := mk x.blocks
            if here && ls.any (fun r => x.moves s.now r.line) then .error stRetry else .ok ls
  | .prev => .ok (mk (x.maskOf false))

/-- Checks 2 and 3 by unit `u` and the forwarding decision of one request of a partition's job (R27, R169, R175, R509). Log 59. -/
def State.forward (s : State) (p u : Nat) (m : Msg) (segs : Option (List Segment)) : State × Fwd :=
  let k := m.pkt
  let (rd, wr) := reqPerm k.mtype.toNat
  let m := { m with part := p }
  if k.mtype.toNat ≠ tPF then
    let (s, c) := s.checkAddr p u segs k.addr k.reqSize rd wr
    match c with
    | .bad st => (s, .nak st)
    | .wait => (s, .wait)
    | .ok a tier dev =>
      match s.byGen p k.gen (dev = s.selfEid) (fun b => spanLines b a k.reqSize tier) with
      | .error st => (s, .nak st)
      | .ok ls =>
        if dev = s.selfEid then (s, .home { m with paddr := a, lines := ls })
        else if segs.isNone then (s, .nak stNoTrans)
        else
          let x := BitVec.ofNat 128 (k.memx - k.memx % 2 ^ 53 + a + 2 ^ 52)
          (s, .remote { m with pkt := { k with deid := dev, x := [x] }, paddr := a })
  else
    let (s, w) := s.askAddrs p u segs rd wr k.listAddrs
    let (s, cs) := if w then (s, []) else k.listAddrs.foldl (fun (a : State × List Chk) x =>
      let (s, c) := a.1.checkAddr p u segs x 128 rd wr
      (s, a.2 ++ [c])) (s, [])
    if w ∨ cs.any (· = .wait) then (s, .wait)
    else
      let dev := (cs.findSome? (fun c => match c with | .ok _ _ d => some d | _ => none)).getD s.selfEid
      let here := dev = s.selfEid
      let pass := fun (c : Chk) => match c with
        | .ok a t d => if d = dev ∧ (here ∨ segs.isSome) then Except.ok (a, t) else Except.error stNoTrans
        | .bad st => Except.error st
        | .wait => Except.error stNoTrans
      let ps := cs.map pass
      let order := ps.map (fun c => match c with | .ok (a, _) => a / 128 | .error _ => 0)
      let fails : Tbl Status := ((List.range ps.length).zip ps).filterMap (fun c => match c.2 with | .error st => some (c.1, st) | .ok _ => none)
      let ok := ps.filterMap (fun c => match c with | .ok x => some x | .error _ => none)
      match s.byGen p k.gen here (fun b => ok.map (fun x => { line := x.1 / 128, home := homeOf b (x.1 / 128), tier := x.2 })) with
      | .error st => (s, .nak st)
      | .ok ls =>
        let m := { m with lines := ls }
        if here then (s, if fails = [] then .home m else .list m order fails)
        else
          let n := ok.length
          let addrs := ok.map (·.1)
          let x := packSlot [(52, 0), (1, 1), (3, 0), (12, n - 1)]
          let data := (List.range (cdiv n 2)).map (fun i => packSlot [(64, nth addrs (2 * i)), (64, nth addrs (2 * i + 1))])
          let m := { m with pkt := { k with deid := dev, x := [x], data := data, len := BitVec.ofNat 9 data.length } }
          (s, if fails = [] then .remote m else .proxy m order fails)

/-! ### Sending a checked request on its way -/

/-- The homes of a request, without repeats. -/
def Msg.homes (m : Msg) : List Nat := (m.lines.map (·.home)).eraseDups

/-- A join of `n` parts whose answer goes to the asker of `m`. Log 107. -/
def State.newJoin (s : State) (m : Msg) (n : Nat) (order : List Nat) (fails : Tbl Status) : Nat × State :=
  let j := s.joinNext
  let x : Join := { msg := m, left := n, order := order, got := [], pois := [], bad := none, fails := fails, since := s.now }
  (j, { s with joinNext := j + 1, joins := tset s.joins j (some x) none })

/-- Offers a request to its homes in this device; one with several homes goes as parts joined by number (R185). `none`: refused. -/
def State.toHomes (s : State) (q : Nat) (even : Bool) (m : Msg) (order : List Nat) (fails : Tbl Status) : Option State :=
  let hs := m.homes
  let outs := hs.map (fun g => qBlk g 2)
  if hs.length = 1 ∧ fails = [] then s.offer q even m { outs := outs }
  else
    let (j, s) := s.newJoin m hs.length order fails
    s.offer q even { m with asker := .join j } { outs := outs }

/-- A PFLIST that leaves for another device without its failed addresses, under a tag of this device (R169, R509). Logs 77, 79. -/
def State.toProxy (s : State) (q : Nat) (even : Bool) (m : Msg) (order : List Nat) (fails : Tbl Status) : Option State :=
  let g := s.lowBlk m.part
  let (j, s) := s.newJoin m 1 order fails
  match s.tagTake g m.pkt.deid (.join j) with
  | none => none
  | some (tag, s) =>
    let pkt := { m.pkt with seid := s.selfEid, sinc := s.selfInc, tag := tag }
    s.offer q even { m with pkt := pkt } (s.route q pkt)

end Sys2Proof.Machine
end

