-- ==== Sys2Proof/Machine/Ingress.lean ====
section
/-! DEFINITION. From landing to an output queue: encodings, incarnations, policers, checks, resequencing, retries (00 R14; 03 R80, R81; 04
R92 to R98, R106, R112 to R114; 05 R131 to R140; 06 R168 to R179). -/

namespace Sys2Proof.Machine

/-! ### Encodings (R14, R87, R92) -/

/-- Reserved bits of a COHX slot, and those that only some messages use. DESIGN CHOICE (log 128): a field that R192 gives to other messages
(ASOWNER, FWD, FINAL, REID, RINC, RTAG, ENDT) counts as reserved where it is not used. -/
def cohxClean (x : Nat) (fwd fin req endt own : Bool) : Bool :=
  bits x 52 1 = 0 && (own || bits x 54 1 = 0) && (fwd || bits x 55 1 = 0) && (if fin then bits x 56 2 ≤ 1 else bits x 56 2 = 0)
    && bits x 58 2 = 0 && (req || bits x 60 32 = 0) && (endt || bits x 92 16 = 0) && bits x 108 20 = 0

/-- Whether a packet of a class has a legal encoding. Log 128. -/
def Pkt.legal (p : Pkt) (edge : Bool) : Bool :=
  let k := p.mtype.toNat
  let n := p.len.toNat
  let x := p.memx
  let shape := fun (a b : Nat) => p.xslots.toNat = a && n = b
  p.rsv = 0 && (match p.tc.toNat with
    | 0 => n ≤ 64 && p.xslots = 0 && (match k with
        | 0 => 1 ≤ n
        | 1 => n = 1
        | 2 => n = 1 && sbits ((p.data[0]?).getD 0) 10 6 = 0 && sbits ((p.data[0]?).getD 0) 64 64 = 0
        | 3 => n = 1
        | 4 => n = 4
        | 5 => n = 0
        | _ => false)
    | 1 => k ≤ 4 && shape 1 0 && cohxClean x false false (k = 1 || k = 2) false true && bits x 53 1 = 0
    | 2 => n ≤ 256 && p.legalReq edge
    | 3 => p.status.toNat ≤ 0x11 && (match k with
        | 0 => shape 0 0
        | 1 => shape (if p.status = stPoison then 1 else 0) n && 1 ≤ n && n ≤ 256
        | 2 => shape 0 0
        | 3 => shape 0 1
        | 4 => shape 1 n && n % 8 = 0 && 8 ≤ n && n ≤ 256
        | 16 | 17 | 18 | 23 => shape 1 8 && cohxClean x false false false false false
        | 19 => shape 1 0 && cohxClean x false false false false false
        | 20 => shape 1 0 && cohxClean x true true false false false
        | 21 => shape 1 8 && cohxClean x true true false false false
        | 22 => shape 1 0 && cohxClean x false false false true false
        | _ => false)
    | 4 => k ≤ 4 && n ≤ 256 && p.xslots = 1 && bits x 127 1 = 0 && bits x 77 5 ≤ 0x11 && (k = 4 || bits x 77 5 = 0)
        && (k = 1 || bits x 114 13 = 0) && (k ≤ 1 || bits x 64 12 = 0)
    | 7 => false
    | _ => k ≤ 1 && n ≤ 256 && p.xslots = 1 && bits x 58 6 = 0 && bits x 109 19 = 0 && (k ≠ 1 || n = 0))

/-! ### Discards at a port -/

/-- Drops a landed packet: its credits go back. -/
def State.dropLanded (s : State) (m : Msg) (f : Port → Port) : State := (s.updPort m.lane f).creditBack m

/-- A drop for a stale or absent incarnation: counted, a notice due, and STALE_SOURCE at most once per 1,000 ticks (R80, R81). -/
def State.staleDrop (s : State) (l : Nat) (seid : Eid) : State :=
  let s := s.updPort l (fun p => { p with stale := satAdd p.stale 1, staleSince := p.staleSince + 1, lastStale := seid,
                                          noticeDue := p.noticeDue || p.noticeTick ≠ some s.now })
  let p := s.port l
  let quiet : Bool := match p.staleEvt with | some t => s.now < endOf t 1000 | none => false
  if quiet then s
  else
    let s := s.updPort l (fun p => { p with staleEvt := some s.now, staleSince := 0 })
    s.raise { code := 0x03, unit := uPort l, d0 := BitVec.ofNat 64 p.staleSince }

/-- Whether the source of a packet is current (R80). A TC3 response copies SINC from its request (R155), so there the incarnation of the
destination is accepted too. Log 97. -/
def State.sourceOk (s : State) (p : Pkt) : Bool :=
  let i := s.incOf p.seid
  i ≠ 0 && (i = p.sinc || (p.tc = 3 && s.incOf p.deid = p.sinc))

/-! ### Policers (R131 to R139) -/

/-- Payload slots of the response that a request calls for (R133). -/
def Pkt.answerSlots (p : Pkt) : Nat :=
  match p.mtype.toNat with
  | 0 => cdiv (p.szm1 + 1) 16
  | 2 => 1
  | 3 => 8 * (p.szm1 + 1)
  | 16 => 8
  | 17 => 8
  | _ => 0

/-- The charge of a packet (R133, R140). -/
def Port.charge (p : Port) (k : Pkt) : Nat := k.slots + (if k.tc = 2 ∧ p.role = 1 then k.answerSlots else 0)

/-- Judges a packet at its policer: whether it passes (R133). A disabled policer passes all. Log 98. -/
def State.police (s : State) (l : Nat) (k : Pkt) : Bool × State :=
  let p := s.port l
  let t := k.tc.toNat
  let b := tget p.pol t {}
  if b.prate = 0 ∨ ¬(t = 0 ∨ t = 2 ∨ t = 5 ∨ t = 6) then (true, s)
  else
    let c := p.charge k
    if c ≤ b.bucket then (true, s.updPort l (fun p => { p with pol := tset p.pol t { b with bucket := b.bucket - c } {} }))
    else
      let tell : Bool := match b.evt with | some e => endOf e 1000 ≤ s.now | none => true
      let b := { b with polcnt := satAdd b.polcnt 1, evt := if tell then some s.now else b.evt }
      let s := s.updPort l (fun p => { p with pol := tset p.pol t b {} })
      (false, if tell then s.raise { code := 0x12, unit := uPort l, d0 := BitVec.ofNat 64 t } else s)

/-- What a port finds of a packet as its header slot is accepted (R132): its source, on an endpoint port its binding, then its policer. A
charge that counts the answer is made once the extension slot that gives its size is there. Log 98. Log 97. -/
def State.verdict (s : State) (l : Nat) (k : Pkt) : Nat × State :=
  let p := s.port l
  if ¬s.sourceOk k then (3, s)
  else if p.role = 1 ∧ k.seid ≠ p.peerEid then (4, s)
  else
    let (pass, s) := s.police l k
    (if pass then 1 else 2, s)

/-- The single-slot answer to a request that was not performed (R136, R155). Log 98. -/
def State.nakOf (s : State) (p : Pkt) (st : Status) (load : BitVec 4) : Pkt :=
  { tc := 3, mtype := 0, deid := p.seid, seid := s.selfEid, sinc := p.sinc, job := p.job, gen := p.gen, tag := p.tag, status := st, load := load }

/-- The completion of a control instruction as a packet: CTLDONE copies TAG (R375); its source is this device (R87). -/
def State.ctlDone (s : State) (p : Pkt) (mt : BitVec 5) (rec : Slot) : Pkt :=
  { tc := 0, mtype := mt, deid := p.seid, seid := s.selfEid, sinc := s.selfInc, job := p.job, gen := p.gen, tag := p.tag, len := 1, data := [rec] }

/-- What a policed packet leaves: its answer, or nothing (R135, R369). -/
def State.policed (s : State) (m : Msg) : Option Msg :=
  let p := m.pkt
  let ins := (p.data[0]?).getD 0
  if p.tc = 2 then some { m with pkt := s.nakOf p stPoliced 15, ingress := 2 }
  else if p.tc = 0 ∧ p.mtype = 0 then
    some { m with pkt := s.ctlDone p 1 (packSlot [(8, 2), (8, sbits ins 120 8), (8, sbits ins 104 8)]), ingress := 3 }
  else if p.tc = 0 ∧ p.mtype = 2 then
    some { m with pkt := s.ctlDone p 3 (packSlot [(16, 2), (16, 0xFFFF), (10, sbits ins 0 10), (22, 0), (64, s.now)]), ingress := 3 }
  else none

/-! ### Landing rings -/

/-- The ring of a class. -/
def State.ring (s : State) (l k : Nat) : List Msg := tget (s.port l).landing k []
def State.setRing (s : State) (l k : Nat) (r : List Msg) : State := s.updPort l (fun p => { p with landing := tset p.landing k r [] })
/-- Replaces the packet at position `i` of a ring, or removes it. -/
def State.putRing (s : State) (l k i : Nat) (m : Option Msg) : State :=
  let r := s.ring l k
  s.setRing l k (r.take i ++ (match m with | some m => [m] | none => []) ++ r.drop (i + 1))

/-- The parity of a port's cage group (R108). -/
def evenLane (l : Nat) : Bool := l / 8 % 2 = 0

/-! ### Checks of R27 on a landed request -/

/-- Check 1 on a request: the partition to translate in, or an answer (R168, R169, R179, R417). -/
def State.checkBinding (s : State) (l : Nat) (k : Pkt) : State × Except Status (Nat × Option (List Segment)) :=
  let p := s.port l
  let edge := p.role = 1
  if s.incOf k.deid = 0 then (s, .error stDead)
  else if edge ∧ (p.job = 0 ∨ p.job ≠ k.job) then (s, .error stPerm)
  else if edge ∧ p.killed then (s, .error stTeardown)
  else match s.partOfJob k.job with
    | none =>
      if edge then (s, .error stNoTrans)
      else if k.pa then (s.pteInvalid k.job ((if k.mtype.toNat = tPF then nth k.listAddrs 0 else k.addr) / pgShift), .error stNoTrans)
      else (s, .error stPerm)
    | some i =>
      let x := s.part i
      if x.state = .fenced then (s, .error stDead)
      else if x.killed then (s, .error stTeardown)
      else if edge then (s, .ok (i, some p.segs))
      else if k.pa then (s, .ok (i, none))
      else (s, .error stPerm)

/-! ### Admission of the packet at the head of a ring -/

/-- An offer made: admitted with the state after, or refused with the outputs it waits for. -/
inductive Offer where
  | gone (s : State)
  | stay (s : State) (outs : List (Nat × Nat))

def offerOf (a : Option State) (s : State) (outs : List (Nat × Nat)) : Offer :=
  match a with
  | some t => .gone t
  | none => .stay s outs

/-- Offers a landed packet by its route. -/
def State.offerLanded (s : State) (l : Nat) (m : Msg) : Offer :=
  let q := qOfLane l
  let r := if m.ingress = 2 then { outs := [qPort l 3] } else s.route q m.pkt
  offerOf (s.offer q (evenLane l) m r) s r.outs

/-- Offers a landed packet that is no request: while some copies of it wait, the others leave (R102, R103). Log 67. -/
def State.offerCopies (s : State) (l : Nat) (m : Msg) : Offer × Option Msg :=
  match s.offerLanded l m with
  | .gone t => (.gone t, none)
  | .stay t outs =>
    let (t, m) := if m.ingress = 2 then (t, m) else t.offerSome (qOfLane l) (evenLane l) m (s.route (qOfLane l) m.pkt)
    (.stay t outs, some m)

/-- Offers a landed request after its checks; an answer takes its place (R168 to R179). -/
def State.offerRequest (s : State) (l : Nat) (m : Msg) : Offer × Option Msg :=
  let q := qOfLane l
  let ev := evenLane l
  let nak := fun (s : State) (st : Status) =>
    let m := { m with pkt := s.nakOf m.pkt st 0, ingress := 3 }
    (s.offerLanded l m, some m)
  let k := m.pkt
  -- a request passing through this device
  if (s.port l).role = 2 ∧ k.deid ≠ s.selfEid ∧ s.incOf k.deid ≠ 0 then
    match s.partOfJob k.job with
    | some i => match s.genOf i k.gen with
      | .bad st => nak s st
      | _ => (s.offerLanded l m, none)
    | none => (s.offerLanded l m, none)
  else
    match s.checkBinding l k with
    | (s, .error st) => nak s st
    | (s, .ok (i, segs)) =>
      match s.forward i (portUnit l) m segs with
      | (s, .nak st) => nak s st
      | (s, .wait) => (.stay s [], none)
      | (s, .home m) => (offerOf (s.toHomes q ev m (m.lines.map (·.line)) []) s (m.homes.map (fun g => qBlk g 2)), none)
      | (s, .list m order fails) =>
        if m.lines = [] then
          let st := match fails with | (_, f) :: _ => f | [] => stOk
          let n := order.length
          let pkt := { s.nakOf k st 0 with mtype := 4, xslots := 1, x := [BitVec.ofNat 128 (2 ^ n - 1)],
                                           data := List.replicate (8 * n) 0, len := BitVec.ofNat 9 (8 * n) }
          let m := { m with pkt := pkt, ingress := 3 }
          (s.offerLanded l m, some m)
        else (offerOf (s.toHomes q ev m order fails) s (m.homes.map (fun g => qBlk g 2)), none)
      | (s, .remote m) =>
        if s.incOf m.pkt.deid = 0 then nak s stDead
        else if k.mtype.toNat = tPF then (offerOf (s.toProxy q ev m (m.lines.map (·.line)) []) s (s.route q m.pkt).outs, none)
        else (s.offerLanded l m, none)
      | (s, .proxy m order fails) =>
        if s.incOf m.pkt.deid = 0 then nak s stDead
        else (offerOf (s.toProxy q ev m order fails) s (s.route q m.pkt).outs, none)

/-! ### Resequencers (R112 to R114) -/

/-- The trunk that a lane is a member of. -/
def State.trunkOfLane (s : State) (l : Nat) : Option Nat :=
  (s.trunks.find? (fun e => e.2.members.contains l)).map (·.1)

/-- How far PSEQ `p` is ahead of `e`. -/
def ahead (e p : BitVec 16) : Nat := (p - e).toNat

/-- The sprayed heads of the members of a trunk in a class that wait to be admitted. -/
def State.sprayHeads (s : State) (t k : Nat) : List (Nat × BitVec 16) :=
  (s.trunk t).members.filterMap (fun l => match s.ring l k with
    | m :: _ => if m.ingress ≤ 1 && m.verd = 1 && m.pkt.spray then some (l, m.pkt.pseq) else none
    | [] => none)

/-- E moves to the nearest PSEQ ahead: the packets between are counted and TRUNK_GAP is raised at most once per tick (R114). -/
def State.declareGap (s : State) (t k : Nat) : State :=
  let x := s.trunk t
  let e := tget x.exp k 0
  let ds := ((s.sprayHeads t k).map (fun h => ahead e h.2)).filter (fun d => 1 ≤ d && d ≤ 32767)
  match ds with
  | [] => s
  | a :: r =>
    let d := r.foldl min a
    let s := s.updTrunk t (fun x => { x with exp := tset x.exp k (e + BitVec.ofNat 16 d) 0, gap := tdel x.gap k })
    let s := s.updQtr (qOfLane (nth x.members 0)) (fun z => { z with rsGap := satAdd z.rsGap d })
    if x.gapEvt = some s.now then s
    else (s.updTrunk t (fun x => { x with gapEvt := some s.now })).raise
      { code := 0x11, unit := uTrunk t, d0 := BitVec.ofNat 64 k, d1 := BitVec.ofNat 64 d }

/-- Starts, stops or ends the gap wait of a class after its heads changed (R114). -/
def State.checkGap (s : State) (t k : Nat) : State :=
  let x := s.trunk t
  let e := tget x.exp k 0
  let hs := s.sprayHeads t k
  if hs = [] ∨ hs.any (fun h => h.2 = e) then s.updTrunk t (fun x => { x with gap := tdel x.gap k })
  else
    let up := x.members.filter (fun l => (s.port l).state ≠ .down)
    if up.all (fun l => s.ring l k ≠ []) ∧ up.all (fun l => hs.any (fun h => h.1 = l)) then s.declareGap t k
    else if (tfind x.gap k).isSome then s
    else s.updTrunk t (fun x => { x with gap := tins x.gap k (endOf s.now s.rsto.toNat) })

/-- The gap waits of every sprayed class of a trunk, after a member's state changed (R114). -/
def State.checkGaps (s : State) (t : Nat) : State :=
  (List.range 7).foldl (fun s k => if s.spray.getLsbD k then s.checkGap t k else s) s

/-- What the resequencer says of a head: not its concern, released, behind, or waiting. -/
inductive Reseq where
  | free | release (t : Nat) | behind | hold (t : Nat)
deriving DecidableEq, Repr

def State.reseq (s : State) (l : Nat) (m : Msg) : Reseq :=
  let k := m.pkt.tc.toNat
  match s.trunkOfLane l with
  | some t =>
    if m.ingress = 1 ∧ m.pkt.spray ∧ s.spray.getLsbD k then
      let d := ahead (tget (s.trunk t).exp k 0) m.pkt.pseq
      if d = 0 then .release t else if d ≤ 32767 then .hold t else .behind
    else .free
  | none => .free

/-! ### Judging and retrying -/

/-- Acts on what the port found of the packet at position `i` of a ring: it is dropped, turned into its answer, or goes on (R132). In P2
TC1 to TC6 are discarded (R455). A TC4 message that an endpoint sends for another job than its port's reaches no root: one for this device is
discarded at its Block, any other here, counted at Block 0 of the Quarter (R265). Logs 97, 136. -/
def State.judge (s : State) (l k i : Nat) (m : Msg) : State :=
  let pk := m.pkt
  let gone := fun (f : Port → Port) => (s.putRing l k i none).dropLanded m f
  if s.pw.state = 2 ∧ 1 ≤ pk.tc.toNat ∧ pk.tc.toNat ≤ 6 then
    (gone id).updQtr (qOfLane l) (fun z => { z with unroute := satAdd z.unroute 1 })
  else if m.verd = 3 then (gone id).staleDrop l pk.seid
  else if m.verd = 4 then gone (fun p => { p with unbound := satAdd p.unbound 1 })
  else if ¬pk.legal ((s.port l).role = 1) then gone (fun p => { p with rsvdEnc := satAdd p.rsvdEnc 1 })
  else if pk.tc = 4 ∧ (s.port l).role = 1 ∧ (s.port l).job ≠ pk.job ∧ pk.deid ≠ s.selfEid then
    (gone id).updBlk (16 * qOfLane l) (fun b => { b with stray := satAdd b.stray 1 })
  else if m.verd = 1 then s.putRing l k i (some { m with ingress := 1 })
  else match s.policed m with
    | some a => s.putRing l k i (some a)
    | none => gone id

/-- The resequencer moves past a packet that it released (R112). -/
def State.released (s : State) (t k : Nat) : State :=
  (s.updTrunk t (fun x => { x with exp := tset x.exp k (tget x.exp k 0 + 1) 0 })).checkGap t k

/-- Admits the packet at the head of a ring that goes on, or counts its wait; a packet of TC5 or TC6 never waits (R97, R98). A sprayed
request that became an answer leaves the sprayed order as it does (R112). -/
def State.admitHead (s : State) (l k : Nat) : State :=
  match s.ring l k with
  | [] => s
  | m :: rest =>
    if m.ingress = 0 then s
    else
      match s.reseq l m with
      | .behind =>
        let s := (s.setRing l k rest).dropLanded m id
        s.updQtr (qOfLane l) (fun z => { z with rsLate := satAdd z.rsLate 1 })
      | .hold t => s.checkGap t k
      | r =>
        let (o, m') := if m.ingress = 1 ∧ m.pkt.tc = 2 then s.offerRequest l m else s.offerCopies l m
        match o with
        | .gone t =>
          let t := t.setRing l k rest
          (match r with
            | .release x => t.released x k
            | _ => t)
        | .stay t outs =>
          let w := m'.getD m
          let t := t.beginWait w { outs := outs }
          let t := t.setRing l k ({ w with waits := w.waits || outs ≠ [] } :: rest)
          (match r with
            | .release x => if w.ingress = 1 then t.checkGap x k else t.released x k
            | _ => t)

/-- The position of the oldest packet of a ring that has not been acted on. -/
def unjudged (r : List Msg) : Option Nat := r.findIdx? (fun m => m.ingress = 0)

/-- PACKET_INGRESS at a lane and class: acts on the oldest packet not yet acted on, and admits it when it is at the head (R132). Logs 97,
98. -/
def State.ingress (s : State) (l k : Nat) : State :=
  match unjudged (s.ring l k) with
  | none => s
  | some i =>
    match (s.ring l k)[i]? with
    | none => s
    | some m =>
      let n := (s.ring l k).length
      let s := s.judge l k i m
      if i = 0 ∧ (s.ring l k).length = n then s.admitHead l k
      else match s.trunkOfLane l with
        | some t => if s.spray.getLsbD k then s.checkGap t k else s
        | none => s

/-! ### Retries (R98, R100, R107) -/

/-- Packets of a TRANSIT channel, in order, into the DIRECT channel into Quarter `q` as far as its room goes (R107). -/
def State.advanceTransit (s : State) (q : Nat) (upper : Bool) (k : Nat) : State :=
  let key := directKey upper k
  let y := neighbour q upper
  (tget (s.qtr y).transit key []).foldl (fun s m =>
    match tget (s.qtr y).transit key [] with
    | h :: rest =>
      let direct := tget (s.qtr q).direct key []
      if h = m ∧ chanSlots direct + m.pkt.slots ≤ 1024 then
        (s.updQtr y (fun z => { z with transit := tset z.transit key rest [] })).updQtr q
          (fun z => { z with direct := tset z.direct key (direct ++ [m]) [] })
      else s
    | [] => s) s

/-- Admits the head of a DIRECT channel in its output Quarter. Its outputs are found again. Log 96. -/
def State.admitDirect (s : State) (q : Nat) (upper : Bool) (k : Nat) : State :=
  let key := directKey upper k
  match tget (s.qtr q).direct key [] with
  | [] => s
  | m :: rest =>
    let r : Route := if m.pkt.tc = 2 ∧ m.lines ≠ [] then { outs := m.homes.map (fun g => qBlk g 2) }
             else match m.asker, m.pkt.tc.toNat with
               | .req c _, 3 => { outs := [qBlk (c / 16) 3] }
               | .coll h _ _, 3 => { outs := [qBlk h 3] }
               | .pte p _, 3 => { outs := [qBlk (s.lowBlk p) 3] }
               | _, _ => s.route q m.pkt
    let r := { r with outs := r.outs.filter (fun o => o.1 = q) }
    let outs := s.outsOf m r
    let left := fun (s : State) => ((s.updQtr q (fun z => { z with direct := tset z.direct key rest [] })).creditBack m).advanceTransit q upper k
    if outs = [] then left (s.lose q m r)
    else match s.admitAt q r (outs.map (·.2)) m with
      | some t => left t
      | none =>
        (s.beginWait m { outs := outs }).updQtr q (fun z => { z with direct := tset z.direct key ({ m with waits := true } :: rest) [] })

/-- The route of a message that waits inside the device. -/
def State.waitRoute (s : State) (g : Nat) (m : Msg) : Route :=
  if m.pkt.tc = 2 ∧ m.lines ≠ [] then { outs := m.homes.map (fun h => qBlk h 2) } else s.blkRoute g m

/-- Admits the first message of a class that waits at a Block. -/
def State.admitBlk (s : State) (g k : Nat) : State :=
  let l := (s.blk g).outq
  match l.findIdx? (fun m => m.pkt.tc.toNat = k) with
  | none => s
  | some i => match l[i]? with
    | none => s
    | some m => match s.offer (qOfBlk g) (g % 2 = 0) m (s.waitRoute g m) with
      | some t => t.updBlk g (fun b => { b with outq := b.outq.eraseIdx i })
      | none =>
        let (t, m) := s.offerSome (qOfBlk g) (g % 2 = 0) m (s.waitRoute g m)
        t.updBlk g (fun b => { b with outq := b.outq.take i ++ [m] ++ b.outq.drop (i + 1) })

/-- Admits the first message of the Square that waits for Quarter `q`. -/
def State.admitSq (s : State) (q : Nat) : State :=
  match s.sqOut.findIdx? (fun m => s.sqEntry m = q) with
  | none => s
  | some i => match s.sqOut[i]? with
    | none => s
    | some m => match s.offer q true m (s.route 0 m.pkt) with
      | some t => { t with sqOut := t.sqOut.eraseIdx i }
      | none => s

/-- QUEUE_ADMISSION_RETRY at a place (R98, R100). -/
def State.retryAt (s : State) (p : Place) : State :=
  match p with
  | .landing l k => s.admitHead l.toNat k.toNat
  | .direct q u k => s.admitDirect q.toNat u k.toNat
  | .block g k => s.admitBlk g.toNat k.toNat
  | .square q => s.admitSq q.toNat

/-- RESEQ_GAP_TIMEOUT of a trunk and class (R114): E moves on, unless it has come to a head meanwhile. -/
def State.gapTimeout (s : State) (t k : Nat) : State :=
  match tfind (s.trunk t).gap k with
  | some e =>
    if e ≤ s.now ∧ (s.trunk t).members.all (fun l => (s.port l).state ≠ .retrain) then
      if (s.sprayHeads t k).any (fun h => h.2 = tget (s.trunk t).exp k 0) then s.checkGap t k
      else (s.declareGap t k).checkGap t k
    else s
  | none => s

end Sys2Proof.Machine
end

