-- ==== Sys2Proof/Machine/Link.lean ====
section
/-! DEFINITION. Copevo Link ports: flits, replay, credits, port states, the join handshake, egress (03 R54 to R89, R504 to R506; 04 R115;
05 R125 to R129). -/

namespace Sys2Proof.Machine

/-! ### The flit (R59 to R61) -/

/-- One bit of CRC-64/XZ, reflected. -/
def crcBit (c : Nat) : Nat := if c % 2 = 1 then (c / 2) ^^^ 0xC96C5795D7870F42 else c / 2
def crcByte (c : Nat) (b : Byte) : Nat :=
  crcBit (crcBit (crcBit (crcBit (crcBit (crcBit (crcBit (crcBit (c ^^^ b.toNat))))))))
/-- CRC-64/XZ of bytes. -/
def crc64 (l : List Byte) : BitVec 64 := BitVec.ofNat 64 ((l.foldl crcByte (2 ^ 64 - 1)) ^^^ (2 ^ 64 - 1))

end Sys2Proof.Machine

namespace Sys2Proof
open Sys2Proof.Machine

/-- Bytes 0 to 247 of a flit. -/
def Flit.bytes (f : Flit) : List Byte := leBytes 8 f.hdr.toNat ++ slotsBytes f.slots
/-- Whether a flit passes FEC and CRC (R56, R61). -/
def Flit.good (f : Flit) : Bool := !f.fecBad && f.crc = crc64 f.bytes

/-- Packets that begin in a flit. -/
def Flit.starts (f : Flit) : Nat := ((List.range 15).filter (fun i => sbit f.hdr (48 + i))).length

/-- Fields of slot 0 of a join message. -/
def JoinMsg.jtype (m : JoinMsg) : Nat := sbits m.s0 0 4
def JoinMsg.role (m : JoinMsg) : Nat := sbits m.s0 4 2
def JoinMsg.eid (m : JoinMsg) : Eid := BitVec.ofNat 12 (sbits m.s0 8 12)
def JoinMsg.inc (m : JoinMsg) : Inc := BitVec.ofNat 8 (sbits m.s0 20 8)
def JoinMsg.nonce (m : JoinMsg) : BitVec 32 := BitVec.ofNat 32 (sbits m.s0 32 32)
/-- The join message of a JOIN flit: its slots 0 to 2 (R73). -/
def Flit.join (f : Flit) : JoinMsg :=
  { s0 := (f.slots[0]?).getD 0, s1 := (f.slots[1]?).getD 0, s2 := (f.slots[2]?).getD 0 }
def Flit.ftype (f : Flit) : Nat := sbits f.hdr 0 4
/-- Whether a link header has a legal encoding (R14, R60): a known FTYPE, reserved bits of 0, and no SEQ but in a DATA flit. Log 129. -/
def Flit.headOk (f : Flit) : Bool :=
  f.ftype ≤ 2 && sbits f.hdr 30 2 = 0 && sbits f.hdr 43 5 = 0 && (f.ftype = 0 || sbits f.hdr 4 12 = 0)
/-- Whether a join message has a legal encoding (R14, R73). -/
def JoinMsg.legal (m : JoinMsg) : Bool :=
  m.jtype ≤ 6 && m.role ≤ 1 && sbits m.s0 6 2 = 0 && sbits m.s0 64 64 = 0 && sbits m.s1 93 35 = 0
/-- Whether a JOIN flit has a legal encoding: its message's fields, and slots 3 to 14 zero (R14, R73). -/
def Flit.joinOk (f : Flit) : Bool := f.join.legal && (f.slots.drop 3).all (· = 0)

end Sys2Proof

namespace Sys2Proof.Machine

/-- A flit with its CRC. Log 95. -/
def mkFlit (hdr : BitVec 64) (slots : List Slot) : Flit :=
  let f : Flit := { hdr := hdr, slots := slots ++ List.replicate (15 - slots.length) 0, crc := 0, fecBad := false }
  { f with crc := crc64 f.bytes }

/-! ### Port states (R72) -/

/-- Members of a trunk that are ACTIVE, by position. -/
def State.trunkActive (s : State) (t : Nat) : BitVec 16 :=
  let ms := (s.trunk t).members
  listMask 16 ((List.range ms.length).filter (fun i => (s.port (nth ms i)).state = .active))

/-- Raises TRUNK_CHANGE when the ACTIVE members of the lane's trunk changed (R111). -/
def State.noteTrunk (s : State) (l : Nat) : State :=
  match s.trunkOfLane l with
  | none => s
  | some t =>
    let a := s.trunkActive t
    if a = (s.trunk t).active then s
    else (s.updTrunk t (fun x => { x with active := a })).raise { code := 0x10, unit := uTrunk t, d0 := a.setWidth 64 }

/-- The gap waits of the trunk that a lane is a member of, after the port's state changed (R114). -/
def State.noteGaps (s : State) (l : Nat) : State :=
  match s.trunkOfLane l with
  | none => s
  | some t => s.checkGaps t

/-- A port enters a state. -/
def State.toState (s : State) (l : Nat) (st : PortState) : State :=
  ((s.updPort l (fun p => { p with state := st, since := s.now })).noteTrunk l).noteGaps l

/-- Whether a packet in a landing ring is the answer to a policed packet of its port (R135). -/
def Msg.isPoliced (m : Msg) : Bool :=
  m.ingress = 2 || (m.ingress = 3 && m.pkt.tc = 0 && (sbits ((m.pkt.data[0]?).getD 0) 0 (if m.pkt.mtype = 1 then 5 else 16) = 2))

/-- Discards the POLICED answers that still wait in a port's landing rings, as its queued packets; their requests' credits are released
(R138). -/
def State.dropPoliced (s : State) (l : Nat) : State :=
  (List.range 7).foldl (fun s k =>
    let bad := (s.ring l k).filter (·.isPoliced)
    if bad = [] then s
    else
      let s := s.setRing l k ((s.ring l k).filter (fun m => !m.isPoliced))
      let s := bad.foldl (fun s m => s.creditBack m) s
      s.updPort l (fun p => { p with downDisc := satAdd p.downDisc bad.length })) s

/-- Discards unacknowledged flits, queued packets and waiting POLICED answers (R79, R82, R85, R138, R505); the empty classes keep no deficit
(R115). Log 100. -/
def State.flush (s : State) (l : Nat) : State :=
  ((s.dropQueues l).dropPoliced l).updPort l (fun p => { p with unacked := [], nakAck := none, drr := [] })

/-- A port goes DOWN and raises LINK_DOWN with the state left (R55, R85). Log 100. -/
def State.goDown (s : State) (l : Nat) : State :=
  let p := s.port l
  if p.state = .down ∨ p.state = .disabled then s
  else (((s.flush l).updPort l (fun p => { p with jreq := none, grant := none })).toState l .down).raise
    { code := 0x06, unit := uPort l, d0 := BitVec.ofNat 64 p.state.code }

/-- A port enters TRAIN at its set width (R58, R86). `fresh`: its ALIGN attempts start again. -/
def State.toTrain (s : State) (l : Nat) (fresh : Bool) : State :=
  (s.updPort l (fun p => { p with width := if p.downsh then p.width + 1 else p.width, downsh := false,
                                  tries := if fresh then 0 else p.tries })).toState l .train

/-- A port enters HELLO: a new nonce, no probes, no JREQ sent or received yet (R74). Log 100. -/
def State.toHello (s : State) (l : Nat) : State :=
  let (v, s) := s.free
  (s.updPort l (fun p => { p with nonce := BitVec.ofNat 32 v, probes := [], probeAt := none, probeQ := [], jreqAt := none, replied := false,
                                  jreq := none, grant := none, tries := 0 })).toState l .hello

/-- A port needs a retrain: the third within 1,000 ticks sends it DOWN; any other is an entry to RETRAIN (R71, R90). -/
def State.toRetrain (s : State) (l : Nat) : State :=
  let s := s.updPort l (fun p => { p with retrains := (p.retrains.filter (fun t => s.now < endOf t 1000)) ++ [s.now] })
  if 3 ≤ (s.port l).retrains.length then s.goDown l
  else (s.updPort l (fun p => { p with retrainCnt := satAdd p.retrainCnt 1, health := p.health.add 2048 })).toState l .retrain

/-! ### Replay and acknowledgement (R67 to R71) -/

/-- Resends every unacknowledged flit in order (R69). Log 99. -/
def State.resendFlits (s : State) (l : Nat) : State :=
  let p := s.port l
  let s := s.updPort l (fun p => { p with unacked := p.unacked.map (fun f => { f with sends := f.sends + 1 }) })
  p.unacked.foldl (fun s f => s.send (.flit l f.flit)) s

/-- A NAK or the timer calls for a replay: it begins, or the port retrains when a flit has been sent five times (R69 to R71, R90). Log 99. -/
def State.replay (s : State) (l : Nat) : State :=
  if (s.port l).unacked.any (fun f => 5 ≤ f.sends) then s.toRetrain l
  else (s.updPort l (fun p => { p with replayCnt := satAdd p.replayCnt 1, health := p.health.add 16 })).resendFlits l

/-- Acknowledges flits up to and with SEQ `a`, releasing the packets that end in them (R69, R99). -/
def State.acked (s : State) (l : Nat) (a : BitVec 12) : State :=
  match (s.port l).unacked.findIdx? (fun f => f.seq = a) with
  | none => s
  | some i =>
    let gone := (s.port l).unacked.take (i + 1)
    let s := s.updPort l (fun p => { p with unacked := p.unacked.drop (i + 1), nakAck := none })
    gone.foldl (fun s f => if f.last then s.releaseSent (qOfLane l) f.queue else s) s

/-- Acts on the ACK, NAK and credit fields of a link header (R60, R66, R68, R69). Log 108. -/
def State.linkHeader (s : State) (l : Nat) (h : BitVec 64) : State :=
  let ack : BitVec 12 := BitVec.ofNat 12 (sbits h 16 12)
  let s := if sbit h 28 then s.acked l ack else s
  let c := sbits h 32 3
  let n := sbits h 35 8
  let s := s.updPort l (fun p => { p with heldCr := tset p.heldCr c (satAdd (tget p.heldCr c 0) n) 0 })
  let p := s.port l
  if sbit h 29 ∧ p.unacked ≠ [] ∧ p.nakAck ≠ some ack then
    (s.updPort l (fun p => { p with nakAck := some ack })).replay l
  else s

/-! ### Receiving (R62, R65, R68, R72, R94) -/

/-- A tick marker's legal encoding: MTYPE 0 and reserved bits of 0 (R14, R89). -/
def markerOk (m : Slot) : Bool := sbits m 3 5 = 0 && sbits m 23 41 = 0

/-- A complete packet of an accepted flit: to its landing ring with its stamp and what the port found of it; a marker's credit returns at
once (R89), and one with a reserved encoding is discarded (R14). -/
def State.land (s : State) (l : Nat) (ss : List Slot) : State :=
  let p := Pkt.ofSlots ss
  let k := p.tc.toNat
  let owe := fun (s : State) => s.updPort l (fun x => { x with owed := tset x.owed k (tget x.owed k 0 + ss.length) 0 })
  if k = 7 then owe (if markerOk ((ss[0]?).getD 0) then s else s.updPort l (fun x => { x with rsvdEnc := satAdd x.rsvdEnc 1 }))
  else if k = 0 ∧ p.mtype = 5 ∧ p.legal false then s
  else
    let x := s.port l
    s.setRing l k (s.ring l k ++ [{ pkt := p, lane := l, slots := ss.length, tcIn := k, stamp := x.rxTick, verd := x.rxVerd }])

/-- Slots that the packet starting with a header occupies. -/
def slotsOf (h : Slot) : Nat := if sbits h 0 3 = 7 then 1 else 1 + sbits h 102 2 + sbits h 93 9

/-- Once a packet's header slot is accepted, and with it what its charge needs, the port judges it (R132, R133). Log 97. -/
def State.judgeHeader (s : State) (l : Nat) (got : List Slot) : State :=
  let k := Pkt.ofSlots got
  let n := if k.tc = 2 ∧ (s.port l).role = 1 ∧ k.xslots ≠ 0 then 2 else 1
  if got.length ≠ n ∨ k.tc = 7 ∨ (k.tc = 0 ∧ k.mtype = 5) then s
  else
    let (v, s) := s.verdict l k
    s.updPort l (fun p => { p with rxVerd := v })

/-- Takes one slot of an accepted flit: the start of a packet, which gives it its stamp (R32), its continuation, or filler. Log 22. -/
def State.takeSlot (s : State) (l : Nat) (first : Bool) (x : Slot) : State :=
  let part := (s.port l).rxPart
  if ¬first ∧ part = [] then s
  else
    let got := if first then [x] else part ++ [x]
    let s := if first then s.updPort l (fun p => { p with rxTick := s.now, rxVerd := 0 }) else s
    let s := s.judgeHeader l got
    if got.length = slotsOf (got[0]?.getD 0) then (s.updPort l (fun p => { p with rxPart := [] })).land l got
    else s.updPort l (fun p => { p with rxPart := got })

/-- Counts a flit that is discarded for its CRC (R61, R470). -/
def State.crcCount (s : State) (l : Nat) : State :=
  s.updPort l (fun p => { p with crcErr := satAdd p.crcErr 1, health := p.health.add 16 })

/-- A flit that is discarded for its CRC (R61, R68). -/
def State.crcDrop (s : State) (l : Nat) : State :=
  (s.crcCount l).updPort l (fun p => { p with nak := true })

/-- A flit whose CRC is bad, or a good one with a reserved link header (R14, R61, R68). Log 129. -/
def State.badFlit (s : State) (l : Nat) (f : Flit) : State :=
  if ¬f.good then (if (s.port l).state = .active then s.crcDrop l else s.crcCount l)
  else
    s.updPort l (fun p => { p with rsvdEnc := satAdd p.rsvdEnc 1,
                                   nak := p.nak || (decide (p.state = .active) && decide (f.ftype = 0)) })

/-- A received DATA flit. Logs 95, 98. -/
def State.rxData (s : State) (l : Nat) (f : Flit) : State :=
  let p := s.port l
  if ¬f.good ∨ ¬f.headOk then s.badFlit l f
  else if f.ftype ≠ 0 then s
  else if p.state ≠ .active then
    if p.state = .fenced then (List.range f.starts).foldl (fun s _ => s.staleDrop l p.peerEid) s
    else s.updPort l (fun p => { p with unbound := satAdd p.unbound f.starts })
  else
    let s := s.linkHeader l f.hdr
    let p := s.port l
    if sbits f.hdr 4 12 ≠ p.rxSeq.toNat then s.updPort l (fun p => { p with nak := true })
    else
      let s := s.updPort l (fun p => { p with rxSeq := p.rxSeq + 1, rxAny := true, nak := false })
      ((List.range 15).zip f.slots).foldl (fun s x => s.takeSlot l (sbit f.hdr (48 + x.1)) x.2) s

/-- A received IDLE flit. -/
def State.rxIdle (s : State) (l : Nat) (f : Flit) : State :=
  if ¬f.good ∨ ¬f.headOk then s.badFlit l f
  else if f.ftype ≠ 1 ∨ (s.port l).state ≠ .active then s
  else s.linkHeader l f.hdr

/-- A received JOIN flit: discarded when its CRC or its encoding is bad, else its link header and its message are acted on. -/
def State.rxJoin (s : State) (l : Nat) (f : Flit) (act : Nat → JoinMsg → State → State) : State :=
  if ¬f.good ∨ ¬f.headOk then s.badFlit l f
  else if f.ftype ≠ 2 then s
  else if ¬f.joinOk then s.updPort l (fun p => { p with rsvdEnc := satAdd p.rsvdEnc 1 })
  else act l f.join (if (s.port l).state = .active then s.linkHeader l f.hdr else s)

/-! ### Join messages (R73 to R79) -/

/-- A join message of this port. -/
def State.joinMsg (s : State) (l jtype : Nat) (eid : Eid) (inc : Inc) (reason nonce ns turn : Nat) : JoinMsg :=
  let p := s.port l
  { s0 := packSlot [(4, jtype), (2, 1), (2, 0), (12, eid.toNat), (8, inc.toNat), (4, reason), (32, nonce)],
    s1 := packSlot [(64, s.now), (10, ns), (16, turn), (2, p.width.toNat), (1, b1 p.rate)],
    s2 := packSlot ((List.range 8).map (fun k => (16, (tget p.adv k 0).toNat))) }

/-- The link header of an outgoing flit: ACK, NAK and the next class's credits, and the state with them returned (R60, R66). Log 108. -/
def State.nextHeader (s : State) (l ftype seq : Nat) (map : Nat) (cont : Bool) : BitVec 64 × State :=
  let p := s.port l
  let c := ((List.range 8).map (fun i => (p.crRot + i) % 8)).find? (fun c => tget p.owed c 0 ≠ 0)
  let (tc, n) := match c with | some c => (c, min 255 (tget p.owed c 0)) | none => (0, 0)
  let s := match c with
    | some c => s.updPort l (fun p => { p with owed := tset p.owed c (tget p.owed c 0 - n) 0, crRot := (c + 1) % 8 })
    | none => s
  (pack64 [(4, ftype), (12, seq), (12, (p.rxSeq - 1).toNat), (1, b1 p.rxAny), (1, b1 p.nak), (2, 0), (3, tc), (8, n), (5, 0), (15, map), (1, b1 cont)], s)

/-- Puts a join message on a link, in a JOIN flit: its link header carries acknowledgements and credits on an ACTIVE port alone (R59, R60,
R67, R73). Log 129. -/
def State.sendJoinFlit (s : State) (l : Nat) (m : JoinMsg) : State :=
  let (h, s) := if (s.port l).state = .active then s.nextHeader l 2 0 0 false else (pack64 [(4, 2)], s)
  s.send (.flit l (mkFlit h [m.s0, m.s1, m.s2]))

/-- Sends a join message that answers the JREQ of a port, stamped at the current tick. Log 100. -/
def State.sendJoin (s : State) (l jtype : Nat) (eid : Eid) (inc : Inc) (reason : Nat) (nonce : BitVec 32) : State :=
  let (ns, s) := s.nsFree
  s.sendJoinFlit l (s.joinMsg l jtype eid inc reason nonce.toNat ns 0)

/-- Sends JGRANT and holds the grant until JCONFIRM (R75 to R77). Log 101. -/
def State.grantJoin (s : State) (l : Nat) (eid : Eid) (inc : Inc) (job : JobId) : State :=
  match (s.port l).jreq with
  | none => s
  | some j =>
    let s := s.updPort l (fun p => { p with grant := some (eid, inc, job), grantAt := s.now, jreq := some { j with decided := true } })
    s.sendJoin l 1 eid inc 0 j.nonce

/-- A port enters ADMIT with its peer's JREQ: a trunk entry that matches is admitted at once, any other awaits the fabric manager. Log 100. -/
def State.toAdmit (s : State) (l : Nat) : State :=
  match (s.port l).jreq with
  | none => s
  | some j =>
    let s := s.toState l .joining
    let p := s.port l
    if j.role = 1 ∧ j.eid = p.teid ∧ j.inc = p.tinc ∧ p.teid ≠ 0xFFF ∧ p.tinc ≠ 0 then s.grantJoin l j.eid j.inc 0
    else
      let s := s.updPort l (fun p => { p with jreq := some { j with pending := true, since := s.now } })
      s.raise { code := 0x01, unit := uPort l, eid := j.eid, inc := j.inc, d0 := j.nonce.setWidth 64 }

/-- Why a JREQ is denied at once, if it is (R75, R83). A port that is DISABLED or DOWN holds its admitted identity too (R85, R505). DESIGN
CHOICE (log 130): a JREQ that equals its port's trunk entry is denied for neither of the first two reasons, and which REASON a FENCED port
gives where R75 names none. -/
def State.joinReason (s : State) (l : Nat) (m : JoinMsg) : Option Nat :=
  let p := s.port l
  let e := m.eid
  let cur := s.incOf e
  let trunk := m.role = 1 && e = p.teid && m.inc = p.tinc && m.inc ≠ 0
  let elsewhere := cur ≠ 0 && s.ports.any (fun x => x.1 ≠ l && x.2.off = 0 && x.2.role ≠ 0 && x.2.peerEid = e && x.2.peerInc = cur)
  if elsewhere && !trunk then some 1
  else if m.inc ≠ 0 ∧ m.inc ≠ cur ∧ ¬trunk then some 2
  else if sbits m.s1 90 2 ≠ p.width.toNat ∨ sbits m.s1 92 1 ≠ b1 p.rate then some 5
  else if p.state = .fenced ∧ m.inc ≠ 0 then some 2
  else if p.state = .fenced ∧ cur ≠ 0 then some 1
  else none

/-- A JREQ arrives (R75, R79, R83). -/
def State.rxJreq (s : State) (l : Nat) (m : JoinMsg) : State :=
  let st := (s.port l).state
  if ¬(st = .hello ∨ st = .joining ∨ st = .active ∨ st = .fenced) ∨ m.jtype ≠ 0 then s
  else
    let s := if st = .active then (s.flush l).toHello l else s
    let p := s.port l
    let same : Bool := match p.jreq with | some j => j.nonce = m.nonce | none => false
    if same then s
    else match s.joinReason l m with
      | some r =>
        let s := s.sendJoin l 2 m.eid m.inc r m.nonce
        if p.state = .joining then s.toHello l else s
      | none =>
        let j : JoinReq := { eid := m.eid, inc := m.inc, role := BitVec.ofNat 2 m.role, nonce := m.nonce, pending := false, decided := false,
                             since := s.now }
        let s := s.updPort l (fun p => { p with
          jreq := some j, grant := none,
          peerCr := (List.range 8).foldl (fun t k => tset t k (BitVec.ofNat 16 (sbits m.s2 (16 * k) 16)) 0) [] })
        if p.state = .hello then (if 8 ≤ p.probes.length then s.toAdmit l else s) else s.toAdmit l

/-- Settles snoops towards agents that are no longer current, at every Block of a partition (R204). Log 120. -/
def State.settleAll (s : State) : State :=
  s.blks.foldl (fun s e => match s.partOfBlk e.1 with
    | some p => s.settleSnoops e.1 p
    | none => s) s

/-- A port becomes ACTIVE: fresh sequence numbers and credits (R64, R95), and its identity current (R76, R506). -/
def State.toActive (s : State) (l : Nat) (eid : Eid) (inc : Inc) (role : BitVec 2) : State :=
  let s := s.updPort l (fun p => { p with
    peerEid := eid, peerInc := inc, role := role, grant := none, jreq := none, txSeq := 0, rxSeq := 0, rxAny := false, nak := false,
    nakAck := none, unacked := [], rxPart := [], owed := [], advCur := p.adv, heldCr := p.peerCr,
    landing := p.landing.map (fun e => (e.1, e.2.map (fun m => { m with slots := 0 }))) })
  ((s.setInc eid inc).toState l .active).settleAll

/-- JCONFIRM arrives within its 10 ticks (R76). DESIGN CHOICE (log 131): it must carry the NONCE of its JREQ too. -/
def State.rxConfirm (s : State) (l : Nat) (m : JoinMsg) : State :=
  let p := s.port l
  match p.grant, p.jreq with
  | some (e, i, _), some j =>
    if p.state = .joining ∧ m.jtype = 3 ∧ m.eid = e ∧ m.inc = i ∧ m.nonce = j.nonce ∧ s.now < endOf p.grantAt 10 then
      s.toActive l e i (j.role + 1)
    else s
  | _, _ => s

/-! ### Egress (R115, R125, R129) -/

/-- Slots per tick of a port at line rate: 15,000 / FT (05). Log 110. -/
def Port.rateSlots (p : Port) : Nat := 15000 * p.lanes * 2116 / 20480 / (if p.rate then 2 else 1)

/-- Sends a packet's slots as DATA flits and keeps them for replay (R62, R67). -/
def State.sendSlots (s : State) (l queue : Nat) (release : Bool) (first : Bool) : Nat → List Slot → State
  | 0, _ => s
  | n + 1, ss =>
    let seq := (s.port l).txSeq
    let (h, s) := s.nextHeader l 0 seq.toNat (b1 first) (!first)
    let f := mkFlit h (ss.take 15)
    let last := release && n = 0
    let s := s.updPort l (fun p => { p with txSeq := p.txSeq + 1,
                                            unacked := p.unacked ++ [{ seq := seq, flit := f, queue := queue, last := last, sends := 1 }] })
    (s.send (.flit l f)).sendSlots l queue release false n (ss.drop 15)

/-- Takes credits for a packet that starts (R63). -/
def State.useCredit (s : State) (l k n : Nat) : State :=
  s.updPort l (fun p => { p with heldCr := tset p.heldCr k (tget p.heldCr k 0 - BitVec.ofNat 16 n) 0 })

/-- The first packet of a queue that has not started. -/
def Queue.next (x : Queue) : Option QPkt := x.pkts.find? (fun p => !p.started)

/-- Whether the next packet of a class may start: its shaper and its credit (R63, R125). -/
def State.eligible (s : State) (l k : Nat) : Bool :=
  let x := s.queue (qOfLane l) (nPort l k)
  match x.next with
  | none => false
  | some p => (x.rate = 0 || 0 ≤ x.k) && p.msg.pkt.slots ≤ (tget (s.port l).heldCr k 0).toNat

/-- The first packet of a list that has not started, marked as started. -/
def markStarted : List QPkt → List QPkt
  | [] => []
  | p :: r => if p.started then p :: markStarted r else { p with started := true } :: r

/-- Starts the next packet of a class; a class left with none keeps no deficit (R115). -/
def State.startPkt (s : State) (l k ns : Nat) : State :=
  let q := qOfLane l
  let n := nPort l k
  match (s.queue q n).next with
  | none => s
  | some p =>
    let size := p.msg.pkt.slots
    let s := s.noteLeave q n p ns
    let s := s.updQueue q n (fun x => { x with
      pkts := markStarted x.pkts
      k := if x.rate = 0 then x.k else x.k - size })
    let s := s.useCredit l k size
    let s := if k = 0 then s.updPort l (fun x => { x with tc0Used := x.tc0Used + size }) else s
    let s := if (s.queue q n).next.isNone then s.updPort l (fun x => { x with drr := tset x.drr k 0 0 }) else s
    s.sendSlots l n true true p.msg.pkt.cells p.msg.pkt.toSlots

/-- The weight of a class in the round robin (R115). -/
def Port.weight (p : Port) (k : Nat) : Nat := if k = 0 then 1 else sbits p.egw (4 * (k - 1)) 4

/-- One class's turn of the deficit round robin after another, until a packet may start (R115, R129). Class 0 takes turns only beyond its
share of the tick. -/
def State.drrPick (s : State) (l : Nat) (tc0 : Bool) : Nat → State × Option Nat
  | 0 => (s, none)
  | n + 1 =>
    let p := s.port l
    let k := p.drrAt
    let onward := fun (s : State) => s.updPort l (fun p => { p with drrAt := (k + 1) % 6, drrNew := true })
    let x := s.queue (qOfLane l) (nPort l k)
    match x.next with
    | none => ((onward (s.updPort l (fun p => { p with drr := tset p.drr k 0 0 })))).drrPick l tc0 n
    | some h =>
      if (k = 0 ∧ ¬tc0) ∨ ¬s.eligible l k then (onward s).drrPick l tc0 n
      else
        let d := tget p.drr k 0 + (if p.drrNew then 15 * p.weight k else 0)
        let size := h.msg.pkt.slots
        let s := s.updPort l (fun p => { p with drr := tset p.drr k d 0, drrNew := false })
        if (size : Int) ≤ d then
          let rest := (x.pkts.filter (fun y => !y.started)).length
          let s := s.updPort l (fun p => { p with drr := tset p.drr k (if rest ≤ 1 then 0 else d - size) 0 })
          (s, some k)
        else (onward s).drrPick l tc0 n

/-- The class that starts next (R115); in P2 only TC0 is carried (R455). -/
def State.pickClass (s : State) (l : Nat) : State × Option Nat :=
  let p := s.port l
  let share := p.tc0Used * 16 ≤ p.rateSlots
  if s.pw.state = 2 then (s, if s.eligible l 0 then some 0 else none)
  else if s.eligible l 0 ∧ share then (s, some 0)
  else if (List.range 6).any (fun k => s.eligible l k) then s.drrPick l true 200
  else if s.eligible l 6 then (s, some 6) else (s, none)

/-- The tick marker of a port (R39, R89). -/
def State.marker (s : State) (ns : Nat) : Slot :=
  packSlot [(3, 7), (5, 0), (10, ns), (4, s.tb.hops.toNat), (1, b1 (s.tb.state = TbState.unaligned)), (41, 0), (64, s.now)]

/-- The NOTICE packet of a port (R81). -/
def State.noticePkt (s : State) (l : Nat) : Pkt :=
  { tc := 0, mtype := 5, deid := (s.port l).lastStale, seid := s.selfEid, sinc := s.selfInc, status := stBadInc }

/-- PACKET_EGRESS: a free link sends the marker that is due, a notice after it, the next packet, or an IDLE flit (R67, R81, R89, R115). A
tick's notice is not sent at all where the port holds no TC0 credit. Where a packet's flits would pass the limit of 1,024, IDLE flits go out
until they fit (log 132). Log 95. -/
def State.egress (s : State) (l ns : Nat) : State :=
  if s.boot.halted then s else
  let p := s.port l
  let due := p.noticeDue && p.noticeTick ≠ some s.now
  let noted := fun (s : State) => s.updPort l (fun p => { p with noticeDue := false, noticeTick := some s.now })
  if p.state = .fenced ∧ due then
    (noted s).sendJoinFlit l { s0 := packSlot [(4, 6)], s1 := packSlot [(64, s.now), (10, ns)], s2 := 0 }
  else if p.state ≠ .active then s
  else
    let s := s.updPort l (fun p => { p with nakAck := none })
    let room := fun (n : Nat) => p.unacked.length + n ≤ 1024
    let idle := fun (s : State) => let (h, s) := s.nextHeader l 1 0 0 false; s.send (.flit l (mkFlit h []))
    if p.markerDue ∧ room 1 ∧ 0 < (tget p.heldCr 7 0).toNat then
      ((s.updPort l (fun p => { p with markerDue := false })).useCredit l 7 1).sendSlots l 0 false true 1 [s.marker ns]
    else if due ∧ ¬p.markerDue ∧ room 1 ∧ 0 < (tget p.heldCr 0 0).toNat then
      ((noted s).useCredit l 0 1).sendSlots l 0 false true 1 [(s.noticePkt l).header]
    else
      let s := if due ∧ ¬p.markerDue ∧ (tget p.heldCr 0 0).toNat = 0 then noted s else s
      match s.pickClass l with
      | (_, none) => idle s
      | (t, some k) =>
        let n := match (s.queue (qOfLane l) (nPort l k)).next with | some q => q.msg.pkt.cells | none => 0
        if room n then t.startPkt l k ns else idle s

end Sys2Proof.Machine
end

