-- ==== Sys2Proof/Machine/RowsLink.lean ====
section
/-! DEFINITION. Meanings of the link commands (03 R54 to R90, R504 to R506) and of packet ingress, retry and egress (04, 05). A command whose
event cannot happen in the state leaves it unchanged (log 6). -/

namespace Sys2Proof.Machine

/-- The outcome of a command. -/
abbrev Res := Host.Outcome State Fault Refusal

/-- Runs `f` when the lane names an enabled port that satisfies `c`. -/
def State.onPort (s : State) (l : Lane) (c : Port → Bool) (f : Nat → State → State) : Res :=
  let p := s.port l.toNat
  if p.enabled && c p then .next (f l.toNat s) else .next s

/-- A DATA flit arrives (R61, R62, R65, R68, R69, R72): at any port, also a DISABLED one. Log 121. -/
def execDataFlit (lane : Lane) (f : Flit) (s : State) : Res :=
  if f.slots.length ≠ 15 then .fault .malformedCommand
  else if (s.port lane.toNat).off = 0 then .next (s.rxData lane.toNat f) else .next s

/-- An IDLE flit arrives (R67, R68, R69). Log 121. -/
def execIdleFlit (lane : Lane) (f : Flit) (s : State) : Res :=
  if f.slots.length ≠ 15 then .fault .malformedCommand
  else s.onPort lane (fun _ => true) (fun l s => s.rxIdle l f)

/-- A JOIN flit arrives at an enabled port (R59 to R61, R73). Log 121. -/
def State.onJoin (s : State) (lane : Lane) (f : Flit) (act : Nat → JoinMsg → State → State) : Res :=
  if f.slots.length ≠ 15 then .fault .malformedCommand
  else s.onPort lane (fun _ => true) (fun l s => s.rxJoin l f act)

/-- Eight consecutive flits with good CRC end ALIGN (R72). -/
def execAlignDone (lane : Lane) (s : State) : Res :=
  s.onPort lane (fun p => p.state = .align) (fun l s => s.toHello l)

/-- ACK has not advanced for 2,000 ns: replay from the oldest flit (R70, R71). -/
def execReplayTimeout (lane : Lane) (s : State) : Res :=
  s.onPort lane (fun p => p.state = .active && p.unacked ≠ []) (fun l s => s.replay l)

/-- Lanes of a port in TRAIN lock: all of them, or with downshift one half (R58, R72). -/
def execLanesLocked (lane : Lane) (trained : BitVec 8) (s : State) : Res :=
  s.onPort lane (fun p => p.state = .train) (fun l s =>
    let p := s.port l
    let n := p.lanes
    let m := trained.toNat % 2 ^ n
    let half := 2 ^ (n / 2) - 1
    if m = 2 ^ n - 1 then s.toState l .align
    else if p.dshen ∧ 2 ≤ n ∧ (m % 2 ^ (n / 2) = half ∨ m / 2 ^ (n / 2) = half) then
      ((s.updPort l (fun p => { p with width := p.width - 1, downsh := true })).toState l .align).raise
        { code := 0x02, unit := uPort l, d0 := BitVec.ofNat 64 m }
    else s)

/-- A port fails to lock in TRAIN (R55, R72, R504). Log 102. -/
def execTrainTimeout (lane : Lane) (s : State) : Res :=
  s.onPort lane (fun p => p.state = .train) (fun l s => s.goDown l)

/-- ALIGN does not complete: TRAIN again at most three times, then DOWN (R72). -/
def execAlignTimeout (lane : Lane) (s : State) : Res :=
  s.onPort lane (fun p => p.state = .align) (fun l s =>
    if (s.port l).tries < 3 then (s.updPort l (fun p => { p with tries := p.tries + 1 })).toTrain l false else s.goDown l)

/-- A retrain succeeds: ACTIVE again, replay from ACK + 1, each flit's count of sendings begun anew (R71); the resumed replay is none begun by
NAK or timer (R90). Log 99. -/
def execRetrainSuccess (lane : Lane) (s : State) : Res :=
  s.onPort lane (fun p => p.state = .retrain) (fun l s =>
    let s := (s.updPort l (fun p => { p with unacked := p.unacked.map (fun f => { f with sends := 1 }) })).toState l .active
    if (s.port l).unacked = [] then s else s.resendFlits l)

/-- A retrain fails (R71). -/
def execRetrainTimeout (lane : Lane) (s : State) : Res :=
  s.onPort lane (fun p => p.state = .retrain) (fun l s => s.goDown l)

/-- Loss of signal with the cable present (R86). -/
def execLossOfSignal (lane : Lane) (s : State) : Res :=
  s.onPort lane (fun p => p.state = .active && s.cage.getLsbD (lane.toNat / 8)) (fun l s => s.toRetrain l)

/-- A JREQ arrives (R75, R77, R79, R83). -/
def execJreq (lane : Lane) (f : Flit) (s : State) : Res := s.onJoin lane f (fun l m s => s.rxJreq l m)

/-- A JCONFIRM arrives (R76). -/
def execJconfirm (lane : Lane) (f : Flit) (s : State) : Res := s.onJoin lane f (fun l m s => s.rxConfirm l m)

/-- No JCONFIRM within 10 ticks: the grant lapses (R76). -/
def execJconfirmTimeout (lane : Lane) (s : State) : Res :=
  s.onPort lane (fun p => p.state = .joining && p.grant.isSome && endOf p.grantAt 10 ≤ s.now) (fun l s =>
    s.toHello l)

/-- No decision within 100,000 ticks: JDENY TIMEOUT (R73). -/
def execJoinDecisionTimeout (lane : Lane) (s : State) : Res :=
  s.onPort lane (fun p => p.state = .joining) (fun l s =>
    match (s.port l).jreq with
    | some j =>
      if j.pending ∧ ¬j.decided ∧ endOf j.since 100000 ≤ s.now then
        (s.sendJoin l 2 j.eid j.inc 4 j.nonce).toHello l
      else s
    | none => s)

/-- A port in HELLO sends its JREQ every 10 ticks until it is answered (R74). -/
def execJreqResend (lane : Lane) (ns : Ns) (s : State) : Res :=
  s.onPort lane (fun p => p.state = .hello && !p.replied && (match p.jreqAt with | some t => t + 10 ≤ s.now | none => true)) (fun l s =>
    let s := s.updPort l (fun p => { p with jreqAt := some s.now })
    s.sendJoinFlit l (s.joinMsg l 0 s.selfEid s.selfInc 0 (s.port l).nonce.toNat ns.val 0))

/-- A port in HELLO sends one PROBE every tick (R74). -/
def execProbeSend (lane : Lane) (ns : Ns) (s : State) : Res :=
  s.onPort lane (fun p => p.state = .hello && p.probeAt ≠ some s.now) (fun l s =>
    let s := s.updPort l (fun p => { p with probeAt := some s.now, probeQ := p.probeQ ++ [(s.now, ns.val)] })
    s.sendJoinFlit l (s.joinMsg l 4 0 0 0 0 ns.val 0))

/-- A PROBE is answered by an ECHO (R74). -/
def execProbe (lane : Lane) (f : Flit) (ns turn : Ns) (s : State) : Res :=
  s.onJoin lane f (fun l m s =>
    let st := (s.port l).state
    if m.jtype = 4 ∧ (st = .hello ∨ st = .joining ∨ st = .fenced ∨ st = .active) then
      s.sendJoinFlit l (s.joinMsg l 5 0 0 0 m.nonce.toNat ns.val turn.val)
    else s)

/-- An ECHO measures the delay; the eighth, with a JREQ, moves the port to ADMIT (R72, R74). -/
def execEcho (lane : Lane) (f : Flit) (ns : Ns) (s : State) : Res :=
  s.onJoin lane f (fun l m s =>
    match (s.port l).probeQ with
    | [] => s
    | (t, n) :: rest =>
      if (s.port l).state ≠ .hello ∨ m.jtype ≠ 5 then s
      else
        let d := ((s.now * 1000 + ns.val) - (t * 1000 + n) - sbits m.s1 74 16) / 2
        let s := s.updPort l (fun p => { p with probeQ := rest, probes := p.probes ++ [d] })
        let ps := (s.port l).probes
        if ps.length = 8 then
          let s := s.updPort l (fun p => { p with delay := BitVec.ofNat 16 (ps.foldl min d) })
          if (s.port l).jreq.isSome then s.toAdmit l else s
        else s)

/-- A link-local notice is consumed (R80, R81, R132): the packet form returns its credit at once and meets the checks of its port, incarnation,
binding and policer, like every packet; the join form is a JOIN flit. Log 98. -/
def execNotice (lane : Lane) (f : NoticeForm) (s : State) : Res :=
  match f with
  | .packet h => s.onPort lane (fun p => p.state = .active) (fun l s =>
    let p := Pkt.ofHeader h
    if p.tc ≠ 0 ∨ p.mtype ≠ 5 then s
    else
      let s := s.updPort l (fun x => { x with owed := tset x.owed 0 (tget x.owed 0 0 + 1) 0 })
      let (v, s) := s.verdict l p
      if v = 3 then s.staleDrop l p.seid
      else if v = 4 then s.updPort l (fun x => { x with unbound := satAdd x.unbound 1 })
      else if ¬p.legal false then s.updPort l (fun x => { x with rsvdEnc := satAdd x.rsvdEnc 1 })
      else s)
  | .join f => s.onJoin lane f (fun _ _ s => s)

/-- The lowest lanes of the enabled ports of a cage group (R84). -/
def State.groupPorts (s : State) (k : Nat) : List Nat := (s.ports.filter (fun e => e.1 / 8 = k && e.2.enabled)).map (·.1)

/-- A cage group is present (R84, R86). Log 27. -/
def execCableIn (group : BitVec 6) (s : State) : Res :=
  let k := group.toNat
  if s.cage.getLsbD k ∨ ¬s.ticking then .next s
  else
    let t := { s with cage := s.cage ||| BitVec.ofNat 64 (2 ^ k) }
    let t := t.raise { code := 0x04, unit := uCage k }
    if s.quartersOn then .next ((t.groupPorts k).foldl (fun s l => s.toTrain l true) t) else .next t

/-- A cage group is removed (R84, R85). Log 27. -/
def execCableOut (group : BitVec 6) (s : State) : Res :=
  let k := group.toNat
  if ¬s.cage.getLsbD k ∨ ¬s.ticking then .next s
  else
    let s := ({ s with cage := s.cage &&& ~~~(BitVec.ofNat 64 (2 ^ k)) }).raise { code := 0x05, unit := uCage k }
    .next ((s.groupPorts k).foldl (fun s l => s.goDown l) s)

/-- A JGRANT or JDENY arrives for this port's own JREQ (R74, R76). -/
def execJoinReply (lane : Lane) (f : Flit) (s : State) : Res :=
  s.onJoin lane f (fun l m s =>
    let p := s.port l
    if ¬(p.state = .hello ∨ p.state = .joining) ∨ m.nonce ≠ p.nonce then s
    else if m.jtype = 1 then (s.updPort l (fun p => { p with replied := true })).sendJoin l 3 m.eid m.inc 0 m.nonce
    else if m.jtype = 2 then
      if p.state = .joining then s.toHello l else s.updPort l (fun p => { p with replied := true })
    else s)

/-- The oldest landed packet not yet acted on is acted on, and admitted when it is at the head (R132). -/
def execPacketIngress (lane : Lane) (tc : Tc) (s : State) : Res :=
  s.onPort lane (fun _ => true) (fun l s => s.ingress l tc.toNat)

/-- A refused lossless packet at a head is tried again (R98, R100). -/
def execQueueAdmissionRetry (p : Place) (s : State) : Res := .next (s.retryAt p)

/-- The gap timer of a trunk and class expires (R114). -/
def execReseqGapTimeout (trunk : BitVec 5) (tc : Tc) (s : State) : Res := .next (s.gapTimeout trunk.toNat tc.toNat)

/-- A free link sends what is next (R115). Log 18. -/
def execPacketEgress (lane : Lane) (ns : Ns) (s : State) : Res :=
  s.onPort lane (fun _ => true) (fun l s => s.egress l ns.val)

end Sys2Proof.Machine
end

