-- ==== Sys2Proof/Machine/Ctx.lean ====
section
/-! DEFINITION. Contexts: banks, requests, completion of instructions, faults, states (06 R163 to R167, R178, R180; 12 R352 to R356, R372;
13 R380 to R398). -/

namespace Sys2Proof.Machine

/-! ### Engines, instruction words (R344) -/

abbrev eGath : Nat := 0
abbrev eRed : Nat := 1
abbrev eFilt : Nat := 2
abbrev eScor : Nat := 3

/-- Fields of a stage instruction word. -/
structure Insn where
  opc  : Nat
  mod  : Nat
  d    : Nat
  a    : Nat
  b    : Nat
  pred : Nat
  cost : Nat
  imm  : Nat
deriving DecidableEq, Repr

def insnOf (w : BitVec 128) : Insn :=
  { opc := sbits w 120 8, mod := sbits w 112 8, d := sbits w 104 8, a := sbits w 96 8, b := sbits w 88 8, pred := sbits w 84 4,
    cost := sbits w 72 12, imm := sbits w 0 72 }

/-- The declared slice cost C (R46). -/
def Insn.c (i : Insn) : Nat := 4 * i.cost

/-- Engine of an opcode; 4 for the sequencer (R346). -/
def engineOf (opc : Nat) : Nat :=
  if opc = 0x10 ∨ opc = 0x11 ∨ opc = 0x12 then eRed
  else if opc = 0x18 ∨ opc = 0x19 then eFilt
  else if opc = 0x1C ∨ opc = 0x1D then eScor
  else if 0x28 ≤ opc ∧ opc ≤ 0x2E then 4 else eGath

/-! ### Banks (R350, R386) -/

abbrev bankSize : Nat := 524288

/-- The slot that owns bank `i`; `none` for the collective area. -/
def Block.bankOf (b : Block) (i : Nat) : Option Nat := if b.bankArea.getLsbD i then none else some (sbits b.bankOwn (4 * i) 4)
/-- Whether a slot owns every bank that a range lies in. -/
def Block.owns (b : Block) (slot o n : Nat) : Bool :=
  n = 0 || (o + n ≤ 16 * bankSize && (List.range 16).all (fun i =>
    !(decide (o < (i + 1) * bankSize) && decide (i * bankSize < o + n)) || b.bankOf i = some slot))

def State.owns (s : State) (c o n : Nat) : Bool := (s.blk (c / 16)).owns (c % 16) o n
def State.bankPeeks (s : State) (c o n : Nat) : List Byte := (s.blk (c / 16)).peeks o n
def State.bankBad (s : State) (c o n : Nat) : Bool := (s.blk (c / 16)).bad o n
/-- Writes bytes in the banks of a context's Block. -/
def State.bankWrite (s : State) (c o : Nat) (v : List Byte) (pois : Bool) : State := s.updBlk (c / 16) (fun b => b.write o v pois)

/-- Writes the bytes of a response: a word written from a line of `bad` is poisoned (R465). `a` is the address of the first byte. -/
def State.bankLand (s : State) (c o a : Nat) (v : List Byte) (bad : Nat) : State :=
  let s := s.bankWrite c o v false
  (List.range ((a + v.length + 127) / 128 - a / 128)).foldl (fun s i =>
    if bits bad i 1 = 1 then
      let lo := max a (128 * (a / 128 + i))
      let hi := min (a + v.length) (128 * (a / 128 + i + 1))
      s.updBlk (c / 16) (fun b => { b with bpois := (wordsOf (o + (lo - a)) (hi - lo)).foldl (fun l w => setIns l w) b.bpois })
    else s) s

/-! ### Engine time (R36, R48, R275, R382, R385) -/

/-- Cycles of an engine of a Block left in this tick. -/
def State.budgetOf (s : State) (g e : Nat) : Int := tget (s.blk g).budget e (s.budgetMax : Int)
def State.setBudget (s : State) (g e : Nat) (n : Int) : State :=
  s.updBlk g (fun b => { b with budget := tset b.budget e n (s.budgetMax : Int) })

/-- The pass value of a context on an engine (R382). -/
def Ctx.pass (x : Ctx) (e : Nat) : Nat := (tget x.v e 0).toNat

/-- Stride of a context (R382). -/
def Ctx.stride (x : Ctx) : Nat := 2 ^ 24 / x.share.toNat

/-- Charges cycles of an engine to a context: its pass value and its counts (R382, R385). A slot that is EMPTY by now is charged too: an
overrun of its program's last slice (R50), root work of a collective that it joined (R275). Log 111. Log 71. -/
def State.chargeCtx (s : State) (c e n : Nat) : State :=
  s.updCtx c (fun x => { x with v := tset x.v e (BitVec.ofNat 64 (x.pass e + n * x.stride)) 0,
                                cyc := tset x.cyc e (tget x.cyc e 0 + BitVec.ofNat 64 n) 0, cycCur := tset x.cycCur e (tget x.cycCur e 0 + n) 0 })

/-- Charges cycles of an engine against its budget and to a context. -/
def State.charge (s : State) (c e n : Nat) : State :=
  (s.setBudget (c / 16) e (s.budgetOf (c / 16) e - n)).chargeCtx c e n

/-! ### Requests (R163 to R167) -/

/-- Remote result stores of a collective that have no answer: entries of the reduce unit (R166, R267). -/
def Coll.openStores (x : Coll) : Nat := (x.stores.filter (·.remote)).length
/-- Resident entries of an engine of a Block in use (R166): its contexts' and, of the reduce unit, its roots' result stores. -/
def State.entries (s : State) (g e : Nat) : Nat :=
  ((s.ctxs.filter (fun x => x.1 / 16 = g && !x.2.parked)).map (fun x => (x.2.reqs.filter (fun r => r.eng.toNat = e && r.remote)).length)).sum
    + (if e = eRed then ((s.blk g).colls.map (fun x => match x.2 with | some c => c.openStores | none => 0)).sum else 0)

/-- An entry of an engine of a Block is freed: contexts that wait for one go on (R166, R381). -/
def State.entryFreed (s : State) (g : Nat) (e : Nat → Bool) : State :=
  { s with ctxs := s.ctxs.map (fun x =>
      if x.1 / 16 = g then (x.1, { x.2 with causes := x.2.causes.filter (fun k => !(k.why = 2 && k.eid.isNone && e k.src)) }) else x) }

/-- What became of a request that an engine wants to send: its number, a status at once, a wait for the page table, or for an entry or,
towards a DEID, for a tag. -/
inductive Sent where
  | ok (id : Nat)
  | fail (st : Status)
  | table
  | full (eid : Option Nat)
deriving DecidableEq, Repr

/-- Sends a request to its homes in this device, or lets it wait behind the Block's earlier ones (R100). -/
def State.sendHomes (s : State) (g : Nat) (m : Msg) (order : List Nat) (fails : Tbl Status) : State :=
  let m := { m with stamp := s.now }
  let hs := m.homes
  let (m, s) := if hs.length = 1 ∧ fails = [] then (m, s)
    else
      let (j, s) := s.newJoin m hs.length order fails
      ({ m with asker := .join j }, s)
  let wait := fun (s : State) => s.updBlk g (fun b => { b with outq := b.outq ++ [{ m with waits := true }] })
  if (s.blk g).outq.any (fun w => w.pkt.tc = m.pkt.tc) then wait s
  else
    let r : Route := { outs := m.homes.map (fun h => qBlk h 2) }
    match s.offer (qOfBlk g) (g % 2 = 0) m r with
    | some s => s
    | none => wait (s.beginWait m r)

/-- Records an outstanding request of a context. -/
def State.addReq (s : State) (c : Nat) (r : Req) : State :=
  s.updCtx c (fun x => { x with reqs := x.reqs ++ [r], reqNext := x.reqNext + 1 })

/-- A packet as this device sends it for a context of partition `p`. -/
def State.ownPkt (s : State) (p : Nat) (k : Pkt) : Pkt :=
  { k with tc := 2, seid := s.selfEid, sinc := s.selfInc, deid := s.selfEid, job := (s.part p).job, gen := (s.part p).gen }

/-- Sends a request of an engine for a context: checked (R27), to its homes here or to its home device under a tag (R165, R166). -/
def State.request (s : State) (c e : Nat) (idx : BitVec 16) (seq : Nat) (k : Pkt) (pos : Nat) (dest : Dest) : State × Sent :=
  let g := c / 16
  match s.partOfBlk g with
  | none => (s, .fail stNoTrans)
  | some p =>
    let k := s.ownPkt p k
    let id := (s.ctx c).reqNext
    let atom := (k.mtype.toNat = tAT : Bool)
    let base : Req := { id := id, eng := BitVec.ofNat 2 e, instr := idx, seq := seq, msg := { pkt := k, part := p }, remote := false, tagged := false,
                        first := s.now, last := s.now, pos := pos, dest := dest }
    let (s, f) := s.forward p g { pkt := k, asker := .req c id } (some (s.ctx c).segs)
    match f with
    | .nak st =>
      if st ≠ stRetry then (s, .fail st)
      else if atom then
        match s.tagTake g s.selfEid (.req c id) true with
        | none => (s, .full (some s.selfEid.toNat))
        | some (tag, s) => (s.addReq c { base with msg := { base.msg with pkt := { k with tag := tag } }, tagged := true, retry := true }, .ok id)
      else (s.addReq c { base with retry := true }, .ok id)
    | .wait => (s, .table)
    | .home m =>
      if atom then
        match s.tagTake g s.selfEid (.req c id) true with
        | none => (s, .full (some s.selfEid.toNat))
        | some (tag, s) =>
          let m := { m with pkt := { m.pkt with tag := tag } }
          ((s.addReq c { base with msg := { base.msg with pkt := { k with tag := tag } }, tagged := true }).sendHomes g m (m.lines.map (·.line)) [], .ok id)
      else ((s.addReq c base).sendHomes g m (m.lines.map (·.line)) [], .ok id)
    | .remote m =>
      if s.incOf m.pkt.deid = 0 then (s, .fail stDead)
      else if 1024 ≤ s.entries g e then (s, .full none)
      else match s.tagTake g m.pkt.deid (.req c id) atom with
        | none => (s, .full (some m.pkt.deid.toNat))
        | some (tag, s) =>
          let m : Msg := { m with pkt := { m.pkt with tag := tag }, asker := .wire }
          ((s.addReq c { base with msg := m, remote := true, tagged := true }).sendBlk g m, .ok id)
    | .list _ _ _ => (s, .fail stNoTrans)
    | .proxy _ _ _ => (s, .fail stNoTrans)

/-- MEMX of an LD or ST of `n` bytes at a context address, with the poison mask of a store. -/
def memxOf (a n pmask : Nat) : Slot := packSlot [(52, a), (4, 0), (12, n - 1), (24, 0), (32, pmask)]
def pktLd (a n : Nat) : Pkt := { tc := 2, mtype := 0, xslots := 1, x := [memxOf a n 0] }
def pktSt (a : Nat) (v : List Byte) (pmask : Nat) : Pkt :=
  let d := payloadSlots v a
  { tc := 2, mtype := 1, xslots := 1, len := BitVec.ofNat 9 d.length, x := [memxOf a v.length pmask], data := d }

/-! ### States (R380, R381) -/

/-- A cause recorded once per source. One that goes on keeps its place: the first that came is the one recorded (R381). -/
def Ctx.block (x : Ctx) (k : Cause) : Ctx :=
  if x.causes.any (fun y => y.src = k.src && y.why = k.why) then { x with causes := x.causes.map (fun y => if y.src = k.src then k else y) }
  else { x with causes := x.causes.filter (fun y => y.src ≠ k.src) ++ [k] }
def Ctx.unblock (x : Ctx) (src : Nat) : Ctx := { x with causes := x.causes.filter (fun y => y.src ≠ src) }

/-- Whether a context holds a program (R380), or one being submitted. -/
def Ctx.holds (x : Ctx) : Bool := x.state ≠ .empty || x.image.isSome

/-- The next instruction of a context, when its program area and descriptor table are its own (R388) and its word is clean. -/
inductive Fetch where
  | insn (w : BitVec 128)
  | fault (st : Status)
  | none
deriving DecidableEq, Repr

def State.fetch (s : State) (c : Nat) : Fetch :=
  let x := s.ctx c
  let o := x.proff.toNat + 16 * x.pcx
  if x.ninstr.toNat ≤ x.pcx then .none
  else if ¬(s.owns c x.proff.toNat (16 * x.ninstr.toNat) ∧ s.owns c x.dtoff.toNat 16384) then .fault stPerm
  else if s.bankBad c o 16 then .fault stPoison
  else .insn (BitVec.ofNat 128 (leNat (s.bankPeeks c o 16)))

/-- Descriptor `i` of a context's table, and whether it is poisoned. -/
def State.desc (s : State) (c i : Nat) : BitVec 512 × Bool :=
  let o := (s.ctx c).dtoff.toNat + 64 * i
  (BitVec.ofNat 512 (leNat (s.bankPeeks c o 64)), s.bankBad c o 64)

/-- Descriptor indices that an instruction names (R346, R355): its operands, and for a scan with TALLYON the tally descriptor and its
spill region. -/
def State.names (s : State) (c : Nat) (i : Insn) : List Nat :=
  let m := i.mod
  let ops : List Nat := match i.opc with
    | 0x01 => [i.d, i.a]
    | 0x02 => if m % 2 = 1 then [i.d] else [i.d, i.a]
    | 0x03 => [i.d, i.a]
    | 0x04 => [i.d]
    | 0x05 => [i.d, i.b]
    | 0x08 | 0x09 | 0x0A | 0x0B => [i.d, i.a, i.b]
    | 0x10 | 0x12 => [i.a]
    | 0x11 => [i.a, i.b]
    | 0x13 | 0x14 => [i.d, i.a, i.b]
    | 0x15 => [i.a]
    | 0x18 => [i.d, i.a]
    | 0x19 => match m % 8 with
      | 0 => [i.b]
      | 1 => [i.d, i.a, i.b]
      | 2 => [i.d, i.a, i.b]
      | _ => [i.d, i.b]
    | 0x1C => [i.d, i.a, i.b]
    | 0x1D => [i.d, i.a, i.b]
    | 0x20 => [i.d, i.a, i.b]
    | 0x21 | 0x22 => [i.d]
    | 0x28 => (if bits m 0 1 = 1 then [i.d] else []) ++ (if bits m 1 1 = 1 then [i.a] else []) ++ (if bits m 2 1 = 1 then [i.b] else [])
    | _ => []
  let scan := (s.desc c i.a).1
  if i.opc = 0x18 ∧ sbits scan (8 * 28 + 1) 1 = 1 then
    let t := sbits scan (8 * 29) 8
    ops ++ [t, sbits (s.desc c t).1 (8 * 56) 8]
  else ops

/-- Descriptor indices that an instruction writes (R355). -/
def State.writesOf (s : State) (c : Nat) (i : Insn) : List Nat :=
  let noD : List Nat := [0x10, 0x11, 0x12, 0x15, 0x28]
  let d := if noD.contains i.opc ∨ (i.opc = 0x19 ∧ i.mod % 8 = 0) then [] else [i.d]
  if i.opc = 0x19 then d ++ [i.b]
  else if i.opc = 0x18 then
    let scan := (s.desc c i.a).1
    if sbits scan (8 * 28 + 1) 1 = 1 then
      let t := sbits scan (8 * 29) 8
      d ++ [t, sbits (s.desc c t).1 (8 * 56) 8]
    else d
  else d

/-- The engine instruction in flight on an engine. -/
def Ctx.op (x : Ctx) (e : Nat) : Option Op := tget x.ops e none
def State.setOp (s : State) (c e : Nat) (o : Option Op) : State := s.updCtx c (fun x => { x with ops := tset x.ops e o none })
def Ctx.inFlight (x : Ctx) : List Op := x.ops.filterMap (·.2)

/-- Whether a BANKGIVE keeps a context from issuing (R387). -/
def State.giving (s : State) (c : Nat) : Bool :=
  match (s.blk (c / 16)).give with
  | some v => v.giver = some (c % 16)
  | none => false

/-- Whether issue is open: R355, condition 4. -/
def State.issueOpen (s : State) (c : Nat) : Bool :=
  let x := s.ctx c
  (x.state = .ready || x.state = .blocked) && !x.parked && x.hold.isNone && x.fence.isNone && !x.ending && !s.giving c

/-- The predicate that SKIP, or ENDLOOP with EXITIF, tests. -/
def Insn.tests (i : Insn) : Bool := i.opc = 0x2A || (i.opc = 0x29 && i.mod % 2 = 1)

/-- Whether the next instruction may issue (R355). -/
def State.mayIssue (s : State) (c : Nat) (i : Insn) : Bool :=
  let x := s.ctx c
  let e := engineOf i.opc
  let ns := s.names c i
  let prior := (if i.tests then tget (x.predSeq.map (fun z => (z.1, some z.2))) i.pred none else none : Option Nat)
  (4 ≤ e || (x.op e).isNone) && x.inFlight.all (fun o => !o.writes.any (fun k => ns.contains k))
    && x.inFlight.all (fun o => some o.seq ≠ prior)

def State.canIssue (s : State) (c : Nat) : Bool :=
  s.issueOpen c && (match s.fetch c with
    | .insn w => s.mayIssue c (insnOf w)
    | .fault _ => true
    | .none => false)

/-- The instruction of a context that an engine could work on now: its own, or for the scoring engine a scan's batch (R318). -/
def Ctx.work (x : Ctx) (e : Nat) : Option Op :=
  let free := fun (k : Nat) => x.causes.all (fun y => y.src ≠ k)
  let scan := match x.op eFilt with
    | some o => if e = eScor ∧ o.done.isNone ∧ o.phase = 1 ∧ free eFilt then some o else none
    | none => none
  match x.op e with
  | some o => if o.done.isNone ∧ free e ∧ ¬(e = eFilt ∧ o.phase = 1) then some o else if o.phase = 1 then none else scan
  | none => scan

/-- READY or BLOCKED, by R381. -/
def State.reviewCtx (s : State) (c : Nat) : State :=
  let x := s.ctx c
  if x.parked ∨ ¬(x.state = .ready ∨ x.state = .blocked) then s
  else
    let live := (List.range 4).any (fun e => (x.work e).isSome) || s.canIssue c
    match x.causes with
    | k :: _ =>
      if live then (if x.state = .ready then s else s.setCtx c { x with state := .ready, why := 0, since := BitVec.ofNat 28 s.now })
      else if x.state = .blocked then s.setCtx c { x with why := BitVec.ofNat 3 k.why, wsrc := k.src }
      else s.setCtx c { x with state := .blocked, why := BitVec.ofNat 3 k.why, wsrc := k.src, since := BitVec.ofNat 28 s.now, blkT := s.now }
    | [] => if x.state = .ready then s else s.setCtx c { x with state := .ready, why := 0, since := BitVec.ofNat 28 s.now }

/-! ### Ends of programs (R372, R380, R398) -/

/-- Sends a SUBDONE to the source of a context's program. -/
def State.subdone (s : State) (c : Nat) (st : Status) (idx : BitVec 16) : State :=
  let x := s.ctx c
  let p := match s.partOfBlk (c / 16) with | some p => s.part p | none => {}
  s.sendSq { pkt := { tc := 0, mtype := 3, deid := x.srcEid, seid := s.selfEid, sinc := s.selfInc, job := p.job, gen := p.gen, tag := x.srcTag,
                      len := 1, data := [packSlot [(16, st.toNat), (16, idx.toNat), (10, c), (22, 0), (64, s.now)]] } }

/-- Holds a tag for 512 ticks (R164). Log 51. -/
def State.holdTag (s : State) (r : Req) : State :=
  if r.tagged then s.tagSet r.msg.pkt.tag r.msg.pkt.deid (.held (endOf s.now 512)) else s

/-- Entries of an engine that a context's table holds (R166). -/
def Ctx.held (x : Ctx) (e : Nat) : Nat := (x.reqs.filter (fun r => r.eng.toNat = e && r.remote)).length

/-- The slot becomes EMPTY; its banks stay its own, its overrun count too, its pass values and cycle counts until the next program is
accepted (R51, R385, log 64). -/
def State.emptyCtx (s : State) (c : Nat) (st : Status) (idx : BitVec 16) : State :=
  let x := s.ctx c
  let s := x.reqs.foldl (fun s r => s.holdTag r) s
  let s := s.setCtx c { state := .empty, status := st, index := idx, since := BitVec.ofNat 28 s.now, reqNext := x.reqNext, share := x.share,
                        v := x.v, cyc := x.cyc, cycCur := x.cycCur, cycLast := x.cycLast, ovr := x.ovr }
  if x.parked then s else s.entryFreed (c / 16) (fun e => x.held e ≠ 0)

/-- A program ends: SUBDONE, then EMPTY. Log 126. -/
def State.endCtx (s : State) (c : Nat) (st : Status) (idx : BitVec 16) : State := (s.subdone c st idx).emptyCtx c st idx

/-- Whether the slice that an engine runs of its instruction of a resident context waits for data of this device's own pool (R49). -/
def State.sliceRuns (s : State) (c e : Nat) : Bool :=
  match tget (s.blk (c / 16)).run e none, (s.ctx c).op e with
  | some r, some o => r.ctx = c && r.wait.isSome && o.seq = r.seq && o.done.isNone && !(s.ctx c).parked
  | _, _ => false

/-- A context faults: it issues nothing more, its instructions stop but for a slice that an engine runs, its requests stay outstanding
(R397, R398). -/
def State.faultCtx (s : State) (c : Nat) (st : Status) (idx : BitVec 16) : State :=
  let x := s.ctx c
  if x.state = .empty ∨ x.state = .faulted then s
  else s.setCtx c { x with state := .faulted, status := st, index := idx, why := 0, since := BitVec.ofNat 28 s.now,
                           ops := x.ops.filter (fun y => s.sliceRuns c y.1), causes := [],
                           hold := none, fence := none, ending := false, cand := 0 }

/-- Statuses that always fault a context (R354). -/
def fatal (st : Status) : Bool := st = stInvalid || st = stOverrun || st = stTeardown || st = stConserv

/-- FENCE and END complete once nothing before them is in flight, FENCE once no request, abandoned ones too, lacks its response (R356, R359,
R394). A parked context goes on when it is brought in (R391). Log 116. -/
def State.settleIssue (s : State) (c : Nat) : State :=
  let x := s.ctx c
  if x.inFlight ≠ [] ∨ x.parked then s
  else if x.ending then s.endCtx c stOk 0xFFFF
  else match x.fence with
    | some p =>
      if x.reqs ≠ [] then s
      else s.setCtx c { x with fence := none, preds := if p = 0 then x.preds else x.preds ||| BitVec.ofNat 16 (2 ^ p.toNat) }
    | none => s

/-- What a completed instruction leaves: its outcome, its status, a fault (R353, R354). -/
def State.outcome (s : State) (c : Nat) (idx : BitVec 16) (pred : Nat) (st : Status) (outc : Bool) : State :=
  let x := s.ctx c
  let bit : BitVec 16 := BitVec.ofNat 16 (2 ^ pred)
  let one : Bool := st = stOk && outc
  let x := if pred = 0 then x else { x with preds := if one then x.preds ||| bit else x.preds &&& ~~~bit }
  let s := s.setCtx c x
  if st = stOk then s
  else if pred = 0 ∨ fatal st then s.faultCtx c st idx
  else s.updCtx c (fun x => { x with status := st, index := idx })

/-- The instruction on an engine of a context completes; that of a FAULTED one, with no outcome of its own (R398). -/
def State.complete (s : State) (c e : Nat) (st : Status) : State :=
  match (s.ctx c).op e with
  | none => s
  | some o =>
    let s := (s.setOp c e none).updCtx c (fun x => x.unblock e)
    if (s.ctx c).state = .faulted then s else (s.outcome c o.idx (sbits o.word 84 4) st o.outc).settleIssue c

/-- Requests of an instruction still outstanding. -/
def Ctx.openReqs (x : Ctx) (o : Op) : List Nat := (x.reqs.filter (fun r => r.seq = o.seq && !r.aband)).map (·.id)

/-- An instruction whose work is all issued completes once its requests are answered: with the status of its lowest failing position. Log 126. -/
def State.checkDone (s : State) (c e : Nat) : State :=
  let x := s.ctx c
  match x.op e with
  | none => s
  | some o => match o.done with
    | none => s
    | some st =>
      let away := (x.reqs.filter (fun r => r.seq = o.seq && !r.aband && r.remote)).map (·.id)
      if away ≠ [] then s.updCtx c (fun x => x.block { src := e, why := 1, ids := away })
      else if x.openReqs o ≠ [] then s
      else s.complete c e (match o.bad with | some (_, b) => b | none => st)

/-- A failing position of an instruction: the lowest governs. -/
def Op.fail (o : Op) (pos : Nat) (st : Status) : Op :=
  match o.bad with
  | some (p, _) => if pos < p then { o with bad := some (pos, st) } else o
  | none => { o with bad := some (pos, st) }

/-- A position fails. In a SCATTER the positions folded into its write (`acts`) share the outcome, and each is counted once in FAIL
(R286, R292). -/
def State.failAt (s : State) (c e : Nat) (pos : Nat) (st : Status) : State :=
  match (s.ctx c).op e with
  | none => s
  | some o =>
    let ps := if sbits o.word 120 8 = 0x14 then pos :: tget o.acts pos [] else []
    let new := ps.filter (fun p => !o.failed.contains p)
    let o := (tget o.acts pos []).foldl (fun (o : Op) p => if ps = [] then o else o.fail p st) (o.fail pos st)
    let s := s.setOp c e (some { o with failed := new.foldl setIns o.failed })
    if new = [] then s else s.updBlk (c / 16) (fun b => { b with gFail := satAdd b.gFail new.length })

/-- A cause of WHY 1 with nothing left to wait for. Log 65. -/
def Cause.past (k : Cause) : Bool := k.why = 1 && k.ids = [] && !k.pt && !k.go

/-! ### Answers to requests (R167, R178, R356, R393) -/

/-- Frees the entry and tag of a request; contexts that wait for the engine's entry may go on (R166, R381), `tagDrop` telling those that
wait for the tag. A request homed here holds no entry, one of a parked context none in an engine. -/
def State.freeReq (s : State) (c : Nat) (r : Req) (keepTag : Bool) : State :=
  let s := s.updCtx c (fun x => { x with reqs := x.reqs.filter (fun y => y.id ≠ r.id) })
  let s := if r.tagged then (if keepTag then s.holdTag r else s.tagDrop r.msg.pkt.tag r.msg.pkt.deid) else s
  if r.remote ∧ ¬(s.ctx c).parked then s.entryFreed (c / 16) (fun e => e = r.eng.toNat) else s

/-- The answered request is awaited no more: a cause all of whose requests are answered clears. -/
def Ctx.answered (x : Ctx) (id : Nat) : Ctx :=
  { x with causes := (x.causes.map (fun k => { k with ids := k.ids.filter (· ≠ id) })).filter (fun k =>
      !k.past) }

/-- Page-table entries have been read: contexts of the partition go on. -/
def State.tableRead (s : State) (p : Nat) : State :=
  { s with ctxs := s.ctxs.map (fun e =>
      if (s.part p).blocks.getLsbD (e.1 / 16) then
        (e.1, { e.2 with causes := (e.2.causes.map (fun k => { k with pt := false })).filter (fun k => !k.past) })
      else e) }

/-- Applies a completion to the instruction that asked: its data in the unit, its failing position, its outcome. -/
def State.takeReply (s : State) (c : Nat) (r : Req) (st : Status) (data : List Byte) (eq : Bool) : State :=
  let e := r.eng.toNat
  match (s.ctx c).op e with
  | none => s
  | some o =>
    if o.seq ≠ r.seq ∨ r.aband then s
    else
      let s := match r.dest with
        | .buf key _ => s.setOp c e (some { o with buf := if data = [] then o.buf else tins (tdel o.buf key) key data, bst := tset o.bst key st stOk })
        | .old _ _ (some _) => s.setOp c e (some { (if st = stOk then o else o.fail r.pos st) with outc := eq })
        | _ => if st = stOk then s else s.failAt c e r.pos st
      s.checkDone c e

/-- A request of a context is answered: data to banks at once, the rest now or, for a parked context, from its mailbox (R391, R393). -/
def State.reqDone (s : State) (c : Nat) (r : Req) (st : Status) (data : List Byte) (eq : Bool) (keepTag : Bool) : State :=
  let s := s.freeReq c r keepTag
  let s := s.updCtx c (fun x => x.answered r.id)
  if (s.ctx c).parked ∧ ¬r.aband then
    s.updCtx c (fun x => { x with mail := x.mail ++ [{ req := r, status := st, tick := s.now, match1 := eq }] })
  else ((s.takeReply c r st data eq).settleIssue c)

end Sys2Proof.Machine
end

