-- ==== Sys2Proof/Machine/Coll.lean ====
section
/-! DEFINITION. Collectives: accumulators, compact partials, slices, trees, ends (02 R52, R53; 09 R248 to R280). -/

namespace Sys2Proof.Machine

/-! ### Formats (R248, R249, R258) -/

/-- Width in bytes of an input format. -/
def inWidth (f : Nat) : Nat :=
  match f with
  | 0 => 4 | 1 => 2 | 2 => 2 | 3 => 1 | 4 => 1 | 5 => 8 | 6 => 4 | _ => 8
/-- Elements per cycle. -/
def inRate (f : Nat) : Nat := if f = 5 then 8 else if f = 7 then 32 else 64
/-- Width in bytes of an output format that is not PARTIAL. -/
def outWidth (f : Nat) : Nat := if f = 8 then 16 else inWidth f
/-- Limbs of the accumulator class of an input format, its scale and its slice-buffer entry (R249). -/
def limbsOf (f : Nat) : Nat := if f = 5 then 34 else if f = 6 ∨ f = 7 then 2 else 5
def scaleOf (f : Nat) : Nat := if f = 5 then 1074 else if f = 6 ∨ f = 7 then 0 else 149
def entryOf (f : Nat) : Nat := if f = 5 then 320 else if f = 6 ∨ f = 7 then 32 else 64
/-- Whether an output format is allowed (R258). -/
def outLegal (op i o : Nat) : Bool :=
  if op ≠ 0 then o = i
  else if i ≤ 4 then o ≤ 5 || o = 9
  else if i = 5 then o = 5 || o = 9
  else 6 ≤ o && o ≤ 9

/-! ### The descriptor (R257) -/

def cdBytes (d : BitVec 512) (o n : Nat) : Nat := sbits d (8 * o) (8 * n)
def cdCid (d : BitVec 512) : Nat := cdBytes d 0 2
def cdOp (d : BitVec 512) : Nat := sbits d 16 2
def cdIfmt (d : BitVec 512) : Nat := cdBytes d 3 1
def cdOfmt (d : BitVec 512) : Nat := cdBytes d 4 1
def cdRmode (d : BitVec 512) : Nat := sbits d 40 2
def cdSat (d : BitVec 512) : Bool := sbit d 42
def cdSlice (d : BitVec 512) : Nat := cdBytes d 6 1
def cdNelem (d : BitVec 512) : Nat := cdBytes d 8 8
def cdNsrc (d : BitVec 512) : Nat := cdBytes d 16 2
def cdNloc (d : BitVec 512) : Nat := cdBytes d 18 2
def cdParent (d : BitVec 512) : Nat := cdBytes d 20 2
def cdPsrc (d : BitVec 512) : Nat := cdBytes d 22 2
def cdGogrp (d : BitVec 512) : Nat := cdBytes d 24 2
def cdResgrp (d : BitVec 512) : Nat := cdBytes d 26 2
def cdTtl (d : BitVec 512) : Nat := cdBytes d 28 2
def cdResaddr (d : BitVec 512) : Nat := cdBytes d 32 8
def cdTop (d : BitVec 512) : Bool := cdParent d = 0xFFF
/-- Whether results go to memory. -/
def cdStores (d : BitVec 512) : Bool := cdResaddr d ≠ 2 ^ 64 - 1
/-- Elements per slice E, slices, and elements of slice `s`. -/
def cdElems (d : BitVec 512) : Nat := 16384 * 2 ^ cdSlice d / entryOf (cdIfmt d)
def cdSlices (d : BitVec 512) : Nat := cdiv (cdNelem d) (cdElems d)
def cdCount (d : BitVec 512) (s : Nat) : Nat := min (cdElems d) (cdNelem d - s * cdElems d)

/-- Whether a descriptor is legal (R257, R258, R260), but for a CID in use. -/
def cdLegal (d : BitVec 512) : Bool :=
  cdCid d ≠ 0xFFFF && cdOp d ≤ 2 && sbits d 18 6 = 0 && cdIfmt d ≤ 7 && outLegal (cdOp d) (cdIfmt d) (cdOfmt d) && sbits d 43 5 = 0
    && cdSlice d ≤ 3 && cdBytes d 7 1 = 0 && 1 ≤ cdNelem d && cdNelem d * inWidth (cdIfmt d) ≤ 2 ^ 34
    && 1 ≤ cdNsrc d && cdNsrc d ≤ 4096 && cdNloc d ≤ cdNsrc d && cdParent d ≤ 0xFFF && cdPsrc d ≤ 4095 && cdGogrp d ≤ 0xFFF
    && cdResgrp d ≤ 0xFFF && 1 ≤ cdTtl d && cdBytes d 30 2 = 0 && cdBytes d 40 24 = 0
    && (!cdStores d || cdResaddr d < 2 ^ 48)
    && (if cdTop d then cdPsrc d = 0 && (cdStores d || cdResgrp d ≠ 0xFFF) else !cdStores d)
    && (cdNloc d = cdNsrc d || cdGogrp d ≠ 0xFFF)

/-! ### Accumulators (R249 to R256) -/

/-- How special states combine (R251). -/
def Spec.join : Spec → Spec → Spec
  | .nan, _ => .nan
  | _, .nan => .nan
  | .pinf, .ninf => .nan
  | .ninf, .pinf => .nan
  | .pinf, _ => .pinf
  | _, .pinf => .pinf
  | .ninf, _ => .ninf
  | _, .ninf => .ninf
  | .negzero, .negzero => .negzero
  | _, _ => .finite
def Spec.code : Spec → Nat
  | .finite => 0 | .negzero => 1 | .pinf => 2 | .ninf => 3 | .nan => 4
def Spec.ofCode : Nat → Option Spec
  | 0 => some .finite | 1 => some .negzero | 2 => some .pinf | 3 => some .ninf | 4 => some .nan | _ => none
/-- Whether a state stands for no number. -/
def Spec.special (x : Spec) : Bool := x = .pinf || x = .ninf || x = .nan

/-- The empty accumulator. -/
abbrev accEmpty : Acc := .sum 0 .negzero

/-- The exact value of an input in its accumulator class, and its special state (R250). -/
def inValue (f v : Nat) : Int × Spec :=
  if f = 6 then (signed 32 v, .finite)
  else if f = 7 then (signed 64 v, .finite)
  else match (fmtOf f).decode v with
    | .nan => (0, .nan)
    | .inf neg => (0, if neg then .ninf else .pinf)
    | .zero neg => (0, if neg then .negzero else .finite)
    | .fin m e => (m * (2 ^ (e + (scaleOf f : Int)).toNat : Nat), .finite)

/-- Adds a value to an accumulator of `limbs` limbs, modulo its width (R250). -/
def Acc.add (limbs : Nat) (a : Acc) (n : Int) (sp : Spec) : Acc :=
  match a with
  | .sum m x => .sum (signed (64 * limbs) ((m + n) % (2 ^ (64 * limbs) : Nat)).toNat) (x.join sp)
  | .best v => .best v

/-- MIN or MAX of an entry and a value (R256); the empty entry holds no value. -/
def Acc.pick (f : Nat) (isMax : Bool) (a : Acc) (v : Nat) : Acc :=
  let two := fun (x y : Nat) =>
    if f = 6 ∨ f = 7 then
      let w := 8 * inWidth f
      if isMax = decide (signed w x ≤ signed w y) then y else x
    else (fmtOf f).minMax isMax x y
  match a with
  | .sum _ _ => .best (BitVec.ofNat 64 (two v v))
  | .best b => .best (BitVec.ofNat 64 (two b.toNat v))

/-- A finite sum limited to a signed format of `n` bits (R255). -/
def clampInt (n : Nat) (v : Int) : Nat :=
  let lo : Int := -((2 ^ (n - 1) : Nat) : Int)
  let hi : Int := ((2 ^ (n - 1) : Nat) : Int) - 1
  sfield n (if v < lo then lo else if hi < v then hi else v)

/-- The result of an accumulator in output format `o` (R253 to R255). -/
def Acc.result (f o rmode : Nat) (sat : Bool) (a : Acc) : Nat :=
  match a with
  | .best v => v.toNat
  | .sum n sp =>
    if o = 6 then clampInt 32 n
    else if o = 7 then clampInt 64 n
    else if o = 8 then sfield 128 n
    else
      let g := fmtOf o
      match sp with
      | .nan => g.nan
      | .pinf => g.encode rmode sat (.inf false)
      | .ninf => g.encode rmode sat (.inf true)
      | .negzero => g.signBit true
      | .finite => g.round rmode sat n (-(scaleOf f : Int))

/-! ### Partials (R271 to R273) -/

/-- The limbs of a number. -/
def limbList (limbs : Nat) (n : Int) : List Nat :=
  let u := (n % (2 ^ (64 * limbs) : Nat)).toNat
  (List.range limbs).map (fun k => bits u (64 * k) 64)

/-- A compact element (R271). -/
def compact (limbs : Nat) (n : Int) (sp : Spec) : List Byte :=
  if sp.special then leBytes 2 (sp.code * 2 ^ 13)
  else
    let ls := limbList limbs n
    let neg : Bool := decide (n < 0)
    let ext := if neg then 2 ^ 64 - 1 else 0
    let lo := (ls.findIdx? (fun x => x ≠ 0)).getD 0
    let top := ((List.range limbs).filter (fun k => lo ≤ k && nth ls k ≠ ext)).foldl (fun _ k => k + 1) lo
    let cnt := top - lo
    leBytes 2 (lo + cnt * 2 ^ 6 + b1 neg * 2 ^ 12 + sp.code * 2 ^ 13) ++ ((ls.drop lo).take cnt).flatMap (leBytes 8)

/-- Reads one compact element: its number, state and the bytes after it; none where R271 rejects it. -/
def uncompact (limbs : Nat) (l : List Byte) : Option (Int × Spec × List Byte) :=
  let w := natAt l 0 2
  let lo := bits w 0 6
  let n := bits w 6 6
  let s := bits w 12 1
  if l.length < 2 + 8 * n ∨ limbs < lo + n then none
  else match Spec.ofCode (bits w 13 3) with
    | none => none
    | some sp =>
      let body := natAt l 2 (8 * n) * 2 ^ (64 * lo)
      let high := if s = 1 then 2 ^ (64 * limbs) - 2 ^ (64 * (lo + n)) else 0
      some (signed (64 * limbs) (body + high), sp, l.drop (2 + 8 * n))

/-- Reads `k` compact elements. -/
def uncompacts (limbs : Nat) : Nat → List Byte → Option (List (Int × Spec))
  | 0, _ => some []
  | k + 1, l => match uncompact limbs l with
    | none => none
    | some (n, sp, r) => (uncompacts limbs k r).map (fun t => (n, sp) :: t)

/-- A PARTIAL result in memory (R273). -/
def fullPartial (limbs : Nat) (n : Int) (sp : Spec) : List Byte :=
  let n := if sp.special then 0 else n
  leBytes 2 (limbs * 2 ^ 6 + b1 (decide (n < 0)) * 2 ^ 12 + sp.code * 2 ^ 13) ++ leBytes 6 0 ++ (limbList limbs n).flatMap (leBytes 8)

/-- How an element goes out: as a message's bytes, and as memory's. -/
def Coll.wire (x : Coll) (a : Acc) (top : Bool) : List Byte :=
  let f := cdIfmt x.desc
  match a with
  | .sum n sp => if cdOp x.desc ≠ 0 then leBytes (inWidth f) 0
                 else if !top || cdOfmt x.desc = 9 then compact (limbsOf f) n sp
                 else leBytes (outWidth (cdOfmt x.desc)) (a.result f (cdOfmt x.desc) (cdRmode x.desc) (cdSat x.desc))
  | .best v => leBytes (inWidth f) v.toNat
def Coll.memory (x : Coll) (a : Acc) : List Byte :=
  match a with
  | .sum n sp => if cdOp x.desc = 0 ∧ cdOfmt x.desc = 9 then fullPartial (limbsOf (cdIfmt x.desc)) n sp else x.wire a true
  | .best _ => x.wire a true
/-- Bytes of an element in memory. -/
def Coll.memWidth (x : Coll) : Nat :=
  if cdOp x.desc = 0 ∧ cdOfmt x.desc = 9 then 8 + 8 * limbsOf (cdIfmt x.desc) else outWidth (cdOfmt x.desc)

/-- Elements split into packets of at most 4,096 B and 8,191 elements, none split (R272): first element, count, bytes. -/
def chunks : Nat → Nat → List Byte → List (List Byte) → List (Nat × Nat × List Byte)
  | first, n, cur, [] => if n = 0 then [] else [(first, n, cur)]
  | first, n, cur, e :: r =>
    if n ≠ 0 ∧ (4096 < cur.length + e.length ∨ n = 8191) then (first, n, cur) :: chunks (first + n) 1 e r
    else chunks first (n + 1) (cur ++ e) r

/-! ### Table entries -/

def State.coll (s : State) (g n : Nat) : Option Coll := tget (s.blk g).colls n none
def State.setColl (s : State) (g n : Nat) (x : Option Coll) : State := s.updBlk g (fun b => { b with colls := tset b.colls n x none })

/-- Where the admitted entry of a job's collective lies on this device. -/
def State.findColl (s : State) (job : JobId) (cid : Nat) : Option (Nat × Nat × Coll) :=
  s.blks.findSome? (fun e => e.2.colls.findSome? (fun c => match c.2 with
    | some x => if x.job = job ∧ cdCid x.desc = cid then some (e.1, c.1, x) else none
    | none => none))

/-- Banks that hold a slice buffer (R259). -/
def Block.bufBanks (b : Block) : List Nat := b.colls.flatMap (fun e => match e.2 with | some c => c.units.map (· / 32) | none => [])
/-- Free 16 KiB units of the area, in the order of R259; unit 32b + j is the j-th of bank b. -/
def Block.freeUnits (b : Block) : List Nat :=
  let used := b.colls.flatMap (fun e => match e.2 with | some c => c.units | none => [])
  ((maskList 16 b.bankArea).flatMap (fun i => (List.range 32).map (fun j => 32 * i + j))).filter (fun u => !used.contains u)

/-! ### Messages (R269, R270, R274) -/

/-- A COLX slot. -/
def colx (x : Coll) (elem count src : Nat) (last : Bool) (cstat ncontr : Nat) : Slot :=
  packSlot [(16, cdCid x.desc), (35, elem), (13, count), (12, src), (1, b1 last), (5, cstat), (32, x.dline), (13, ncontr)]

/-- Sends a message of a collective from Block `g`. -/
def State.sendColl (s : State) (g : Nat) (x : Coll) (mt deid : Nat) (cx : Slot) (body : List Byte) : State :=
  let gen := match s.partOfJob x.job with | some p => (s.part p).gen | none => 0
  let data := bytesSlots (cdiv body.length 16) body
  s.sendBlk g { pkt := { tc := 4, mtype := BitVec.ofNat 5 mt, deid := BitVec.ofNat 12 deid, seid := s.selfEid, sinc := s.selfInc, job := x.job,
                         gen := gen, len := BitVec.ofNat 9 data.length, xslots := 1, x := [cx], data := data } }

/-- Messages of a collective that still wait for an output queue: at the Block, or in a channel between Quarters (R266). Log 114. -/
def State.collQueued (s : State) (g : Nat) (x : Coll) : Bool :=
  let own := fun (k : Pkt) => k.tc = 4 && k.job = x.job && k.seid = s.selfEid && sbits ((k.x[0]?).getD 0) 0 16 = cdCid x.desc
  (s.blk g).outq.any (fun m => own m.pkt)
    || s.qs.any (fun z => (z.2.direct ++ z.2.transit).any (fun c => c.2.any (fun m => own m.pkt)))

/-! ### Ends (R268, R276 to R278) -/

/-- The participants of a collective on this device complete with its status (R268), those of a parked context when it is brought in (R380,
R391). Log 114. -/
def State.collWake (s : State) (job : JobId) (cid : Nat) (st : Status) : State :=
  (s.ctxs.map (·.1)).foldl (fun s c =>
    match (s.ctx c).op eRed with
    | some o =>
      let k := sbits o.word 120 8
      if (k = 0x11 ∨ k = 0x12) ∧ o.done.isNone ∧ cdCid o.a = cid ∧ s.jobOfCtx c = job then
        let s := (s.setOp c eRed (some { o with done := some st, bad := none })).updCtx c (fun x => x.unblock eRed)
        if (s.ctx c).parked then s else s.checkDone c eRed
      else s
    | none => s) s

/-- A collective ends on this device: its first END (R276 to R278). `came` is the neighbour it came from. Log 113. -/
def State.collEnd (s : State) (g n : Nat) (st : Status) (came : Option Nat) : State :=
  match s.coll g n with
  | none => s
  | some x =>
    if x.endSt.isSome then s
    else
      let d := x.desc
      let up := if ¬cdTop d ∧ st ≠ stOk ∧ came ≠ some (cdParent d) then [cdParent d] else []
      let goal := (up ++ [cdGogrp d] ++ (if cdTop d then [cdResgrp d] else [])).filter (· ≠ 0xFFF)
      let s := s.setColl g n (some { x with phase := 3, endSt := some st, endTick := s.now })
      let s := goal.eraseDups.foldl (fun s e => s.sendColl g x 4 e (colx x 0 0 0 false st.toNat 0) []) s
      s.collWake x.job (cdCid d) st

/-- An event that names a collective's job and root context. -/
def State.collEvent (s : State) (x : Coll) (e : Event) : Event :=
  let e := { e with job := x.job }.inCtx x.ctx
  match s.partOfJob x.job with
  | some p => e.inPart p (s.part p)
  | none => e

/-- A collective loses state (R267, R276): event, count, end. `part`: 0 slice buffer, 1 record, 2 result write. Log 113. -/
def State.collLost (s : State) (g n part : Nat) (st : Status) (dataHit : Bool) : State :=
  match s.coll g n with
  | none => s
  | some x =>
    let s := s.updBlk g (fun b => { b with lostCnt := satAdd b.lostCnt 1 })
    let s := s.raise (s.collEvent x { code := 0x30, cls := if part = 2 then 0 else 4, unit := uBlk g, flags := if dataHit then 8 else 0,
                                      d0 := BitVec.ofNat 64 (cdCid x.desc), d1 := BitVec.ofNat 64 part })
    s.collEnd g n st none

/-- A failed check of R264. -/
def State.collCount (s : State) (g n : Nat) : State :=
  match s.coll g n with
  | none => s
  | some x =>
    let s := s.updBlk g (fun b => { b with countErr := satAdd b.countErr 1 })
    let s := s.raise (s.collEvent x { code := 0x31, unit := uBlk g, d0 := BitVec.ofNat 64 (cdCid x.desc), d1 := BitVec.ofNat 64 x.slice })
    s.collEnd g n stStateLost none

/-- A deadline reached (R53, R278). -/
def State.collOverrun (s : State) (g n : Nat) : State :=
  match s.coll g n with
  | none => s
  | some x =>
    let s := s.updBlk g (fun b => { b with overrun := satAdd b.overrun 1 })
    let s := s.raise (s.collEvent x { code := 0x38, unit := uBlk g, d0 := x.idx.setWidth 64 })
    s.collEnd g n stOverrun none

/-! ### Delivery of a complete slice (R266, R267) -/

/-- The entries of the current slice in order. -/
def Coll.entries (x : Coll) : List Acc := (List.range (cdCount x.desc x.slice)).map (fun i => tget x.acc i accEmpty)

/-- The result bytes of the current slice. -/
def Coll.image (x : Coll) : List Byte := x.entries.flatMap x.memory

/-- Sends one result store of `v` at context address `a` (R27, R267): the state with it sent, a status, or a wait. -/
inductive StoreRes where
  | ok (s : State)
  | bad (s : State) (st : Status)
  | wait (s : State)

def State.collStore (s : State) (g n : Nat) (x : Coll) (a : Nat) (v : List Byte) : StoreRes :=
  match s.partOfJob x.job with
  | none => .bad s stNoTrans
  | some p =>
    let k := s.ownPkt p (pktSt a v 0)
    let id := x.storeNext
    let keep := fun (s : State) (m : Msg) (remote : Bool) =>
      s.setColl g n (some { x with outAt := x.outAt + v.length, storeNext := id + 1,
                                   stores := x.stores ++ [{ id := id, msg := m, remote := remote, first := s.now, last := s.now }] })
    match s.forward p g { pkt := k, asker := .coll g n id } (some x.segs) with
    | (s, .nak st) => if st = stRetry then .wait s else .bad s st
    | (s, .wait) => .wait s
    | (s, .home m) => .ok ((keep s { pkt := k, part := p } false).sendHomes g m (m.lines.map (·.line)) [])
    | (s, .remote m) =>
      if s.incOf m.pkt.deid = 0 then .bad s stDead
      else if 1024 ≤ s.entries g eRed then .wait s
      else match s.tagTake g m.pkt.deid (.coll g n id) with
        | none => .wait s
        | some (tag, s) =>
          let m : Msg := { m with pkt := { m.pkt with tag := tag }, asker := .wire }
          .ok ((keep s m true).sendBlk g m)
    | (s, _) => .bad s stNoTrans

/-- Issues result stores until all are issued or one must wait. `v`: the slice's bytes; fuel bounds the pieces. Log 112. -/
def State.collStores (s : State) (g n : Nat) (v : List Byte) : Nat → State
  | 0 => s
  | fuel + 1 =>
    match s.coll g n with
    | none => s
    | some x =>
      let left := v.length - x.outAt
      if left = 0 ∨ x.endSt.isSome then s
      else
        let a := cdResaddr x.desc + x.slice * cdElems x.desc * x.memWidth + x.outAt
        let k := nextPiece a left
        match s.collStore g n x a (bytesAt v x.outAt k) with
        | .ok s => s.collStores g n v fuel
        | .bad s st => s.collLost g n 2 st false
        | .wait s => s

/-! ### The reduce unit's candidates (R275, R382 to R384) -/

/-- The slice that an engine holds while it waits for data of this device's own pool: its context, its instruction, its cycles left (R49). Log 62. -/
def State.waiting (s : State) (g e : Nat) : Option (Nat × Op × Nat) :=
  match tget (s.blk g).run e none with
  | some r => match r.wait, (s.ctx r.ctx).op e with
    | some n, some o => if o.seq = r.seq ∧ o.done.isNone ∧ ¬(s.ctx r.ctx).parked then some (r.ctx, o, n) else none
    | _, _ => none
  | none => none

/-- Whether a complete slice may be rounded or sent on: below the top once the parent has opened it (R266). -/
def Coll.ripe (x : Coll) : Bool := x.phase = 2 && !x.empty && !x.sent && x.endSt.isNone && (cdTop x.desc || decide (x.slice < x.parentGo))
/-- Cycles of rounding, or of sending on, the current slice (R275). -/
def Coll.outCost (x : Coll) : Nat := cdiv (cdCount x.desc x.slice) (inRate (cdIfmt x.desc))

/-- What a TC4 message means to its Block (R53, R265, R266, R277): discarded, an END, the parent's SLICEGO with the deadline it gives, or
elements for an open slice with their cycles. -/
inductive CollAct where
  | stray
  | ended (n : Nat) (st : Status) (came : Nat)
  | opened (n dl : Nat)
  | take (n : Nat) (x : Coll) (cyc : Nat) (raw : Bool) (first count src ncontr : Nat) (last : Bool) (body : List Byte)
deriving DecidableEq, Repr

/-- The tick nearest `now` whose low 32 bits are given (R270). -/
def dlineOf (now d : Nat) : Nat :=
  let k := (d + 2 ^ 32 - now % 2 ^ 32) % 2 ^ 32
  if k < 2 ^ 31 then now + k else now + k - 2 ^ 32

/-- The entry number of a message's collective at a Block. -/
def State.collAt (s : State) (g : Nat) (job : JobId) (cid : Nat) : Option (Nat × Coll) :=
  (s.blk g).colls.findSome? (fun c => match c.2 with
    | some x => if x.job = job ∧ cdCid x.desc = cid ∧ x.endSt.isNone then some (c.1, x) else none
    | none => none)

/-- Judges a TC4 message at a Block (R53, R264 to R266, R277). The parent's SLICEGOs come in order, each for the slice after the last one it
opened. Log 113. -/
def State.collJudge (s : State) (g : Nat) (m : Msg) : CollAct :=
  let k := m.pkt.mtype.toNat
  let cx := m.pkt.memx
  let f := fun lo w => bits cx lo w
  match s.collAt g m.pkt.job (f 0 16) with
  | none => .stray
  | some (n, x) =>
    let d := x.desc
    let port := s.port m.lane
    let edge : Bool := m.ingress = 1 && port.role = 1 && port.job ≠ m.pkt.job
    let parent : Bool := !cdTop d && m.pkt.seid.toNat = cdParent d
    let dl := dlineOf s.now (f 82 32)
    let count := f 51 13
    let first := f 16 35
    if edge ∨ (dl ≠ x.dline ∧ ¬(parent ∧ k = 2 ∧ x.parentGo = 0)) then .stray
    else if k = 4 then
      let st : Status := BitVec.ofNat 5 (f 77 5)
      if parent then .ended n st (cdParent d)
      else if st ≠ stOk then .ended n st m.pkt.seid.toNat else .stray
    else if dl ≤ m.stamp then .stray
    else if k = 2 then
      if parent ∧ x.parentGo < cdSlices d ∧ first = x.parentGo * cdElems d ∧ count = cdCount d x.parentGo then .opened n dl else .stray
    else
      let src := f 64 12
      let lo := x.slice * cdElems d
      let body := slotsBytes m.pkt.data
      let raw : Bool := k = 0
      let short : Bool := (raw || cdOp d ≠ 0) && body.length < count * inWidth (cdIfmt d)
      if 1 < k ∨ x.phase ≠ 1 ∨ cdNsrc d ≤ src ∨ count = 0 ∨ first < lo ∨ lo + cdCount d x.slice < first + count ∨ short then .stray
      else
        let cyc := if raw then cdiv count (inRate (cdIfmt d)) else max (cdiv count 64) (cdiv body.length 256)
        .take n x cyc raw first count src (f 114 13) (f 76 1 = 1) body

/-- The TC4 message at the head of a Block's queue. -/
def State.collHead (s : State) (g : Nat) : Option (Msg × State) := (s.takeHead (qOfBlk g) (nBlk g 4)).map (fun x => (x.1.msg, x.2))

/-- The root work at hand in a Block's reduce unit: root context and cycles of each piece (R275). -/
def State.collWork (s : State) (g : Nat) : List (Nat × Nat) :=
  (match s.collHead g with
    | some (m, _) => match s.collJudge g m with
      | .take _ x cyc _ _ _ _ _ _ _ => [(x.ctx, cyc)]
      | _ => []
    | none => [])
  ++ (s.blk g).colls.filterMap (fun e => match e.2 with
    | some x => if x.ripe then some (x.ctx, x.outCost) else none
    | none => none)

/-- Contexts with an instruction that the reduce unit could work on, with the cycles of its slice. -/
def State.redSlices (s : State) (g : Nat) : List (Nat × Nat) :=
  (s.ctxs.filter (fun x => x.1 / 16 = g && x.2.state = .ready && !x.2.parked)).filterMap (fun x => (x.2.work eRed).map (fun o => (x.1, (insnOf o.word).c)))

/-- Whether work that fits the budget left comes before that of context `c`: a smaller pass value, or an equal one in a lower slot (R383). -/
def State.redBeaten (s : State) (g c : Nat) (l : List (Nat × Nat)) : Bool :=
  let v := fun k => (s.ctx k).pass eRed
  l.any (fun y => decide ((y.2 : Int) ≤ s.budgetOf g eRed) && (decide (v y.1 < v c) || (v y.1 = v c && decide (y.1 < c))))

/-- Whether a Block's reduce unit takes up `cyc` cycles of root work of context `c` now: it is free, they fit, and no other candidate comes
first, the context parked or not (R275, R383). Log 111. -/
def State.redTurn (s : State) (g c cyc : Nat) : Bool :=
  (s.waiting g eRed).isNone && decide ((cyc : Int) ≤ s.budgetOf g eRed) && !s.redBeaten g c (s.redSlices g ++ s.collWork g)

/-- Starts or goes on with the delivery of a complete slice: the top rounds and sends results and stores, any other root sends its
PARTIALs once its parent has opened the slice. The rounding is charged to the root context, in its turn (R275, R383). -/
def State.collDeliver (s : State) (g n : Nat) : State :=
  match s.coll g n with
  | none => s
  | some x =>
    if x.phase ≠ 2 ∨ x.empty ∨ x.endSt.isSome then s
    else
      let d := x.desc
      let top := cdTop d
      let cyc := x.outCost
      let s : State :=
        if x.ripe = false ∨ s.redTurn g x.ctx cyc = false then s
        else
          let s := (s.charge x.ctx eRed cyc).setColl g n (some { x with sent := true })
          let first := x.slice * cdElems d
          let cs := chunks 0 0 [] (x.entries.map (fun a => x.wire a top))
          if top ∧ cdResgrp d = 0xFFF then s
          else ((List.range cs.length).zip cs).foldl (fun s c =>
            let (i, e, k, b) := c
            if top then s.sendColl g x 3 (cdResgrp d) (colx x (first + e) k 0 false 0 0) b
            else s.sendColl g x 1 (cdParent d) (colx x (first + e) k (cdPsrc d) (i + 1 = cs.length) 0 x.ncontr) b) s
      match s.coll g n with
      | none => s
      | some y => if y.sent ∧ top ∧ cdStores d then
          let v := y.image
          s.collStores g n v v.length
        else s

/-- Whether a root below the top has sent the last PARTIAL of its last slice (R53, R276). -/
def Coll.lastSent (x : Coll) : Bool := !cdTop x.desc && (x.waitEnd || (x.phase = 2 && x.sent && x.slice + 1 = cdSlices x.desc))

/-- Whether everything of a slice's delivery is done. -/
def State.collDelivered (s : State) (g : Nat) (x : Coll) : Bool :=
  x.phase = 2 && x.sent && !x.empty && x.stores = [] && x.endSt.isNone && !s.collQueued g x
    && (!(cdTop x.desc && cdStores x.desc) || x.outAt = cdCount x.desc x.slice * x.memWidth)

/-- The buffer is empty: the next slice may open, or the collective is over here (R266 to R268, R53). -/
def State.collSliceDone (s : State) (g n : Nat) : State :=
  match s.coll g n with
  | none => s
  | some x =>
    if ¬s.collDelivered g x then s
    else if x.slice + 1 < cdSlices x.desc then
      s.setColl g n (some { x with slice := x.slice + 1, empty := true, acc := [] })
    else if cdTop x.desc then (if s.now < x.dline then s.collEnd g n stOk none else s.collOverrun g n)
    else s.setColl g n (some { x with empty := true, acc := [], waitEnd := true })

/-- Changes a result store. -/
def State.updStore (s : State) (g n id : Nat) (f : CollStore → CollStore) : State :=
  match s.coll g n with
  | some x => s.setColl g n (some { x with stores := x.stores.map (fun y => if y.id = id then f y else y) })
  | none => s

/-- Sends a result store again: a remote one as it was, one homed here through its checks, both under the current generation (R167, R178). Log 112. -/
def State.collSend (s : State) (g n : Nat) (x : Coll) (r : CollStore) : State :=
  match s.partOfJob x.job with
  | none => s
  | some p =>
    let later := fun (s : State) => s.updStore g n r.id (fun y => { y with last := s.now, retry := true })
    let sent := fun (s : State) (m : Msg) (remote : Bool) => s.updStore g n r.id (fun y => { y with msg := m, remote := remote, last := s.now, retry := false })
    if r.remote then
      let m := { r.msg with pkt := { r.msg.pkt with gen := (s.part p).gen } }
      (sent s m true).sendBlk g m
    else
      let k := s.ownPkt p r.msg.pkt
      match s.forward p g { pkt := k, asker := .coll g n r.id } (some x.segs) with
      | (s, .home m) => (sent s { pkt := k, part := p } false).sendHomes g m (m.lines.map (·.line)) []
      | (s, .nak st) => if st = stRetry then later s else s.collLost g n 2 st false
      | (s, .remote m) =>
        if s.incOf m.pkt.deid = 0 then s.collLost g n 2 stDead false
        else if 1024 ≤ s.entries g eRed then later s
        else match s.tagTake g m.pkt.deid (.coll g n r.id) with
          | none => later s
          | some (tag, s) =>
            let m : Msg := { m with pkt := { m.pkt with tag := tag }, asker := .wire }
            (sent s m true).sendBlk g m
      | (s, .wait) => s.updStore g n r.id (fun y => { y with retry := true })
      | (s, _) => s

/-- A result store leaves its entry: contexts that wait for one go on (R166). -/
def State.storeGone (s : State) (g n : Nat) (r : CollStore) : State :=
  match s.coll g n with
  | some x => (s.setColl g n (some { x with stores := x.stores.filter (fun y => y.id ≠ r.id) })).entryFreed g (fun e => r.remote && e = eRed)
  | none => s

/-- Resends unanswered stores every RTO ticks and gives up after TOUT (R167, R180). Log 112. -/
def State.collResend (s : State) (g n : Nat) : State :=
  match s.coll g n, (match s.coll g n with | some x => s.partOfJob x.job | none => none) with
  | some x, some p =>
    let tout := (s.part p).tout.toNat
    let rto := (s.part p).rto.toNat
    match x.stores.find? (fun r => endOf r.first tout ≤ s.now && (r.remote || r.retry)) with
    | some r =>
      let s := if r.remote then s.tagSet r.msg.pkt.tag r.msg.pkt.deid (.held (endOf s.now 512)) else s
      ((s.storeGone g n r).timedOut g p r.msg.pkt (some x.ctx)).collLost g n 2 stDead false
    | none => x.stores.foldl (fun s r => if (r.remote ∨ r.retry) ∧ r.last + rto ≤ s.now then s.collSend g n x r else s) s
  | _, _ => s

/-- A result store is answered (R178, R267, R365): RETRY_LATER and POLICED wait for the next RTO, the first MAPSTALE is sent again at once.
Log 112. -/
def State.collStored (s : State) (g n id : Nat) (st : Status) : State :=
  match s.coll g n with
  | none => s
  | some x =>
    match x.stores.find? (fun r => r.id = id) with
    | none => s
    | some r =>
      if (st = stRetry ∨ st = stPoliced) ∧ x.endSt.isNone then s.updStore g n id (fun y => { y with retry := true })
      else if st = stMapStale ∧ !r.stale1 ∧ x.endSt.isNone then (s.updStore g n id (fun y => { y with stale1 := true })).collSend g n x r
      else
        let s := s.storeGone g n r
        let s := if r.remote then s.tagDrop r.msg.pkt.tag r.msg.pkt.deid else s
        if st = stOk ∨ x.endSt.isSome then s else s.collLost g n 2 st false

/-! ### Slices at the root (R262 to R265, R275) -/

/-- Opens the next slice: an empty buffer, a SLICEGO to the group, local sources told (R262). -/
def State.collOpen (s : State) (g n : Nat) : State :=
  match s.coll g n with
  | none => s
  | some x =>
    let d := x.desc
    if x.endSt.isSome ∨ ¬x.empty ∨ x.waitEnd ∨ cdSlices d ≤ x.slice ∨ (¬cdTop d ∧ x.parentGo = 0) then s
    else
      let x := { x with phase := 1, empty := false, acc := [], taken := 0, lasts := [], dup := false, kinds := [], sent := false, outAt := 0 }
      let s := s.setColl g n (some x)
      let s := if cdGogrp d = 0xFFF then s
               else s.sendColl g x 2 (cdGogrp d) (colx x (x.slice * cdElems d) (cdCount d x.slice) 0 false 0 0) []
      { s with ctxs := s.ctxs.map (fun e =>
          match e.2.op eRed with
          | some o => if cdCid o.a = cdCid d ∧ s.jobOfCtx e.1 = x.job then
              (e.1, { e.2 with causes := (e.2.causes.map (fun k => if k.src = eRed then { k with go := false } else k)).filter (fun k => !k.past) })
            else e
          | none => e) }

/-- A slice is complete: the checks of R264, then its delivery. -/
def State.collComplete (s : State) (g n : Nat) : State :=
  match s.coll g n with
  | none => s
  | some x =>
    let d := x.desc
    let count := cdNloc d + ((x.kinds.filter (fun e => cdNloc d ≤ e.1 || 2 ≤ e.2)).map (fun e => if e.2 = 1 then 1 else e.2 - 2)).sum
    let partials := x.kinds.filter (fun e => 2 ≤ e.2)
    let bad := x.dup || x.taken ≠ cdNsrc d * cdCount d x.slice || 4096 < count
      || partials.any (fun e => tget x.prior e.1 e.2 ≠ e.2)
    if bad then (s.setColl g n (some { x with phase := 2 })).collCount g n
    else
      let prior := partials.foldl (fun t e => tins (tdel t e.1) e.1 e.2) x.prior
      (s.setColl g n (some { x with phase := 2, ncontr := count, prior := prior })).collDeliver g n

/-- Takes the elements of a CONTRIB or PARTIAL into the buffer. Log 113. -/
def State.collTake (s : State) (g n : Nat) (x : Coll) (raw : Bool) (first count src ncontr : Nat) (last : Bool) (body : List Byte) : State :=
  let d := x.desc
  let f := cdIfmt d
  let w := inWidth f
  let at0 := first - x.slice * cdElems d
  let fixed := raw || cdOp d ≠ 0
  let acc : Option (Tbl Acc) :=
    if fixed then
      some ((List.range count).foldl (fun t i =>
        let v := natAt body (w * i) w
        let a := tget t (at0 + i) accEmpty
        let b := if cdOp d = 0 then (let (m, sp) := inValue f v; a.add (limbsOf f) m sp) else a.pick f (cdOp d = 2) v
        tset t (at0 + i) b accEmpty) x.acc)
    else match uncompacts (limbsOf f) count body with
      | none => none
      | some es => some (((List.range count).zip es).foldl (fun t e =>
          tset t (at0 + e.1) ((tget t (at0 + e.1) accEmpty).add (limbsOf f) e.2.1 e.2.2) accEmpty) x.acc)
  match acc with
  | none => s.collCount g n
  | some acc =>
    let x : Coll := { x with
      acc := acc, taken := x.taken + count, dup := x.dup || (last && x.lasts.contains src),
      lasts := if last then setIns x.lasts src else x.lasts, kinds := tins (tdel x.kinds src) src (if raw then 1 else 2 + ncontr) }
    let s := s.setColl g n (some x)
    if x.lasts.length = cdNsrc d then s.collComplete g n else s

/-! ### Messages at a root (R53, R265, R266, R277) -/

/-- A message discarded (R265). Log 113. -/
def State.collStray (s : State) (g : Nat) : State := s.updBlk g (fun b => { b with stray := satAdd b.stray 1 })

/-- Takes the TC4 message at the head of a Block's queue when it is of a type of `want`: acted on, or discarded as a stray. Elements wait until
the reduce unit takes up their cycles (R275, R383). Logs 111, 113. -/
def State.collMsg (s : State) (g : Nat) (want : Nat → Bool) : State :=
  match s.collHead g with
  | none => s
  | some (m, t) =>
    if ¬want m.pkt.mtype.toNat then s
    else match s.collJudge g m with
      | .stray => t.collStray g
      | .ended n st came => t.collEnd g n st (some came)
      | .opened n dl =>
        (match t.coll g n with
          | some x => t.setColl g n (some { x with parentGo := x.parentGo + 1, dline := if x.parentGo = 0 then dl else x.dline })
          | none => t).collDeliver g n
      | .take n x cyc raw first count src ncontr last body =>
        if s.redTurn g x.ctx cyc then (t.charge x.ctx eRed cyc).collTake g n x raw first count src ncontr last body else s

/-- The reduce unit takes up the root work whose turn it is: the message at the head, or a complete slice (R275, R383). Log 111. -/
def State.rootWork (s : State) (g : Nat) : State :=
  let head : Bool := match s.collHead g with
    | some (m, _) => (match s.collJudge g m with
      | .take _ x cyc _ _ _ _ _ _ _ => s.redTurn g x.ctx cyc
      | _ => false)
    | none => false
  if head then s.collMsg g (fun k => k = 0 || k = 1)
  else match (s.blk g).colls.find? (fun e => match e.2 with | some x => x.ripe && s.redTurn g x.ctx x.outCost | none => false) with
    | some e => s.collDeliver g e.1
    | none => s

/-! ### Admission (R52, R259, R260, R366) -/

/-- Whether an EID or group names another device (R44). -/
def State.offDevice (s : State) (p : Nat) (e : Nat) : Bool :=
  let map := (s.part p).map
  match tfind map.groups e with
  | some (_, lanes) => lanes.any (fun l => (s.port l).role = 2)
  | none => match tfind map.ents e with
    | some (.trunk _) => true
    | some (.port l) => (s.port l).role = 2
    | _ => false

/-- RJOIN: admits a collective at the Block of context `c`, or gives a status (R260). -/
def State.collJoin (s : State) (c : Nat) (idx : BitVec 16) (d : BitVec 512) : State × Status :=
  let g := c / 16
  let job := s.jobOfCtx c
  let p := (s.partOfBlk g).getD 0
  let b := s.blk g
  let need := 2 ^ cdSlice d
  let free := b.freeUnits
  if ¬cdLegal d ∨ (s.findColl job (cdCid d)).isSome then (s, stInvalid)
  else if s.tb.state = TbState.unaligned ∧ (¬cdTop d ∨ s.offDevice p (cdGogrp d)) then (s, stRetry)
  else match (List.range 32).find? (fun n => (tget b.colls n none).isNone) with
    | none => (s, stDenied)
    | some n =>
      if free.length < need then (s, stDenied)
      else (s.setColl g n (some { desc := d, job := job, ctx := c, idx := idx, segs := (s.ctx c).segs, dline := s.now + cdTtl d,
                                  units := free.take need }), stOk)

/-! ### States and candidates brought up to date (R381, R383, R384) -/

/-- Candidates of an engine of a Block (R383), by the flags kept for R384. -/
def State.cands (s : State) (g e : Nat) : List Nat := (s.ctxs.filter (fun x => x.1 / 16 = g && x.2.cand.getLsbD e)).map (·.1)

/-- Marks a context a candidate of an engine or not, by its next slice or, parked or not, by root work at hand (R383); one that becomes a
candidate takes at least the smallest pass value of those that were candidates in `was` (R384). -/
def State.reviewCand (was s : State) (c e : Nat) : State :=
  let x := s.ctx c
  let now : Bool := (x.state = .ready && !x.parked && (x.work e).isSome) || (e = eRed && (s.collWork (c / 16)).any (fun w => w.1 = c))
  let bit : BitVec 4 := BitVec.ofNat 4 (2 ^ e)
  if now = x.cand.getLsbD e then s
  else if ¬now then s.setCtx c { x with cand := x.cand &&& ~~~bit }
  else
    let vs := (was.cands (c / 16) e).map (fun k => (was.ctx k).pass e)
    let v := match vs with | [] => x.pass e | a :: r => max (x.pass e) (r.foldl min a)
    s.setCtx c { x with cand := x.cand ||| bit, v := tset x.v e (BitVec.ofNat 64 v) 0 }

/-- Brings states and candidates up to date. -/
def State.review (s : State) : State :=
  let cs := s.ctxs.map (·.1)
  let t := cs.foldl State.reviewCtx s
  cs.foldl (fun u c => (List.range 4).foldl (fun u e => t.reviewCand u c e) u) t

end Sys2Proof.Machine
end

