-- ==== Sys2Proof/Machine/Park.lean ====
section
/-! DEFINITION. Parking and bringing in of contexts (13 R390 to R395), fencing of a partition (14 R417), ends of jobs' contexts (06 R182). -/

namespace Sys2Proof.Machine

/-- Whether a parked context may be brought in (R390): the cause recorded for it has cleared. -/
def Ctx.runnable (x : Ctx) : Bool := x.state = .swapped && (x.why = 0 || x.causes.all (fun k => k.src ≠ x.wsrc))

/-- Whether the free entries of every engine of a Block cover the entries that a parked context holds, with `more` entries of each
engine freed. -/
def State.entriesFit (s : State) (g : Nat) (x : Ctx) (more : Nat → Nat) : Bool :=
  (List.range 4).all (fun e => x.held e ≤ 1024 - s.entries g e + more e)

/-- Contexts of a Block, by slot. -/
def State.ctxsOf (s : State) (g : Nat) : List (Nat × Ctx) := s.ctxs.filter (fun x => x.1 / 16 = g)

/-- The candidate to bring in: the runnable one parked longest ago, then the lowest slot (R390). -/
def State.bringCand (s : State) (g : Nat) : Option (Nat × Ctx) :=
  match (s.ctxsOf g).filter (fun x => x.2.runnable) with
  | [] => none
  | a :: r => some (r.foldl (fun (b : Nat × Ctx) x => if x.2.parkT < b.2.parkT then x else b) a)

/-- Whether a batch of a context is in progress on the scoring engine (R318, R392). -/
def Ctx.inBatch (x : Ctx) : Bool := x.inFlight.any (fun o => o.phase = 1 && (engineOf (sbits o.word 120 8) = eFilt || engineOf (sbits o.word 120 8) = eScor))

/-- Whether a slice of a context is running: it waits for data of this device's own pool (R49, R392). -/
def State.inSlice (s : State) (c : Nat) : Bool :=
  (List.range 4).any (fun e => s.sliceRuns c e)

/-- Contexts that step 3 of R390 may park: BLOCKED, not brought in within the last 8 ticks (R35), with no batch in progress. -/
def State.parkable (s : State) (g : Nat) : List (Nat × Ctx) :=
  (s.ctxsOf g).filter (fun x => x.2.state = .blocked && !x.2.inBatch && (match x.2.inT with | some t => endOf t 8 ≤ s.now | none => true))

/-- The context parked first: blocked longest, then the highest slot (R390). -/
def State.parkCand (s : State) (g : Nat) : Option (Nat × Ctx) :=
  match s.parkable g with
  | [] => none
  | a :: r => some (r.foldl (fun (b : Nat × Ctx) x => if b.2.blkT < x.2.blkT then b else x) a)

/-- Every resident context of a Block that holds a program is BLOCKED (R390). -/
def State.allBlocked (s : State) (g : Nat) : Bool :=
  (s.ctxsOf g).all (fun x => x.2.state = .empty || x.2.parked || x.2.state = .blocked)

/-- Parks a context (R392, R394): its reads into internal buffers are abandoned, its entries leave the engines. Log 116. -/
def State.parkCtx (s : State) (c : Nat) (st : CtxState) : State :=
  let x := s.ctx c
  let internal := fun (r : Req) => (match r.dest with | .buf _ _ => true | _ => false) && !r.aband
  let n := (x.reqs.filter internal).length
  let x : Ctx := { x with
    state := st, since := BitVec.ofNat 28 s.now, parked := true, parkT := s.now, cand := 0
    reqs := x.reqs.map (fun r => if internal r then { r with aband := true } else r)
    ops := x.ops.map (fun e => (e.1, e.2.map (fun o => { o with
      buf := [], bst := [], unit := if sbits o.word 120 8 = 0x15 then o.unit / 4096 * 4096 else o.unit }))) }
  let s := (s.setCtx c x).updBlk (c / 16) (fun b => { b with abandon := satAdd b.abandon n })
  s.entryFreed (c / 16) (fun e => x.held e ≠ 0)

/-- Brings a parked context in (R391): its entries, its mailbox in order of arrival, its state. Log 116. -/
def State.bringIn (s : State) (c : Nat) : State :=
  let x := s.ctx c
  let gone := (x.reqs.filter (·.aband)).map (·.id)
  let s := s.setCtx c { x with
    state := .ready, why := 0, since := BitVec.ofNat 28 s.now, parked := false, inT := some s.now, mail := []
    causes := (x.causes.map (fun k => { k with ids := k.ids.filter (fun i => !gone.contains i) })).filter (fun k => !k.past) }
  let s := x.mail.foldl (fun s m => (s.takeReply c m.req m.status [] m.match1).settleIssue c) s
  let s := ((List.range 4).foldl (fun s e => s.checkDone c e) s).settleIssue c
  (s.updBlk (c / 16) (fun b => { b with bringIn := satAdd b.bringIn 1 })).review

/-- CONTEXT_BRING_IN: the candidate comes in when its entries fit (R390). -/
def State.bringNext (s : State) (g : Nat) : State :=
  match s.bringCand g with
  | some (c, x) => if s.entriesFit g x (fun _ => 0) then s.bringIn c else s
  | none => s

/-- CONTEXT_PARK: one context parks to make room for a candidate whose entries do not fit (R390). -/
def State.parkNext (s : State) (g : Nat) : State :=
  match s.bringCand g, s.parkCand g with
  | some (_, x), some (c, _) =>
    let could := fun (e : Nat) => ((s.parkable g).map (fun y => y.2.held e)).sum
    if s.entriesFit g x (fun _ => 0) ∨ ¬s.allBlocked g ∨ ¬s.entriesFit g x could then s
    else (s.parkCtx c .swapped).updBlk g (fun b => { b with parks := satAdd b.parks 1 })
  | _, _ => s

/-! ### Ends that no instruction sets -/

/-- A FAULTED context with nothing in flight and nothing outstanding settles: SUBDONE, then EMPTY (R398). -/
def State.settled (s : State) (c : Nat) : State :=
  let x := s.ctx c
  if x.state = .faulted ∧ x.inFlight = [] ∧ x.reqs = [] then s.endCtx c x.status x.index else s

/-- Every context of a partition's Blocks faults (R417); a submission whose image is being read ends. -/
def State.faultPart (s : State) (p : Nat) (st : Status) : State :=
  (s.ctxs.filter (fun x => (s.part p).blocks.getLsbD (x.1 / 16) && x.2.holds)).foldl (fun s x =>
    if x.2.image.isSome then s.endCtx x.1 st 0xFFFF else s.faultCtx x.1 st 0xFFFF) s

/-- A partition becomes FENCED by the fault that event `seq` reports, when it is BOUND or READY (R417). -/
def State.fencePart (s : State) (p : Nat) (code : Nat) (cls : BitVec 8) (seq : BitVec 64) : State :=
  let x := s.part p
  if x.state = .bound ∨ x.state = .ready then
    let s := (s.updPart p (fun x => { x with state := .fenced })).faultPart p stStateLost
    s.raise ({ code := 0x44, cls := cls, unit := uSquare, d0 := BitVec.ofNat 64 code, d1 := seq : Event }.inPart p (s.part p))
  else s

end Sys2Proof.Machine
end

