-- ==== Sys2Proof/Machine/Part.lean ====
section
/-! DEFINITION. Partitions: Blocks joining and leaving, resize, scrubbing, release, binding of jobs (06 R175 to R178, R182; 07 R210, R507;
14 R399 to R413; 12 R376, R377, R503). -/

namespace Sys2Proof.Machine

/-! ### Blocks -/

/-- Discards every message in a Block's queues, as its ring stop does (R414). Log 50. -/
def State.purgeBlk (s : State) (g : Nat) : State :=
  [2, 3, 4].foldl (fun s k =>
    let q := qOfBlk g
    let n := nBlk g k
    let ps := (s.queue q n).pkts
    if ps = [] then s
    else
      let s := ps.foldl (fun s p => (s.releaseMc q p).fenceDrop g) s
      s.updQueue q n (fun x => { x with pkts := [] })) s

/-- A Block's slice, replay cache, collective table, hot slots and lost-line log are emptied (R407). -/
def Block.emptied (b : Block) : Block :=
  { b with replay := [], dir := [], conf := [], ownReqs := [], hot := [], works := [], pubs := [], aside := [], lostLog := [], walks := [],
           roots := [], colls := [], run := [], budget := [], debt := [], give := none }

/-- A Block becomes MEMBER with an area of `a` banks, powered again with undefined contents (R173, R386, R404, R457). -/
def State.joinBlk (s : State) (a g : Nat) : State :=
  let era := s.freeCtr
  { s with freeCtr := era + 1 }.updBlk g (fun b => { b.emptied with
    state := .member, hz := s.tb.tick, areaBanks := BitVec.ofNat 4 a, bankArea := BitVec.ofNat 16 (2 ^ a - 1), bankOwn := 0, bank := [], bpois := []
    bankEra := era })

/-- A Block leaves its partition: SCRUBBING, emptied, its banks powered off (R407, R412, R416). -/
def State.leaveBlk (s : State) (g : Nat) : State :=
  let s := { s with parts := tmap s.parts {} (fun _ x => { x with tcache := x.tcache.filter (fun e => e.1 / 2 ^ 24 ≠ g) }) }
  (s.updBlk g (fun b => { b.emptied with state := .scrubbing, bank := [], bpois := [] })).purgeBlk g

/-- A Block held out of service until the next start-up (R417, R437). -/
def State.heldOut (s : State) (g : Nat) : Bool := s.boot.blkFail.getLsbD g

/-! ### Scrubbing (R407 to R410) -/

/-- 256 MiB units of `n` Blocks' channels (30 GB each). -/
def blkUnits (n : Nat) : Nat := cdiv (n * 30000000000) (2 ^ 28)

/-- Shows what RELEASE or SCRUB has still to zero. Log 57. -/
def State.countScrub (s : State) (p : Nat) : State :=
  let x := s.part p
  let bs := (maskList 64 x.leaving).filter (fun g => !s.heldOut g)
  let ts := ((maskList 16 x.trays).map (fun t => (s.tray t).touched)).sum
  let n := if x.state = .releasing ∨ x.state = .scrubbing then blkUnits bs.length + ts else 0
  s.updPart p (fun x => { x with scrubLeft := BitVec.ofNat 32 n })

/-- The counts of SQ_POOL_CNT_p, which outlive a partition. -/
def Part.counts (x : Part) : Part := { migDone := x.migDone, evictN := x.evictN, noCap := x.noCap, pubConf := x.pubConf }

/-- RELEASE or SCRUB ends when every Block and tray is clear (R407, R410, R417). -/
def State.partClear (s : State) (p : Nat) : State :=
  let s := s.countScrub p
  let x := s.part p
  let done := (maskList 64 x.leaving).all (fun g => s.heldOut g) && (maskList 16 x.trays).all (fun t => (s.tray t).touched = 0)
  if done ∧ x.state = .releasing then
    (s.setPart p x.counts).raise { code := 0x41, unit := uSquare, part := BitVec.ofNat 6 p, flags := 1 }
  else if done ∧ x.state = .scrubbing then
    let s := (maskList 16 x.trays).foldl (fun s t => s.updTray t (fun y => { y with placed := 0 })) s
    (s.updPart p (fun x => { x with state := .ready, leaving := 0, usedNear := 0, usedBulk := 0, dirty := [], dirtyFrms := [] })).raise
      { code := 0x42, unit := uSquare, part := BitVec.ofNat 6 p, flags := 1 }
  else s

/-- A tray port leaves its partition and returns to READY. -/
def State.freeTray (s : State) (t : Nat) : State :=
  let p := (s.tray t).part.toNat
  let s := s.updTray t (fun x => { x with state := .ready, part := 0, placed := 0, touched := 0 })
  s.updPart p (fun x => { x with trays := listMask 16 (setDel (maskList 16 x.trays) t) })

/-! ### PARTSET and SCRUB -/

/-- PARTSET CREATE (R404). -/
def State.createCheck (s : State) (p : Nat) (blocks : BitVec 64) (area : Nat) : Status :=
  if s.sec.lc = .returned ∨ s.sec.lc = .scrapped then stPerm
  else if blocks = 0 ∨ 8 < area then stInvalid
  else if (s.part p).state ≠ .none ∨ (maskList 64 blocks).any (fun g => (s.blk g).state = .member) then stInvalid
  else if (maskList 64 blocks).any (fun g => (s.blk g).state = .scrubbing) then stRetry
  else stOk

def State.create (s : State) (p : Nat) (blocks : BitVec 64) (area : Nat) : State :=
  let s := (maskList 64 blocks).foldl (fun s g => s.joinBlk area g) s
  s.updPart p (fun x => { x.counts with state := .ready, blocks := blocks, area := BitVec.ofNat 4 area })

/-- Frames of a tier that hold pages. -/
def Part.placedNear (x : Part) : Nat := x.usedNear - tget x.dirty 1 0
def Part.placedBulk (x : Part) : Nat := x.usedBulk - tget x.dirty 2 0

/-- Whether a Block to be removed holds a program or the root of an admitted collective (R405). -/
def State.blkBusy (s : State) (g : Nat) : Bool :=
  (s.ctxsOf g).any (fun x => x.2.holds) || (s.blk g).colls ≠ []

/-- The checks of R405 that R377 makes again. -/
def State.layoutCheck (s : State) (p : Nat) (new : BitVec 64) : Status :=
  let x := s.part p
  let k := popcount new
  if (maskList 64 (x.blocks &&& ~~~new)).any s.blkBusy then stBusy
  else if nearFrames k < x.placedNear + x.nresv.toNat ∨ bulkFrames k < x.placedBulk + x.bresv.toNat then stRetry
  else stOk

/-- PARTSET RESIZE (R405). -/
def State.resizeCheck (s : State) (p : Nat) (new : BitVec 64) : Status :=
  let x := s.part p
  let other := (maskList 64 new).any (fun g => (s.blk g).state = .member && s.partOfBlk g ≠ some p)
  if ¬(x.state = .ready ∨ x.state = .bound) ∨ new = 0 ∨ other then stInvalid
  else if (maskList 64 (new &&& ~~~x.blocks)).any (fun g => (s.blk g).state = .scrubbing) then stRetry
  else if (maskList 64 (x.blocks &&& ~~~new)).any s.blkBusy ∨ x.staged.isSome ∨ x.resizing ∨ x.leaving ≠ 0 then stBusy
  else s.layoutCheck p new

/-- Whether a removed Block may leave: no page is still to be re-laid, its entries have moved, and no request waits there (R406, R507). -/
def State.mayLeave (s : State) (p g : Nat) : Bool :=
  let x := s.part p
  let b := s.blk g
  !x.resizing && x.drainEnd.isNone && !x.pages.any (fun e => e.2.relay) && b.dir = [] && b.conf = [] && b.works = [] && b.hot = [] && b.pubs = []

/-- The resize is over once the last page has moved; removed Blocks that may leave become SCRUBBING (R406). Log 58. -/
def State.resizeStep (s : State) (p : Nat) : State :=
  let x := s.part p
  let past := x.resizing && !x.pages.any (fun e => e.2.relay)
  let s := if past then (s.updPart p (fun x => { x with resizing := false })).raise
      ({ code := 0x40, unit := uSquare : Event }.inPart p x) else s
  if x.state = .releasing ∨ x.state = .scrubbing then s
  else
    (maskList 64 (s.part p).leaving).foldl (fun s g =>
      if s.mayLeave p g then (s.updPart p (fun x => { x with leaving := listMask 64 (setDel (maskList 64 x.leaving) g) })).leaveBlk g else s) s

/-- A resize takes effect (R405, R406): added Blocks join, every near and bulk page is to be re-laid. -/
def State.resize (s : State) (p : Nat) (new : BitVec 64) : State :=
  let x := s.part p
  let s := (maskList 64 (new &&& ~~~x.blocks)).foldl (fun s g => s.joinBlk x.area.toNat g) s
  let s := s.updPart p (fun x => { x with
    blocks := new, leaving := x.blocks &&& ~~~new, staged := none, resizing := true
    pages := x.pages.map (fun e => (e.1, { e.2 with relay := e.2.state = .placed && e.2.tier ≠ 3 || e.2.state = .migrating && e.2.dst ≠ 3 })) })
  s.resizeStep p

/-- PARTSET RELEASE and SCRUB (R407, R410): `release` tells which. -/
def State.clearCheck (s : State) (p : Nat) : Status :=
  let x := s.part p
  if x.state = .bound ∨ (x.state = .fenced ∧ x.job ≠ 0) then stBusy
  else if x.state = .ready ∨ x.state = .fenced then stOk else stInvalid

def State.release (s : State) (p : Nat) : State :=
  let x := s.part p
  let all := x.blocks ||| x.leaving
  let s := s.updPart p (fun x => { x with state := .releasing, blocks := 0, leaving := all, staged := none, resizing := false, pages := [] })
  let s := (maskList 64 all).foldl State.leaveBlk s
  let s := (maskList 16 x.trays).foldl (fun s t => if (s.tray t).touched = 0 then s.freeTray t else s) s
  s.partClear p

def State.scrub (s : State) (p : Nat) : State :=
  (s.updPart p (fun x => { x with state := .scrubbing, leaving := x.blocks, pages := [] })).partClear p

/-- PARTSET TRAY (R243). -/
def State.trayCheck (s : State) (p t : Nat) (assign : Bool) : Status :=
  let x := s.part p
  let y := s.tray t
  if assign then (if (x.state = .ready ∨ x.state = .bound) ∧ y.state = .ready then stOk else stInvalid)
  else if ¬(y.state = .assigned ∧ y.part.toNat = p ∧ x.trays.getLsbD t) then stInvalid
  else if y.placed ≠ 0 then stBusy else stOk

def State.trayPut (s : State) (p t : Nat) (assign : Bool) : State :=
  if assign then
    (s.updTray t (fun y => { y with state := .assigned, part := BitVec.ofNat 6 p, placed := 0, touched := 0 })).updPart p (fun x =>
      { x with trays := x.trays ||| BitVec.ofNat 16 (2 ^ t) })
  else s.freeTray t

/-! ### Pages leaving -/

/-- A released page: its root registrations and pins end, its frames and state are freed (R228, R233). -/
def State.dropPage (s : State) (p k : Nat) : State :=
  let g := (s.part p).page k
  let inside := fun (l : Nat) => k * 2 ^ 21 ≤ l && l < (k + g.frames) * 2 ^ 21
  let s := s.blks.foldl (fun s e =>
    if s.partOfBlk e.1 = some p then
      let hs := (e.2.dir.filter (fun d => inside d.1 && d.2.hot.isSome)).map (·.1)
      let s := hs.foldl (fun s l => s.endHot e.1 p l) s
      s.updBlk e.1 (fun b => { b with roots := b.roots.filter (fun l => !inside l) })
    else s) s
  s.freePage p k

/-! ### Binding (R176, R218, R219, R376, R503) -/

/-- Whether the drain window of a job's previous generation is open (R176). -/
def Part.draining (x : Part) (now : Nat) : Bool := match x.drainEnd with | some e => now < e | none => false

/-- MAPSET BIND: an empty map under G (R376); page PTPN is placed near and pinned when PTDEV is this device (R219). -/
def State.bind (s : State) (p : Nat) (job : JobId) (dev : Eid) (ptpn : BitVec 24) (tout : BitVec 16) (rto : BitVec 8) (drainw : BitVec 10)
    (g : Gen) : State :=
  let s := s.updPart p (fun x => { x with
    state := .bound, job := job, gen := g, prev := 0, drainEnd := none, moveh := false, oldBlocks := none, killed := false, tout := tout, rto := rto,
    drainw := drainw, ptpn := ptpn, ptdev := dev, ptv := true, map := {}, pmap := {}, smap := {}, tcache := [], devs := [], pteRes := [], rehomed := false })
  if dev = s.selfEid then (s.placeIn p ptpn.toNat 1 false).updPage p ptpn.toNat (fun g => { g with pin := true }) else s

/-- MAPSET COMMIT: the staged map under G + 1, the previous one draining, a staged resize taking effect (R175 to R177, R222, R377). -/
def State.commit (s : State) (p : Nat) (moveh : Bool) (times : Option (BitVec 16 × BitVec 8 × BitVec 10)) : State :=
  let x := s.part p
  let s := s.updPart p (fun x =>
    let (tout, rto, dw) := times.getD (x.tout, x.rto, x.drainw)
    { x.flushCache with
      tout := tout, rto := rto, drainw := dw, prev := x.gen, gen := x.gen + 1, pmap := x.map, map := x.smap, drainEnd := some (endOf s.now dw.toNat)
      moveh := moveh || x.staged.isSome, rehomed := x.rehomed || moveh, oldBlocks := some x.blocks })
  match x.staged with
  | some new => s.resize p new
  | none => s

/-! ### Unbinding (R411, R503, R507) -/

/-- Recalls every copy of a line and forgets the entry: the holders' answers find nothing outstanding. Log 50. -/
def State.forgetLine (s : State) (g p l : Nat) : State :=
  let e := s.ent g l
  let s : State := match e.txn with
    | some t => t.waits.foldl (fun (s : State) w => s.tagSet w.tag w.eid (.held (endOf s.now 512))) s
    | none => s
  let s := s.updEnt g l (fun e => { e with txn := none })
  let s := s.settleOwner g p l
  let (_, ts, own) := s.needs g l tST 0xFFF 0
  ts.foldl (fun (s : State) t => match s.snoop g p l tBackInv t own none with
    | some (n, s) => s.tagSet n.tag n.eid (.held (endOf s.now 512))
    | none => s) s

/-- What a Block holds of its job ends: requests waiting or in progress answered TEARDOWN, copies recalled, tables emptied. Log 50. -/
def State.unbindBlk (s : State) (p g : Nat) : State :=
  let b := s.blk g
  let s := b.conf.foldl (fun s c => s.refuse g c.msg stTeardown) s
  let s := b.works.foldl (fun s w => match w.2 with | some w => s.refuse g w.msg stTeardown | none => s) s
  let s := (b.dir.map (·.1)).foldl (fun s l => s.forgetLine g p l) s
  (s.updBlk g (fun b => { b with conf := [], works := [], dir := [], hot := [], pubs := [], walks := [], roots := [], replay := [], aside := [] })).purgeBlk g

/-- MAPSET UNBIND (R411): every page is released, the binding freed, the partition READY. Log 50. -/
def State.unbind (s : State) (p : Nat) : State :=
  let x := s.part p
  let s := ((s.blks.map (·.1)).filter (fun g => s.partOfBlk g = some p)).foldl (fun s g => s.unbindBlk p g) s
  let s : State := x.pteAsk.foldl (fun (s : State) e => match e.2 with
    | some (_, _, tag) => if x.ptdev = s.selfEid then s else s.tagSet tag x.ptdev (.held (endOf s.now 512))
    | none => s) s
  let s := (x.pages.map (·.1)).foldl (fun s k => s.dropPage p k) s
  let s := s.updPart p (fun x =>
    { x.counts with
      state := .ready, area := x.area, trays := x.trays, blocks := x.blocks, leaving := x.leaving, resizing := x.resizing, agew := x.agew,
      promote := x.promote, migshare := x.migshare, nresv := x.nresv, bresv := x.bresv, usedNear := x.usedNear, usedBulk := x.usedBulk,
      dirty := x.dirty, dirtyFrms := x.dirtyFrms, lastTray := x.lastTray })
  s.resizeStep p

/-! ### Killing a job (R182) -/

/-- A context of a killed job: SUBDONE with TEARDOWN, its tags held, the slot EMPTY (R182, R372). -/
def State.killCtx (s : State) (c : Nat) : State := s.endCtx c stTeardown 0xFFFF

/-- JOBKILL in the order of R182 for the job of partition `p`. Log 51. -/
def State.killPart (s : State) (p : Nat) : State :=
  let x := s.part p
  let cs := ((s.ctxs.filter (fun e => s.partOfBlk (e.1 / 16) = some p && e.2.holds)).map (·.1))
  let s := s.updPart p (fun x => { x with killed := true })
  let s := cs.foldl State.killCtx s
  let bs := (s.blks.map (·.1)).filter (fun g => s.partOfBlk g = some p)
  let s := bs.foldl (fun s g =>
    let conf := (s.blk g).conf
    let s := s.updBlk g (fun b => { b with conf := [], replay := b.replay.filter (fun r => r.job ≠ x.job),
                                           teardown := satAdd b.teardown conf.length })
    conf.foldl (fun s c => s.refuse g c.msg stTeardown) s) s
  let s := bs.foldl (fun s g => ((s.blk g).colls.map (·.1)).foldl (fun s n => s.collEnd g n stTeardown none) s) s
  s.raise ({ code := 0x19, unit := uSquare, d0 := BitVec.ofNat 64 cs.length : Event }.inPart p (s.part p))

end Sys2Proof.Machine
end

