-- ==== Sys2Proof/Machine/Fault.lean ====
section
/-! DEFINITION. Error containment shared by commands: health penalties, MEM_UE, halt (16 R462 to R471). -/

namespace Sys2Proof.Machine

/-- The near and bulk channels of a Block, as numbers within its Quarter: near 0 to 63, bulk 64 to 159 (R20). -/
def chanNear (g i : Nat) : Nat := 4 * (g % 16) + i
def chanBulk (g i : Nat) : Nat := 64 + 6 * (g % 16) + i

/-- UNIT of a channel of Quarter `q` (R466). Log 118. -/
def uChan (q c : Nat) : BitVec 16 := if c < 64 then unitOf 3 (64 * q + c) else unitOf 4 (96 * q + (c - 64))

/-- Adds a penalty to a channel. -/
def State.chanPenalty (s : State) (q c n : Nat) : State :=
  s.updQtr q (fun x => { x with mcHealth := tset x.mcHealth c ((tget x.mcHealth c {}).add n) {} })

/-! ### Where a line lies (R20, R212 to R215, R230) -/

/-- A place in memory: tier, tray of a tray frame, frame, offset in it, and the Blocks over which a near or bulk tier is striped. -/
structure Spot where
  tier  : Nat
  tray  : Nat
  frame : Nat
  off   : Nat
  lay   : BitVec 64
deriving DecidableEq, Repr

/-- The place of a line of a placed page: byte `o` of the page lies in its frame `o / 2^28` (R215), and once a migration has copied the line's
chunk in the destination (R230). -/
def Part.spot (x : Part) (l : Nat) : Option Spot :=
  let n := l / 2 ^ 21
  let g := x.page n
  let o := 128 * l - x.pageKey n * pgShift
  let i := o / pgShift
  if g.tier = 0 then none
  else if g.dstFrms ≠ [] ∧ o / 4096 < g.chunk then
    some { tier := (if g.state = .migrating then g.dst else g.tier).toNat, tray := nth g.dstTrays i, frame := nth g.dstFrms i, off := o % pgShift, lay := g.dstLay }
  else some { tier := g.tier.toNat, tray := nth g.trays i, frame := nth g.frms i, off := o % pgShift, lay := g.lay }

/-- Tier address of a place (R213); of a tray frame, its device address, the HDM range being at 0 (R214, R243). -/
def Spot.addr (x : Spot) : Nat := x.frame * pgShift + x.off

/-- The channels of a tier with their Quarters, in ascending Block order (R20, R212). -/
def channels (lay : BitVec 64) (near : Bool) : List (Nat × Nat) :=
  (maskList 64 lay).flatMap (fun g => if near then (List.range 4).map (fun i => (qOfBlk g, chanNear g i)) else (List.range 6).map (fun i => (qOfBlk g, chanBulk g i)))

/-- The channel of a place, with its Quarter, and the byte address in the channel: tiers are striped in 512 B units (R212). Log 118. -/
def Spot.channel (x : Spot) : Nat × Nat :=
  let cs := channels x.lay (x.tier = 1)
  (cs[x.addr / 512 % max 1 cs.length]?).getD (0, 0)
def Spot.chanAddr (x : Spot) : Nat := x.addr / (512 * (channels x.lay (x.tier = 1)).length) * 512 + x.addr % 512

/-- The device addresses of the two 64 B transfers that carry a line of a tray (R214). -/
def Spot.transfers (x : Spot) : List Nat := [x.addr, x.addr + 64]

/-- MEM_UE (R468): class, unit, address, what was hit. -/
def ueEvent (cls : BitVec 8) (unit : BitVec 16) (d0 : Nat) (d1 : Nat) : Event :=
  { code := 0x60, cls := cls, unit := unit, d0 := BitVec.ofNat 64 d0, d1 := BitVec.ofNat 64 d1 }

/-- An uncorrectable error in a line's memory copy at its place: its poison flag, the channel's health or the tray's poisoned transfer, MEM_UE
at most once per tick per Block (R462, R464). Log 118. -/
def State.lineUe (s : State) (p l : Nat) (x : Spot) : State :=
  let g := s.homeNow p l
  let tray : Bool := x.tier = 3
  let s := s.setPoison p l true
  let (unit, s) : BitVec 16 × State :=
    if tray then (uTray x.tray, s.updTray x.tray (fun y => { y with poisonRx := satAdd y.poisonRx 1 }))
    else (uChan x.channel.1 x.channel.2, s.chanPenalty x.channel.1 x.channel.2 16320)
  if (s.blk g).ueAt = some s.now then s
  else
    (s.updBlk g (fun b => { b with ueAt := some s.now })).raise ((ueEvent 3 unit (128 * l) (b1 tray)).inPart p (s.part p))

/-- A DEVICE fault halts the device (R463): ports stop, BOUND partitions are FENCED. `cause` is the code and SEQ of the event that reported
the fault; without one DEVICE_HALT itself is the cause of the fencing. Log 118. -/
def State.halt (s : State) (unit : BitVec 16) (cause : Option (Nat × BitVec 64)) : State :=
  if s.boot.halted then s
  else
    let (code, seq) := cause.getD (0x64, s.sec.eseq)
    let s := { s with boot := { s.boot with halted := true } }
    let s := s.raise { code := 0x64, cls := 7, unit := unit, d0 := (cause.getD (0, 0)).2 }
    ((s.parts.filter (fun e => e.2.state = .bound)).map (·.1)).foldl (fun s p => s.fencePart p code 7 seq) s

/-- A fault of class PARTITION at a Block: MEM_UE, then its partition is FENCED (R417, R462). -/
def State.partFault (s : State) (g : Nat) (e : Event) : State :=
  match s.partOfBlk g with
  | some p =>
    let seq := s.sec.eseq
    (s.raise (e.inPart p (s.part p))).fencePart p e.code.toNat e.cls seq
  | none => s.raise e

end Sys2Proof.Machine
end

