-- ==== Sys2Proof/Machine/Pool.lean ====
section
/-! DEFINITION. Migration, eviction, promotion, trays, recall walks (08 R225 to R235, R243 to R247; 07 R205, R229). -/

namespace Sys2Proof.Machine

/-! ### Migration (R230 to R232) -/

/-- Starts a migration of a PLACED page to a tier; `none` when it has too few free frames. -/
def State.startMove (s : State) (p k tier : Nat) : Option State :=
  let g := tget (s.part p).pages k {}
  if s.freeFrames p tier < g.frames ∨ g.dstFrms ≠ [] then none
  else
    let lay := (s.part p).blocks
    let (s, trays, frms) := s.takeFrames p tier g.frames none
    some (s.updPage p k (fun g => { g with state := .migrating, dst := BitVec.ofNat 2 tier, dstTrays := trays, dstFrms := frms, dstLay := lay, chunk := 0 }))

/-- 4 KiB chunks of a page. -/
def Page.chunks (g : Page) : Nat := g.size / 4096

/-- Where the next page of an evacuation goes (R244): bulk while it has room above BRESV, else the other trays. -/
def State.evacTier (s : State) (p n : Nat) : Option Nat :=
  if (s.part p).bresv.toNat + n ≤ (s.part p).bulkFree then some 2
  else if n ≤ s.trayFree p then some 3 else none

/-- An evacuating tray that holds no page enters EMPTY (R244). Log 57. -/
def State.trayEmpty (s : State) (t : Nat) : State :=
  let y := s.tray t
  let p := y.part.toNat
  if y.state ≠ .evac ∨ (s.part p).pages.any (fun e => e.2.trays.contains t || e.2.dstTrays.contains t) then s
  else
    let s := s.updTray t (fun y => { y with state := .empty, part := 0, frames := 0, placed := 0, touched := 0, retrainAt := none })
    let s := s.updPart p (fun x => { x with trays := listMask 16 (setDel (maskList 16 x.trays) t), dirty := tdel x.dirty (16 + t), dirtyFrms := tdel x.dirtyFrms (16 + t) })
    s.raise ({ code := 0x2D, unit := uTray t : Event }.inPart p (s.part p))

/-- Evacuation goes on: with no page of the partition on its way, the lowest page still to leave starts (R244). Log 58. -/
def State.evacNext (s : State) (p : Nat) : State :=
  let ps := (s.part p).pages.filter (fun e => e.2.evac)
  if ps.any (fun e => e.2.state = .migrating) then s
  else match ps.find? (fun e => e.2.state = .placed) with
    | none => s
    | some (k, g) => match s.evacTier p g.frames with
      | none => s
      | some t => (s.startMove p k t).getD s

/-- After a page has moved or gone: evacuations, empty trays, a resize. -/
def State.afterMove (s : State) (p : Nat) : State :=
  let s := s.evacNext p
  let s := (List.range 16).foldl (fun s t => if (s.tray t).state = .evac ∧ (s.tray t).part.toNat = p then s.trayEmpty t else s) s
  s.resizeStep p

/-- MIGRATED (R228, R232). -/
def State.migrated (s : State) (p k tier : Nat) : State :=
  let s := s.updPart p (fun x => { x with migDone := satAdd x.migDone 1 })
  s.raise ({ code := 0x2A, unit := uSquare, d0 := BitVec.ofNat 64 k, d1 := BitVec.ofNat 64 tier : Event }.inPart p (s.part p))

/-- The last chunk has moved: the page is PLACED in its destination, its source frames go to the scrubber (R232). -/
def State.finishMove (s : State) (p k : Nat) : State :=
  let g := tget (s.part p).pages k {}
  let s := s.dirtyFrames p g.tier.toNat g.frames g.trays g.frms
  let stay := g.dstTrays.any (fun t => (s.tray t).state = .evac)
  let old := (s.part p).resizing && g.dst ≠ 3 && g.dstLay ≠ (s.part p).blocks
  let s := s.updPage p k (fun g => { g with state := .placed, tier := g.dst, trays := g.dstTrays, frms := g.dstFrms, lay := g.dstLay, dst := 0,
                                            dstTrays := [], dstFrms := [], dstLay := 0, chunk := 0, evac := stay, relay := old, evict := false })
  (s.migrated p k g.dst.toNat).afterMove p

/-- Lines of a chunk read with an uncorrectable error are written poisoned (R232). -/
def State.chunkUe (s : State) (p k : Nat) (g : Page) (ue : BitVec 32) : State :=
  (maskList 32 ue).foldl (fun s i =>
    let l := (k * pgShift + g.chunk * 4096) / 128 + i
    match (s.part p).spot l with
    | some x => s.lineUe p l x
    | none => s) s

/-- Whether the partition's migrations have bandwidth of a tier left in this tick (R234). Log 70. -/
def Part.migRoom (x : Part) (tier : Nat) : Bool := decide (tget x.migUse tier 0 < x.migRate tier)

/-- A chunk read from a tier, or written to it (R234). Log 70. -/
def Part.migCharge (x : Part) (tier : Nat) : Part := { x with migUse := tset x.migUse tier 0 (tget x.migUse tier 0 + 4096) }

/-- The frames of the new layout that a page is laid out in take their place (R406): they are counted in use as the old ones were. -/
def State.relayFrames (s : State) (p k : Nat) : State :=
  let x := s.part p
  let g := tget x.pages k {}
  if g.dstFrms ≠ [] then s
  else
    let n := popcount x.blocks
    let total := if g.tier = 1 then nearFrames n else bulkFrames n
    let (s, fs) := (List.range g.frames).foldl (fun (a : State × List Nat) _ =>
      let (f, s) := a.1.pickFrame p g.tier.toNat 0 total a.2
      (s, a.2 ++ [f])) (s, [])
    s.updPage p k (fun g => { g with dstFrms := fs, dstLay := x.blocks })

/-- A page that a resize laid out anew: its new frames are its frames. -/
def Page.laid (g : Page) : Page := { g with relay := false, chunk := 0, frms := g.dstFrms, lay := g.dstLay, dstFrms := [], dstLay := 0 }

/-- MIGRATION_CHUNK_COPY: the next chunk of a migrating page, or of the lowest page that a resize has still to lay out anew. A page that is
being released is copied no more (R233). -/
def State.copyChunk (s : State) (p n : Nat) (ue : BitVec 32) : State :=
  let x := s.part p
  let k := x.pageKey n
  let g := x.page n
  let relay := g.relay && g.state = .placed && x.resizing && !(x.pages.any (fun e => e.2.relay && e.2.state = .placed && decide (e.1 < k)))
  let dst := if relay then g.tier.toNat else g.dst.toNat
  if x.state ≠ .bound ∨ (tfind x.recalling k).isSome ∨ ¬(g.state = .migrating ∨ relay) ∨ ¬x.migRoom g.tier.toNat ∨ ¬x.migRoom dst then s
  else
    let s := s.updPart p (fun x => (x.migCharge g.tier.toNat).migCharge dst)
    let s := s.chunkUe p k g ue
    let s := if relay then s.relayFrames p k else s
    if g.chunk + 1 < g.chunks then s.updPage p k (fun g => { g with chunk := g.chunk + 1 })
    else if g.state = .migrating then s.finishMove p k
    else ((s.updPage p k Page.laid).migrated p k g.tier.toNat).afterMove p

/-! ### Eviction and promotion (R225, R226) -/

/-- The page to evict from a tier (R225): cold ones first, then the oldest LASTT, then the lowest page. -/
def Part.evictPage (x : Part) (tier : Nat) : Option (Nat × Page) :=
  let ps := x.pages.filter (fun e => e.2.state = .placed && !e.2.pin && e.2.tier.toNat = tier)
  let cold := ps.filter (fun e => e.2.hint = 2)
  match (if cold = [] then ps else cold) with
  | [] => none
  | a :: r => some (r.foldl (fun (b : Nat × Page) e => if e.2.lastt < b.2.lastt then e else b) a)

/-- Free frames of a tier below its reserve (R225). -/
def Part.belowReserve (x : Part) (tier : Nat) : Bool :=
  if tier = 1 then decide (x.nearFree < x.nresv.toNat) else decide (x.bulkFree < x.bresv.toNat)

/-- PAGE_EVICTION: one page at a time leaves a tier below its reserve for the next lower tier with room. -/
def State.evictPage (s : State) (p tier : Nat) : State :=
  let x := s.part p
  let busy := x.pages.any (fun e => e.2.state = .migrating && e.2.evict && e.2.tier.toNat = tier)
  if x.state ≠ .bound ∨ x.resizing ∨ busy ∨ ¬x.belowReserve tier then s
  else match x.evictPage tier with
    | none => s
    | some (k, g) =>
      match (if tier = 1 then [2, 3] else [3]).find? (fun t => g.frames ≤ s.freeFrames p t) with
      | none => s
      | some t => match s.startMove p k t with
        | none => s
        | some s => (s.updPage p k (fun g => { g with evict := true })).updPart p (fun x => { x with evictN := satAdd x.evictN 1 })

/-- PAGE_PROMOTION: a page with ACC at PROMOTE or the hot hint moves up one tier. -/
def State.promote (s : State) (p n : Nat) : State :=
  let x := s.part p
  let k := x.pageKey n
  let g := x.page n
  let due := g.state = .placed && !g.pin && g.hint ≠ 2 && (x.promote.toNat ≤ g.acc.toNat || g.hint = 1) && 2 ≤ g.tier.toNat && !g.evac
  if x.state ≠ .bound ∨ x.resizing ∨ ¬due then s else (s.startMove p k (g.tier.toNat - 1)).getD s

/-! ### The sparge scrubber (R229) -/

/-- FRAME_SCRUBBED: a freed frame holds zeros and is free. Of several trays, the lowest; of a tier's frames, the one freed first (log 142). -/
def State.frameScrubbed (s : State) (p tier : Nat) : State :=
  let x := s.part p
  let key := if tier = 3 then ((x.dirty.filter (fun e => 16 ≤ e.1)).map (·.1)).head? else some tier
  match key with
  | none => s
  | some k =>
    if tget x.dirty k 0 = 0 then s
    else
      let s := s.updPart p (fun x => { x with
        dirty := tset x.dirty k (tget x.dirty k 0 - 1) 0
        dirtyFrms := tset x.dirtyFrms k ((tget x.dirtyFrms k []).drop 1) []
        usedNear := if k = 1 then x.usedNear - 1 else x.usedNear
        usedBulk := if k = 2 then x.usedBulk - 1 else x.usedBulk })
      let s := if 16 ≤ k then s.updTray (k - 16) (fun y => { y with placed := y.placed - 1 }) else s
      s.evacNext p

/-! ### Trays (R243 to R247) -/

/-- Frames on a tray that pages have to leave: those of a migrating page are the ones it moves to. -/
def Part.onTray (x : Part) (t : Nat) : Nat :=
  (x.pages.map (fun e => ((if e.2.state = .migrating then e.2.dstTrays else e.2.trays).filter (· = t)).length)).sum

/-- Frames lacking for an evacuation (R244); 0 when it may start. -/
def State.evacLack (s : State) (t : Nat) : Nat :=
  let p := (s.tray t).part.toNat
  let x := s.part p
  let here := (s.tray t).frames.toNat - (s.tray t).placed.toNat
  x.onTray t + x.bresv.toNat - (x.bulkFree + (s.trayFree p - here))

/-- Evacuation begins (R244). -/
def State.evacuate (s : State) (t : Nat) : State :=
  let p := (s.tray t).part.toNat
  let s := s.updTray t (fun y => { y with state := .evac })
  let s := s.updPart p (fun x => { x with pages := x.pages.map (fun e => (e.1, if e.2.trays.contains t then { e.2 with evac := true } else e.2)) })
  (s.evacNext p).trayEmpty t

/-- Evacuation stops (R245); a page that lies on another tray being emptied still has to leave it. Log 58. -/
def State.evacStop (s : State) (t : Nat) : State :=
  let p := (s.tray t).part.toNat
  let s := s.updTray t (fun y => { y with state := .assigned })
  s.updPart p (fun x => { x with pages := x.pages.map (fun e => (e.1, if e.2.trays.contains t then { e.2 with evac := e.2.trays.any (fun u => (s.tray u).state = .evac) } else e.2)) })

/-- A page loses frames with a tray: its other frames are freed, it is LOSTPAGE (R246). -/
def State.losePage (s : State) (p t k : Nat) : State :=
  let g := tget (s.part p).pages k {}
  let free := fun (s : State) (tier : BitVec 2) (ts fs : List Nat) =>
    let kept := (ts.zip (fs ++ List.replicate (ts.length - fs.length) 0)).filter (fun e => e.1 ≠ t)
    if tier = 3 then s.dirtyFrames p 3 g.frames (kept.map (·.1)) (kept.map (·.2)) else s.dirtyFrames p tier.toNat g.frames [] fs
  let s := free s g.tier g.trays g.frms
  let s := if g.state = .migrating then free s g.dst g.dstTrays g.dstFrms else s
  let s := s.updPage p k (fun g => { g with state := .lostPage, tier := 0, trays := [], frms := [], lay := 0, dst := 0, dstTrays := [], dstFrms := [],
                                            dstLay := 0, chunk := 0, evac := false, relay := false, evict := false })
  s.raise ({ code := 0x2E, unit := uTray t, d0 := BitVec.ofNat 64 k : Event }.inPart p (s.part p))

/-- An ASSIGNED or EVAC tray is lost (R246). -/
def State.loseTray (s : State) (t : Nat) : State :=
  let p := (s.tray t).part.toNat
  let ks := (((s.part p).pages.filter (fun e => e.2.trays.contains t || e.2.dstTrays.contains t)).map (·.1))
  let s := s.updTray t (fun y => { y with state := .lost, part := 0, frames := 0, placed := 0, touched := 0, surprise := satAdd y.surprise 1,
                                          retrainAt := none })
  let s := s.updPart p (fun x => { x with trays := listMask 16 (setDel (maskList 16 x.trays) t), dirty := tdel x.dirty (16 + t), dirtyFrms := tdel x.dirtyFrms (16 + t) })
  let s := ks.foldl (fun s k => s.losePage p t k) s
  let s := if ks = [] then s else
    (s.part p).blist.foldl (fun s g => s.updBlk g (fun b => { b with walks := b.walks ++ [.recalling ks true false] })) s
  (s.afterMove p).partClear p

/-! ### Recall walks (R205, R229) -/

/-- Whether a line lies in one of some pages. -/
def Part.inPages (x : Part) (ks : List Nat) (l : Nat) : Bool :=
  ks.any (fun k => k * 2 ^ 21 ≤ l && l < (k + (tget x.pages k {}).frames) * 2 ^ 21)

/-- Lines of a slice in some pages that copies or a hot slot still hold, or that are BUSY. -/
def State.walkLines (s : State) (g p : Nat) (ks : List Nat) : List Nat :=
  ((s.blk g).dir.filter (fun e => (s.part p).inPages ks e.1 && (e.2.mode ≠ .none || e.2.hot.isSome || e.2.txn.isSome))).map (·.1)

/-- Recalls one line in a walk; a hot line's pin ends. -/
def State.walkLine (s : State) (g p : Nat) (discard : Bool) (l : Nat) : State :=
  if (s.ent g l).hot.isSome ∧ (s.ent g l).txn.isNone then s.endHot g p l
  else (s.recallLine g p l (.recalling discard)).getD s

/-- A page whose last walk has ended is freed (R228). -/
def State.recallEnd (s : State) (p k : Nat) : State :=
  let x := s.part p
  match tfind x.recalling k with
  | none => s
  | some n =>
    if 1 < n then s.updPart p (fun x => { x with recalling := tins (tdel x.recalling k) k (n - 1) })
    else ((s.updPart p (fun x => { x with recalling := tdel x.recalling k })).dropPage p k).afterMove p

/-- Starts the recall of a page at every Block, after which the page is freed (R228, R229). Log 57. -/
def State.releasePage (s : State) (p k : Nat) : State :=
  let gs := (s.blks.map (·.1)).filter (fun g => s.partOfBlk g = some p)
  if (tfind (s.part p).recalling k).isSome then s
  else if gs.all (fun g => s.walkLines g p [k] = []) then (s.dropPage p k).afterMove p
  else
    let s := s.updPart p (fun x => { x with recalling := tins (tdel x.recalling k) k gs.length })
    gs.foldl (fun s g => s.updBlk g (fun b => { b with walks := b.walks ++ [.recalling [k] true true] })) s

/-- Whether a walk is a recall, and of which pages. -/
def Walk.pages : Walk → Option (List Nat × Bool)
  | .recalling ks d _ => some (ks, d)
  | .publish ks _ => some (ks, false)
  | .death _ _ => none

/-- RECALL_WALK_DONE: the first recall walk of a Block sends its BackInvs; it ends once no entry of its pages is left. Log 103. -/
def State.walkStep (s : State) (g : Nat) : State :=
  match (s.blk g).walks.find? (fun w => w.pages.isSome), s.partOfBlk g with
  | some w, some p =>
    match w.pages with
    | none => s
    | some (ks, discard) =>
      let s := (s.walkLines g p ks).foldl (fun s l => s.walkLine g p discard l) s
      if s.walkLines g p ks ≠ [] then s
      else
        let s := s.updBlk g (fun b => { b with walks := b.walks.erase w })
        match w with
        | .recalling ks _ true => ks.foldl (fun s k => s.recallEnd p k) s
        | .publish _ root =>
          { s with blks := s.blks.map (fun e =>
              if s.partOfBlk e.1 = some p then
                (e.1, { e.2 with pubs := e.2.pubs.map (fun u => if u.root = root ∧ u.decided then { u with walking := setDel u.walking g } else u) })
              else e) }
        | _ => s
  | _, _ => s

/-! ### The end of a drain window (R177, R210) -/

/-- A source's replay entries at a Block, still held. -/
def State.srcReplays (s : State) (g : Nat) (e : Eid) (i : Inc) : Nat := ((s.replays g).filter (fun r => r.seid = e && r.sinc = i)).length

/-- A replay entry moves to the new home, or is dropped there and the horizon raised (R177). -/
def State.moveReplay (s : State) (g h : Nat) (r : Replay) : State :=
  let s := s.updBlk g (fun b => { b with replay := b.replay.erase r })
  if 256 ≤ s.srcReplays h r.seid r.sinc then s.updBlk h (fun b => { b with hz := s.tb.tick })
  else s.updBlk h (fun b => { b with replay := b.replay ++ [r] })

/-- Moved lines with an entry or a set-aside request at their old homes (R210, R507). -/
def State.movedLines (s : State) (p : Nat) (old : BitVec 64) : List (Nat × Nat) :=
  let new := (s.part p).blocks
  (maskList 64 old).flatMap (fun g =>
    let ls := (s.blk g).dir.map (·.1) ++ (s.blk g).conf.flatMap (fun c => (c.msg.linesAt g).map (·.line))
    (ls.filter (fun l => homeOf old l = g && homeOf new l ≠ g)).map (fun l => (l, g)))

/-- DRAIN_WINDOW_END: the previous map ends; replay entries and registered roots of moved lines move, directory entries begin to (R177, R210). Log 141. -/
def State.drainEnd (s : State) (p : Nat) : State :=
  let x := s.part p
  match x.drainEnd with
  | none => s
  | some e =>
    if s.now < e then s
    else
      let old := x.oldBlocks.getD x.blocks
      let ls := if x.moveh then s.movedLines p old else []
      let s := s.updPart p (fun x => { x with drainEnd := none, moveh := false, pmap := {}, oldBlocks := none, arriving := ls.foldl (fun t l => tset t l.1 (some l.2) none) x.arriving })
      let s := if x.moveh then (maskList 64 old).foldl (fun s g =>
          let s := (s.blk g).replay.foldl (fun s r =>
            let h := homeOf x.blocks (r.paddr / 128)
            if r.job = x.job ∧ h ≠ g ∧ ¬(ls.map (·.1)).contains (r.paddr / 128) then s.moveReplay g h r else s) s
          (s.blk g).roots.foldl (fun s l =>
            let h := homeOf x.blocks l
            if h = g then s else (s.updBlk g (fun b => { b with roots := setDel b.roots l })).updBlk h (fun b => { b with roots := setIns b.roots l })) s) s
        else s
      let s := if x.moveh then (x.pages.map (·.1)).foldl (fun s k => ((s.translate p (s.lowBlk p) k).1).xlateUsed p (s.lowBlk p) k) s else s
      s.resizeStep p

/-- HOME_ENTRY_ARRIVAL: the entry of a moved line moves from Block `g` to its new home once it has settled (R210, R507). -/
def State.entryArrives (s : State) (g l : Nat) : State :=
  match s.partOfBlk g with
  | none => s
  | some p =>
    let x := s.part p
    let h := homeOf x.blocks l
    let waits := (s.blk g).conf.any (fun c => (c.msg.linesAt g).any (fun r => r.line = l))
    let e := s.ent g l
    if tget x.arriving l none ≠ some g ∨ e.txn.isSome ∨ waits then s
    else if h = g then s.updPart p (fun x => { x with arriving := tset x.arriving l none none })
    else
      let s := if e.hot.isSome then s.endHot g p l else s
      let e := s.ent g l
      if e.mode ≠ .none ∧ 16 ≤ (s.ways h l).length then (s.evictWay h p l).getD s
      else
        let s := s.setEnt g l {}
        let s := if e.mode = .none then s else s.setMode h l e.mode
        let s := ((s.blk g).replay.filter (fun r => r.paddr / 128 = l)).foldl (fun s r => s.moveReplay g h r) s
        (s.updPart p (fun x => { x with arriving := tset x.arriving l none none })).resizeStep p

end Sys2Proof.Machine
end

