-- ==== Sys2Proof/Machine/Time.lean ====
section
/-! DEFINITION. The timebase: its states, markers, TICK_IN (02 R39 to R45). -/

namespace Sys2Proof.Machine

/-- Own hop count (R39). -/
def Timebase.ownHops (t : Timebase) (up : Nat) : BitVec 4 :=
  match t.state with
  | .source => 0
  | .locked => if t.src = 1 then 0 else BitVec.ofNat 4 (up + 1)
  | _ => 0xF

/-- The timebase enters a state: TICK_STATE (R44), LOSSCNT on leaving LOCKED (R45). -/
def State.tbEnter (s : State) (st : TbState) (up : Nat) : State :=
  let t := s.tb
  if t.state = st then { s with tb := { t with hops := t.ownHops up } }
  else
    let t' : Timebase := { t with
      state := st, since := s.now, unalTick := t.unalTick || st = .unaligned
      lossCnt := if t.state = .locked then satAdd t.lossCnt 1 else t.lossCnt }
    let s := { s with tb := { t' with hops := t'.ownHops up } }
    s.raise { code := 0x07, unit := uSquare, d0 := BitVec.ofNat 64 st.code, d1 := t.offset.signExtend 64 }

/-- A change of state that no instruction makes: it is journalled as the device's (R44, R426). -/
def State.tbChange (s : State) (st : TbState) (up : Nat) : State :=
  if s.tb.state = st then s.tbEnter st up
  else
    let old := s.readSq 0x1008
    let s := s.tbEnter st up
    s.journalOne 4 0x1008 old (s.readSq 0x1008)

/-- Ports whose markers may be followed: ACTIVE, with a valid marker in the last 8 ticks, by lane with its hop count (R39, R42). Log 22. -/
def State.followable (s : State) : List (Nat × Nat) :=
  (s.tb.seen.filter (fun e => (s.port e.1).state = .active && s.now < endOf e.2.2 8)).map (fun e => (e.1, e.2.1))

/-- The upstream port: the lowest hop count, then the lowest lane (R39). Log 22. -/
def State.upstream (s : State) : Option (Nat × Nat) :=
  match s.followable with
  | [] => none
  | a :: r => some (r.foldl (fun b e => if e.2 < b.2 then e else b) a)

/-- The hop count followed where the device is LOCKED when its source changes: TICK_IN's, or its upstream port's. With no valid marker to follow
the source is lost, and the state is HOLDOVER (R39, R42). -/
def State.newSource (s : State) : State :=
  if s.tb.state ≠ TbState.locked then s.tbEnter s.tb.state 0
  else if s.tb.src = 1 then s.tbEnter .locked 0
  else match s.upstream with
    | some (u, h) => { s with tb := { s.tb with upLane := BitVec.ofNat 9 u } }.tbEnter .locked h
    | none => s.tbEnter .holdover 0

end Sys2Proof.Machine
end

