-- ==== Sys2Proof/Machine/Control.lean ====
section
/-! DEFINITION. Control instructions: taking them from the control queue, their gates and completions (01 R12 to R16; 12 R373 to R376; 14 R426;
15 R434; 16 R463; 18 R499). -/

namespace Sys2Proof
open Sys2Proof.Machine

/-- The control instruction word (R373). -/
def CtlInsn.word (c : CtlInsn) (opc sub : Nat) : Slot :=
  packSlot [(72, c.imm.toNat), (12, c.arglen.toNat), (20, c.rsv.toNat), (8, sub), (8, c.modf.toNat), (8, opc)]

/-- Bits of IMM, and argument slot `i`, 1 being the first. -/
def CtlInsn.f (c : CtlInsn) (lo n : Nat) : Nat := sbits c.imm lo n
def CtlInsn.arg (c : CtlInsn) (i : Nat) : Slot := (c.args[i - 1]?).getD 0
def CtlInsn.job (c : CtlInsn) : JobId := BitVec.ofNat 16 (c.f 0 16)

/-- Whether the reserved fields are clear: above bit `n` of IMM, MOD above `m`, and a legal count of arguments (R14, R373, R376). -/
def CtlInsn.form (c : CtlInsn) (n m : Nat) (len : Nat → Bool) : Bool :=
  c.rsv = 0 && c.imm.toNat < 2 ^ n && c.modf.toNat ≤ m && c.args.length = c.arglen.toNat && c.arglen.toNat ≤ 63 && len c.arglen.toNat

end Sys2Proof

namespace Sys2Proof.Machine

/-- Whether OPC and SUB name a control instruction (R376, R378). Log 115. -/
def ctlKnown (opc sub : Nat) : Bool :=
  match opc with
  | 0x80 => sub ≤ 4
  | 0x81 => sub ≤ 3
  | 0x82 | 0x83 | 0x84 => sub = 0
  | 0x85 => sub ≤ 1
  | 0x86 => sub ≤ 3
  | 0x87 => sub ≤ 17
  | 0x88 => sub ≤ 2
  | _ => false

/-- Messages at the head of a Square queue that end at the Square: completions, events and notices (R116). Logs 93, 115. -/
def State.dropSinks (s : State) (q : Nat) : Nat → State
  | 0 => s
  | n + 1 => match s.headOf q nSquare with
    | some h =>
      let k := h.msg.pkt.mtype
      if k = 1 ∨ k = 3 ∨ k = 4 ∨ k = 5 then
        (match s.takeHead q nSquare with | some (_, t) => t.dropSinks q n | none => s)
      else s
    | none => s

/-- The state once the Square has consumed what ends there. -/
def State.sinks (s : State) (via : Via) : State :=
  match via with
  | .tc0 q => s.dropSinks q.toNat (s.queue q.toNat nSquare).pkts.length
  | _ => s

/-- Whether a waiting word is this instruction: its own OPC and SUB, or reserved ones with every other field alike (R376). -/
def wordIs (w : Slot) (ci : CtlInsn) (opc sub : Nat) : Option (Nat × Nat) :=
  let o := sbits w 120 8
  let b := sbits w 104 8
  if w = ci.word opc sub then some (opc, sub)
  else if ctlKnown o b = false ∧ w = ci.word o b then some (o, b)
  else none

/-- The instruction at the head of the one control queue, when it is this one: its caller, OPC and SUB (R16, R373). Log 93. -/
def State.peekCtl (s : State) (via : Via) (ci : CtlInsn) (opc sub : Nat) : Option (Caller × Nat × Nat) :=
  match s.ctlq with
  | [] => none
  | (v, w, args) :: _ =>
    if v ≠ via then none
    else match via with
      | .tc0 q => match s.headOf q.toNat nSquare with
        | some h =>
          let k := h.msg.pkt
          match k.data with
          | w :: args => if k.mtype = 0 ∧ args = ci.args then (wordIs w ci opc sub).map (fun x => ({ via := via, ci := ci, pkt := k }, x.1, x.2)) else none
          | [] => none
        | none => none
      | _ => if args = ci.args then (wordIs w ci opc sub).map (fun x => ({ via := via, ci := ci }, x.1, x.2)) else none

/-- Takes the head of the control queue. Log 93. -/
def State.dropCtl (s : State) (via : Via) : State :=
  let s := { s with ctlq := s.ctlq.drop 1 }
  match via with
  | .tc0 q => match s.takeHead q.toNat nSquare with | some (_, s) => s | none => s
  | _ => s

/-- Why a control instruction is turned away before its own checks (R374, R434, R463). -/
def State.ctlGate (s : State) (c : Caller) (opc : Nat) : Option Status :=
  let mgr : Bool := match c.via with | .tc0 _ => s.mgrs.contains c.pkt.seid.toNat | _ => true
  if ¬mgr then some stPerm
  else if s.boot.step ≠ 6 ∨ s.boot.halted then some stRetry
  else if 3 ≤ s.pw.state.toNat ∧ opc ≠ 0x88 then some stRetry
  else none

/-- The completion record (R375). -/
def ctlRecord (st : Status) (opc sub : Nat) (jidx : Option Nat) (result : Nat) : Slot :=
  packSlot [(8, st.toNat), (8, opc), (8, sub), (16, jidx.getD 0), (1, b1 jidx.isSome), (23, 0), (64, result)]

/-- Returns a completion record to the source: CTLDONE, or the control window with its interrupt (R375, R499). -/
def State.ctlAnswer (s : State) (c : Caller) (rec : Slot) : State :=
  match c.via with
  | .tc0 _ => s.sendSq { pkt := s.ctlDone c.pkt 1 rec }
  | .pcie => { s with winP := { s.winP with recd := rec, busy := false, done := true } }.emit (.msix 1)
  | .i3c => { s with winI := { s.winI with recd := rec, busy := false, done := true } }

/-- Completes an instruction that took effect: `s0` is the state before it (R375, R426). -/
def State.ctlOk (s : State) (s0 : State) (c : Caller) (opc sub result : Nat) : State :=
  let (src, eid) : Nat × Eid := match c.via with | .pcie => (0, 0) | .i3c => (1, 0) | .tc0 _ => (2, c.pkt.seid)
  let j := s.sec.jseq.toNat % 65536
  let e : JEntry := { src := BitVec.ofNat 8 src, opc := BitVec.ofNat 8 opc, sub := BitVec.ofNat 8 sub, eid := eid }
  let s := journalChange s0 s e (BitVec.ofNat 64 c.ci.imm.toNat)
  s.ctlAnswer c (ctlRecord stOk opc sub (some j) result)

/-- What an instruction's own checks say. -/
inductive Verdict where
  | st (x : Status)
  | wait
deriving DecidableEq, Repr

/-- Runs a control instruction: gates, its checks, and with OK its effect with a RESULT (`none`: it completes later). A BANKGIVE that waits for
its banks holds the control queue (R387). Logs 34, 93. -/
def State.runCtl (s : State) (via : Via) (ci : CtlInsn) (opc sub : Nat) (check : State → State × Verdict)
    (effect : State → Caller → State × Option Nat) : Res :=
  let s := s.sinks via
  if s.blks.any (fun e => e.2.give.isSome) then .next s
  else match s.peekCtl via ci opc sub with
    | none => .next s
    | some (c, o, b) =>
      match s.ctlGate c o with
      | some st => .next ((s.dropCtl via).ctlAnswer c (ctlRecord st o b none 0))
      | none =>
        if ¬ctlKnown o b then .next ((s.dropCtl via).ctlAnswer c (ctlRecord stInvalid o b none 0))
        else match check s with
          | (s, .wait) => .next s
          | (s, .st st) =>
            let s := s.dropCtl via
            if st ≠ stOk then .next (s.ctlAnswer c (ctlRecord st o b none 0))
            else match effect s c with
              | (t, none) => .next t
              | (t, some r) => .next (t.ctlOk s c o b r)

/-- A check that only looks. -/
def looks (f : State → Status) (s : State) : State × Verdict := (s, .st (f s))
/-- An effect with RESULT 0. -/
def plain (f : State → State) (s : State) (_ : Caller) : State × Option Nat := (f s, some 0)
/-- A check of the form, then of the state. -/
def formed (ok : Bool) (st : Status) : Status := if ok then st else stInvalid

end Sys2Proof.Machine
end

