-- ==== Sys2Proof/Machine/Operands.lean ====
section
/-! DEFINITION. Operand forms of the stage instructions: words, regions, tensors, streams, and the descriptors of the gather, filter, tally and
scoring units (12 R344 to R351, R360, R379; 10 R282, R294, R296, R305; 11 R325, R326). -/

namespace Sys2Proof.Machine

/-! ### Instruction words (R345, R346, R353, R357 to R359, R379) -/

/-- What an opcode uses: D, A and B, the largest MOD and the bits of IMM; `none` where it is reserved (R311, R346). -/
def Insn.form (i : Insn) : Option (Bool × Bool × Bool × Nat × Nat) :=
  let t := true
  let f := false
  match i.opc with
  | 0x01 | 0x03 => some (t, t, f, 0, 0)
  | 0x02 => if i.mod % 2 = 1 then some (t, f, f, 1, 0) else some (t, t, f, 0, 0)
  | 0x04 => some (t, f, f, 0, 64)
  | 0x05 => some (t, f, t, 0, 0)
  | 0x08 | 0x09 | 0x0A | 0x0B => some (t, t, t, 15, 48)
  | 0x10 | 0x12 => some (f, t, f, 0, 0)
  | 0x11 => some (f, t, t, 0, 12)
  | 0x13 | 0x14 | 0x1C | 0x20 => some (t, t, t, 0, 0)
  | 0x15 => some (f, t, f, 0, 68)
  | 0x18 => some (t, t, f, 3, 0)
  | 0x19 => match i.mod % 8 with
    | 0 => some (f, f, t, 7, 0)
    | 1 => some (t, t, t, 15, 0)
    | 2 => some (t, t, t, 7, 0)
    | 3 | 4 => some (t, f, t, 7, 0)
    | _ => none
  | 0x1D => some (t, t, t, 7, 0)
  | 0x21 => some (t, f, f, 0, 2)
  | 0x22 => some (t, f, f, 0, 1)
  | 0x28 => some (bits i.mod 0 1 = 1, bits i.mod 1 1 = 1, bits i.mod 2 1 = 1, 7, 24)
  | 0x29 => some (f, f, f, 1, i.mod % 2)
  | 0x2A => some (f, f, f, 0, 9)
  | 0x2B => some (f, f, f, 1, 64)
  | 0x2C | 0x2D | 0x2E => some (f, f, f, 0, 0)
  | _ => none

/-- Values that a form reserves or forbids (R157, R290, R340, R346, R353, R358, R359, R379). -/
def Insn.values (i : Insn) : Bool :=
  match i.opc with
  | 0x08 | 0x09 | 0x0A => i.mod ≤ 5
  | 0x0B => i.mod ≤ 6
  | 0x15 => bits i.imm 0 12 ≠ 0xFFF
  | 0x1D => i.mod % 4 ≠ 3
  | 0x21 => i.imm ≤ 2
  | 0x28 | 0x2D | 0x2E => i.pred = 0
  | 0x29 => i.mod = 1 || i.pred = 0
  | 0x2A => bits i.imm 0 8 ≠ 0
  | 0x2B => i.mod = 1 || i.imm ≠ 0
  | _ => true

/-- Whether an instruction word is legal by itself (R345, R346, R379). Log 83. -/
def Insn.legal (i : Insn) : Bool :=
  match i.form with
  | none => false
  | some (d, a, b, m, n) => (d || i.d = 0) && (a || i.a = 0) && (b || i.b = 0) && i.mod ≤ m && i.imm < 2 ^ n && i.values
      && (engineOf i.opc ≠ 4 || i.cost = 0)

/-! ### Descriptors (R347 to R351) -/

/-- Bytes `o` to `o + n - 1` of a descriptor. -/
def dfld (d : BitVec 512) (o n : Nat) : Nat := sbits d (8 * o) (8 * n)

/-- BASE of a region or tensor, by SPACE: legal when it is (R348). -/
def baseOk (d : BitVec 512) : Bool :=
  dfld d 8 1 ≤ 1 && dfld d 0 8 % 16 = 0 && dfld d 0 8 < (if dfld d 8 1 = 1 then 2 ^ 23 else 2 ^ 48) && dfld d 32 8 % 16 = 0

/-- A region: pool through the context's segments, or banks. -/
structure Region where
  bank : Bool
  base : Nat
  len  : Nat
deriving DecidableEq, Repr

/-- The region that a descriptor spells; `none` where it is malformed (R349). -/
def regionOf (d : BitVec 512) : Option Region :=
  let r : Region := { bank := dfld d 8 1 = 1, base := dfld d 0 8, len := dfld d 16 8 }
  if baseOk d ∧ dfld d 9 7 = 0 ∧ dfld d 24 8 = 0 ∧ dfld d 40 24 = 0 ∧ 1 ≤ r.len ∧ r.len ≤ 2 ^ 48 ∧ (¬r.bank ∨ r.base + r.len ≤ 2 ^ 23)
  then some r else none

/-- A tensor. -/
structure Tensor where
  bank : Bool
  base : Nat
  etype : Nat
  nrow : Nat
  ncol : Nat
  rstride : Nat
deriving DecidableEq, Repr

/-- Bits of an element type (R348). -/
def etBits (t : Nat) : Nat :=
  match t with
  | 0 | 6 | 10 => 32
  | 1 | 2 => 16
  | 5 | 7 | 11 => 64
  | 8 => 128
  | 13 => 4
  | 14 => 1
  | _ => 8

def Tensor.rowBytes (t : Tensor) : Nat := cdiv (t.ncol * etBits t.etype) 8
def Tensor.elems (t : Tensor) : Nat := t.nrow * t.ncol
/-- Address of a row; RSTRIDE is ignored when there is one row. -/
def Tensor.row (t : Tensor) (r : Nat) : Nat := if t.nrow = 1 then t.base else t.base + r * t.rstride
/-- Bytes from BASE to the end of the last row. -/
def Tensor.extent (t : Tensor) : Nat := t.row (t.nrow - 1) - t.base + t.rowBytes

/-- The tensor that a descriptor spells; `none` where it is malformed (R348). -/
def tensorOf (d : BitVec 512) : Option Tensor :=
  let t : Tensor := { bank := dfld d 8 1 = 1, base := dfld d 0 8, etype := dfld d 9 1, nrow := dfld d 16 8, ncol := dfld d 24 8, rstride := dfld d 40 8 }
  if baseOk d ∧ dfld d 10 6 = 0 ∧ dfld d 48 16 = 0 ∧ t.etype ≤ 15 ∧ t.etype ≠ 9 ∧ 1 ≤ t.nrow ∧ 1 ≤ t.ncol
      ∧ (t.nrow = 1 ∨ (t.rstride % 16 = 0 ∧ cdiv t.rowBytes 16 * 16 ≤ t.rstride))
  then some t else none

/-- Address of element `i`, in row order, of a tensor of whole bytes. -/
def Tensor.at (t : Tensor) (i : Nat) : Nat := t.row (i / t.ncol) + i % t.ncol * (etBits t.etype / 8)

/-- The runs of bytes that hold elements `i` to `i + n - 1`; fuel bounds the rows. -/
def Tensor.runs (t : Tensor) : Nat → Nat → Nat → List (Nat × Nat)
  | 0, _, _ => []
  | fuel + 1, i, n =>
    if n = 0 then []
    else
      let k := min n (t.ncol - i % t.ncol)
      (t.at i, k * (etBits t.etype / 8)) :: t.runs fuel (i + k) (n - k)

/-- Whether a stream descriptor is legal (R351). -/
def streamOk (d : BitVec 512) : Bool :=
  let n := dfld d 16 8
  dfld d 0 8 % 4096 = 0 && dfld d 0 8 < 2 ^ 48 && dfld d 8 8 = 0 && 4096 ≤ n && n ≤ 2 ^ 40 && 2 ^ Nat.log2 n = n
    && dfld d 24 8 % 128 = 0 && dfld d 24 8 < 2 ^ 48 && dfld d 32 32 = 0

/-! ### Gather descriptor (R282) -/

def gdTbase (d : BitVec 512) : Nat := dfld d 0 6
def gdRows (d : BitVec 512) : Nat := dfld d 8 8
def gdStride (d : BitVec 512) : Nat := dfld d 16 4
def gdRowb (d : BitVec 512) : Nat := dfld d 20 2
def gdIdxt (d : BitVec 512) : Nat := dfld d 22 1
def gdUnique (d : BitVec 512) : Bool := sbits d 184 2 = 1
def gdDeliver (d : BitVec 512) : Bool := sbit d 186
def gdNoLocal (d : BitVec 512) : Bool := sbit d 187
def gdDstride (d : BitVec 512) : Nat := dfld d 24 4
def gdDoff (d : BitVec 512) : Nat := dfld d 28 4
def gdInvoff (d : BitVec 512) : Nat := dfld d 32 8
def gdGroup (d : BitVec 512) : Nat := dfld d 40 2
def gdDid (d : BitVec 512) : Nat := dfld d 42 2
def gdWoff (d : BitVec 512) : Nat := dfld d 44 8

/-- Whether a gather descriptor is legal for GATHER (R282, R283). -/
def gdLegal (d : BitVec 512) : Bool :=
  let rb := gdRowb d
  dfld d 6 2 = 0 && 1 ≤ gdRows d && rb % 16 = 0 && 16 ≤ rb && rb ≤ 4096 && gdStride d % 16 = 0 && rb ≤ gdStride d && gdIdxt d ≤ 1
    && sbits d 184 2 ≤ 1 && sbits d 188 4 = 0 && gdDstride d % 16 = 0 && rb ≤ gdDstride d && gdGroup d < 4096 && gdWoff d < 2 ^ 40
    && dfld d 52 12 = 0 && (!gdDeliver d || gdGroup d ≠ 0xFFF) && (!gdNoLocal d || gdDeliver d)

/-! ### Scan descriptor and predicate terms (R294 to R297) -/

def scRbase (d : BitVec 512) : Nat := dfld d 0 6
def scFirst (d : BitVec 512) : Nat := dfld d 8 8
def scNrec (d : BitVec 512) : Nat := dfld d 16 8
def scEnd (d : BitVec 512) : Nat := scFirst d + scNrec d
def scRecb (d : BitVec 512) : Nat := dfld d 24 2
def scNterm (d : BitVec 512) : Nat := dfld d 26 1
def scModel (d : BitVec 512) : Nat := dfld d 27 1
def scScoreOn (d : BitVec 512) : Bool := sbit d 224
def scTallyOn (d : BitVec 512) : Bool := sbit d 225
def scNoOut (d : BitVec 512) : Bool := sbit d 226
def scTdesc (d : BitVec 512) : Nat := dfld d 29 1
def scPboff (d : BitVec 512) : Nat := dfld d 32 4
def scThresh (d : BitVec 512) : Nat := dfld d 36 4
/-- The used projection spans: start and length in 16 B units. -/
def scSpans (d : BitVec 512) : List (Nat × Nat) :=
  ((List.range 4).map (fun k => (dfld d (40 + 2 * k) 1, dfld d (41 + 2 * k) 1))).filter (fun x => x.2 ≠ 0)
/-- Bytes of a survivor (R300). -/
def scOutb (d : BitVec 512) : Nat :=
  if scSpans d = [] then scRecb d + 16 else 16 * ((scSpans d).map (·.2)).sum + 16

/-- Whether a scan descriptor is legal but for its terms (R294, R295). -/
def scLegal (d : BitVec 512) : Bool :=
  let rb := scRecb d
  dfld d 6 2 = 0 && rb % 16 = 0 && 16 ≤ rb && rb ≤ 4096 && scNterm d ≤ 32 && dfld d 28 1 < 8 && dfld d 30 2 = 0 && scPboff d % 16 = 0
    && dfld d 48 16 = 0 && (scSpans d).all (fun x => 16 * (x.1 + x.2) ≤ rb)

/-- Fields of a predicate term. -/
structure Term where
  off : Nat
  ft  : Nat
  op  : Nat
  grp : Nat
  neg : Bool
  nb  : Nat
  off2 : Nat
  k   : Nat
deriving DecidableEq, Repr

def termOf (w : BitVec 128) : Term :=
  { off := sbits w 0 16, ft := sbits w 16 8, op := sbits w 24 8, grp := sbits w 32 3, neg := sbit w 35, nb := sbits w 40 8,
    off2 := sbits w 48 16, k := sbits w 64 64 }

/-- Bytes of a field type 0 to 8. -/
def ftWidth (t : Nat) : Nat :=
  match t with
  | 0 | 4 => 1
  | 1 | 5 => 2
  | 3 | 7 => 8
  | _ => 4

/-- Whether a term is legal and lies in a record of `recb` bytes (R295 to R297). -/
def termLegal (w : BitVec 128) (recb : Nat) : Bool :=
  let t := termOf w
  let n := ftWidth t.ft
  let fits := fun v => decide (v < 2 ^ (8 * n))
  let types : Bool :=
    if t.op ≤ 5 ∨ t.op = 10 then t.ft ≤ 8
    else if t.op = 6 then t.ft ≤ 2 || (4 ≤ t.ft && t.ft ≤ 6) || t.ft = 8
    else if t.op = 7 ∨ t.op = 8 then t.ft ≤ 2
    else t.op = 9 && t.ft = 9
  types && sbits w 36 4 = 0 && (t.op = 10 || t.off2 = 0)
    && (if t.op = 9 then 1 ≤ t.nb && t.nb ≤ 8 && t.k < 2 ^ (8 * t.nb) && t.off + t.nb ≤ recb
        else t.nb = 0 && t.off + n ≤ recb && (t.op ≠ 10 || t.off2 + n ≤ recb)
          && (if t.op = 6 ∨ t.op = 7 then fits (bits t.k 0 32) && fits (bits t.k 32 32)
              else if t.op = 8 then bits t.k 32 32 ≤ 2 ^ 22 else fits t.k))

/-! ### Tally descriptor (R305) -/

/-- Key part `k`: OFF, LEN, XF, BASE, WIDTH, NB. -/
structure KeyPart where
  off : Nat
  len : Nat
  xf  : Nat
  base : Nat
  width : Nat
  nb  : Nat
deriving DecidableEq, Repr

def tdPart (d : BitVec 512) (k : Nat) : KeyPart :=
  let o := 8 * k
  { off := dfld d o 2, len := dfld d (o + 2) 1, xf := dfld d (o + 3) 1, base := dfld d (o + 4) 2, width := dfld d (o + 6) 1, nb := dfld d (o + 7) 1 }
/-- The used key parts. -/
def tdParts (d : BitVec 512) : List KeyPart := ((List.range 4).map (tdPart d)).filter (fun p => p.len ≠ 0)
def tdVoff (d : BitVec 512) (k : Nat) : Nat := dfld d (32 + 4 * k) 2
def tdVtype (d : BitVec 512) (k : Nat) : Nat := dfld d (34 + 4 * k) 1
def tdRkoff (d : BitVec 512) : Nat := dfld d 40 2
def tdRkmode (d : BitVec 512) : Nat := dfld d 42 1
def tdLog (d : BitVec 512) : Nat := dfld d 43 1
def tdCells (d : BitVec 512) : Nat := 2 ^ tdLog d
def tdTboff (d : BitVec 512) : Nat := dfld d 44 4
def tdSeed (d : BitVec 512) : Nat := dfld d 48 4
def tdPtoff (d : BitVec 512) : Nat := dfld d 52 4
def tdPerturbs (d : BitVec 512) : Bool := tdPtoff d ≠ 0xFFFFFFFF
def tdSpill (d : BitVec 512) : Nat := dfld d 56 1
def tdSpillOn (d : BitVec 512) : Bool := sbit d 456
/-- Bytes of a value type. -/
def vtBytes (t : Nat) : Nat := if t = 1 ∨ t = 2 then 4 else if t = 3 ∨ t = 4 then 8 else 0

/-- Whether a tally descriptor is legal; with `recb`, whether what it names lies in a record (R295, R305, R306). -/
def tdLegal (d : BitVec 512) (recb : Option Nat) : Bool :=
  let fits := fun (o n : Nat) => match recb with | some r => decide (o + n ≤ r) | none => true
  (tdParts d).all (fun p =>
    (if p.xf = 0 then p.len ≤ 16 else p.xf = 1 && (p.len = 1 || p.len = 2 || p.len = 4) && 1 ≤ p.width && 1 ≤ p.nb) && fits p.off p.len)
  && ((tdParts d).map (fun p => if p.xf = 0 then p.len else 1)).sum ≤ 16
  && [0, 1].all (fun k => tdVtype d k ≤ 4 && (tdVtype d k = 0 || fits (tdVoff d k) (vtBytes (tdVtype d k))))
  && dfld d 35 1 = 0 && dfld d 39 1 = 0 && tdRkmode d ≤ 2 && (tdRkmode d = 0 || fits (tdRkoff d) 4)
  && 8 ≤ tdLog d && tdLog d ≤ 17 && tdTboff d % 64 = 0 && dfld d 57 1 ≤ 1 && dfld d 58 6 = 0

/-! ### Model descriptor, layer records, kiln headers (R325 to R327, R329, R334) -/

def mdLoff (d : BitVec 512) : Nat := dfld d 0 4
def mdLayers (d : BitVec 512) : Nat := dfld d 4 1
def mdInt (d : BitVec 512) : Nat := dfld d 5 1
/-- Span `k` of a record in bytes: start and length. -/
def mdSpan (d : BitVec 512) (k : Nat) : Nat × Nat := (16 * dfld d (6 + 2 * k) 1, 16 * dfld d (7 + 2 * k) 1)

def lyF (l : BitVec 256) (o n : Nat) : Nat := sbits l (8 * o) (8 * n)
def lyPair (l : BitVec 256) : Bool := lyF l 0 1 = 1
def lyW (l : BitVec 256) : Nat := lyF l 1 1
def lyAct (l : BitVec 256) : Nat := lyF l 2 1
def lyOut (l : BitVec 256) : Nat := lyF l 3 1
def lyK (l : BitVec 256) : Nat := lyF l 4 2
def lyN (l : BitVec 256) : Nat := lyF l 6 2
def lyWoff (l : BitVec 256) : Nat := lyF l 8 4
def lyBoff (l : BitVec 256) : Nat := lyF l 12 4
def lyBias (l : BitVec 256) : Bool := lyBoff l ≠ 0xFFFFFFFF
def lyShift (l : BitVec 256) : Int := signed 8 (lyF l 16 1)
def lyKiln (l : BitVec 256) : Bool := !lyPair l && 6 ≤ lyW l
/-- Whether a layer computes in the integer class (R320). -/
def lyInteger (l : BitVec 256) : Bool := lyPair l || lyW l ≤ 1 || 5 ≤ lyW l

/-- Bits of an activation or output format. -/
def qBits (f : Nat) : Nat :=
  match f with
  | 1 => 4
  | 4 => 16
  | 5 => 1
  | 6 | 7 => 32
  | _ => 8
/-- Bits of a weight in a format that is not kiln. -/
def wBits (f : Nat) : Nat :=
  match f with
  | 1 => 4
  | 4 => 16
  | 5 => 1
  | _ => 8
/-- Bytes of a kiln block, and bits of its codes (R330). -/
def kilnBytes (f : Nat) : Nat := if f = 6 then 18 else if f = 7 then 14 else 10
def kilnBits (f : Nat) : Nat := if f = 6 then 4 else if f = 7 then 3 else 2

/-- Whether a layer takes activations of format `q` (R320). -/
def lyTakes (l : BitVec 256) (q : Nat) : Bool :=
  match lyW l with
  | 0 | 6 | 7 | 8 => q = 0
  | 1 => q = 1
  | 2 | 3 => q = 2 || q = 3
  | 4 => q = 4
  | _ => q = 5
/-- Whether a layer's output format is allowed for its class (R323). -/
def lyGives (l : BitVec 256) : Bool :=
  let q := lyOut l
  if lyInteger l then q ≤ 1 || (5 ≤ q && q ≤ 7) else (2 ≤ q && q ≤ 4) || q = 7

/-- Whether a layer record is legal by itself (R326). -/
def lyLegal (l : BitVec 256) : Bool :=
  lyF l 0 1 ≤ 1 && (if lyPair l then lyW l ≤ 2 else lyW l ≤ 8) && lyAct l ≤ 1 && lyOut l ≤ 7 && 1 ≤ lyK l && 1 ≤ lyN l && lyN l ≤ 4096
    && -32 ≤ lyShift l && lyShift l ≤ 63 && (lyInteger l || lyShift l = 0) && lyF l 17 15 = 0 && lyGives l

/-- Whether each layer fits what comes before it: `q` the format and `n` the number of its inputs (R327). -/
def lyChain : Nat → Nat → List (BitVec 256) → Bool
  | _, _, [] => true
  | q, n, l :: r => lyTakes l q && lyK l = n && (if r = [] then (6 ≤ lyOut l && lyN l = 1) else lyOut l ≤ 5) && lyChain (lyOut l) (lyN l) r

/-- Whether a model descriptor is legal by itself (R325). -/
def mdLegal (d : BitVec 512) : Bool :=
  mdLoff d % 32 = 0 && 1 ≤ mdLayers d && mdLayers d ≤ 8 && mdInt d ≤ 5 && (mdSpan d 0).2 ≠ 0 && dfld d 10 54 = 0

/-- Whether a model with its layer records is legal for records of `recb` bytes (R327). -/
def modelLegal (d : BitVec 512) (ls : List (BitVec 256)) (recb : Nat) : Bool :=
  let (s0, n0) := mdSpan d 0
  let (s1, n1) := mdSpan d 1
  ls.all lyLegal && s0 + n0 ≤ recb
    && (match ls with
        | [] => false
        | l :: r =>
          if ls.any lyPair then
            r = [] && lyPair l && mdInt d = 5 && lyOut l = 6 && lyN l = 1 && lyK l = 8 * n0 && lyK l ≤ 4096 && !lyBias l && n1 = n0 && s1 + n1 ≤ recb
          else n1 = 0 && lyK l * qBits (mdInt d) = 8 * n0 && lyChain (mdInt d) (lyK l) ls)

/-- Whether a kiln header fits its layer (R329, R334). Log 84. -/
def kilnOk (h : List Byte) (l : BitVec 256) : Bool :=
  natAt h 0 1 + 6 = lyW l && natAt h 1 1 = 0 && natAt h 2 2 = lyK l && natAt h 4 2 = lyN l && natAt h 6 2 = 0 && natAt h 28 4 = 0
/-- Bytes of a layer's weights in banks (R327, R331). -/
def lyBytes (l : BitVec 256) : Nat :=
  if lyKiln l then lyN l * cdiv (lyK l) 32 * kilnBytes (lyW l) else lyN l * cdiv (lyK l * wBits (lyW l)) 8

/-! ### Units of work and their costs (R360) -/

/-- Cycles of a memory request of `n` bytes. -/
def ioCost (n : Nat) : Nat := 4 + cdiv n 256
/-- The longest of the first `k` pieces that `f` cuts from a run of `n` bytes: later ones repeat their sizes or are shorter. -/
def longest (f : Nat → Nat → Nat) : Nat → Nat → Nat → Nat
  | 0, _, _ => 0
  | k + 1, o, n => if n = 0 then 0 else max (f o n) (longest f k (o + f o n) (n - f o n))

/-- The next piece of a MOVE from `a` to `d`: cut at the boundaries of its pool sides (R360). -/
def movePiece (a d : Region) (o n : Nat) : Nat :=
  match a.bank, d.bank with
  | false, false => min (nextPiece (a.base + o) n) (nextPiece (d.base + o) n)
  | true, false => nextPiece (d.base + o) n
  | _, _ => nextPiece (a.base + o) n

/-- Tile geometry of a layer: Kt, Lt and c (R315, R317). A PAIRB1 layer is one pass in the B1 geometry (log 60). -/
def lyKt (l : BitVec 256) : Nat := if lyPair l then 4096 else if lyW l = 1 then 256 else if lyW l = 5 then 4096 else 128
def lyLt (l : BitVec 256) : Nat := if lyPair l then 29 else match lyW l with
  | 4 => 15
  | 5 => 29
  | 6 | 7 | 8 => 4
  | _ => 8
def lyC (l : BitVec 256) : Nat := if !lyPair l && lyW l = 4 then 4 else 1
/-- Tiles of a layer across its inputs and across its outputs (R316). Log 60. -/
def lyTiles (l : BitVec 256) : Nat × Nat := (cdiv (lyK l) (lyKt l), cdiv (lyN l) 128)
/-- Cycles of a tile pass over `b` records (R318). -/
def passCost (l : BitVec 256) (b : Nat) (first : Bool) : Nat := max (b * lyC l) (lyLt l) + (if first then 260 else 0)
/-- The most expensive tile pass of a model. -/
def topPass (ls : List (BitVec 256)) (b : Nat) : Nat := (ls.map (fun l => passCost l b true)).foldl max 0
/-- The largest batch, at most `n`, whose tile passes fit `lim` cycles; 1 at least. -/
def batchMax (ls : List (BitVec 256)) (lim : Nat) : Nat → Nat
  | 0 => 1
  | n + 1 => if topPass ls (n + 1) ≤ lim then n + 1 else batchMax ls lim n
/-- Layer, output group and input group of tile pass `t` of a batch, in the order of R316. -/
def tileAt : List (BitVec 256) → Nat → Nat → Option (Nat × BitVec 256 × Nat × Nat)
  | [], _, _ => none
  | l :: r, i, t =>
    let (k, n) := lyTiles l
    if t < k * n then some (i, l, t / k, t % k) else tileAt r (i + 1) (t - k * n)

/-! ### Descriptors as an instruction uses them (R347, R357) -/

/-- A descriptor with BASE stepped by the open loop that steps it. -/
def State.sdesc (s : State) (c i : Nat) : BitVec 512 :=
  let d := (s.desc c i).1
  match (s.ctx c).loops.find? (fun f => f.steps.contains i) with
  | some f =>
    let b := ((dfld d 0 8 : Int) + f.iter * signed 64 (dfld d 32 8)) % (2 ^ 64 : Nat)
    (d >>> 64 <<< 64) ||| BitVec.ofNat 512 b.toNat
  | none => d

/-- Whether a region or tensor in banks lies in banks that the context owns (R350). -/
def State.ownsRegion (s : State) (c : Nat) (r : Region) : Bool := !r.bank || s.owns c r.base r.len
def State.ownsTensor (s : State) (c : Nat) (t : Tensor) : Bool := !t.bank || s.owns c t.base t.extent

end Sys2Proof.Machine
end

