-- ==== Sys2Proof/Machine/Filter.lean ====
section
/-! DEFINITION. What the filter and tally units compute: predicates, projections, headers, keys, cells, final rows (10 R296 to R313). -/

namespace Sys2Proof.Machine

/-! ### Predicates (R297, R298) -/

/-- The order key of a field: `none` for a NaN; −0 equals +0. -/
def ftKey (ft v : Nat) : Option Int :=
  if ft ≤ 3 then some (v : Int)
  else if ft ≤ 7 then some (signed (8 * ftWidth ft) v)
  else if fmtF32.decode v = .nan then none
  else if v % 2 ^ 31 = 0 then some 0 else some (fmtF32.key v)

/-- Whether `a − b` lies within `c` of zero, as reals (DIFFLE). -/
def floatDiff (a b c : Nat) : Bool :=
  let neg := fun (x : Fl) => match x with
    | .fin m e => Fl.fin (-m) e
    | .inf n => .inf (!n)
    | .zero n => .zero (!n)
    | .nan => .nan
  let abs := fun (x : Fl) => match x with
    | .fin m e => Fl.fin (if m < 0 then -m else m) e
    | .inf _ => .inf false
    | .zero _ => .zero false
    | .nan => .nan
  let d := abs ((fmtF32.decode a).add (neg (fmtF32.decode b)))
  match d, fmtF32.decode c with
  | .nan, _ => false
  | _, .nan => false
  | .inf _, k => k = .inf false
  | _, .inf n => !n
  | x, k => match k.add (neg x) with
    | .fin m _ => 0 < m
    | .zero _ => true
    | _ => false

/-- One term on a record, before NEG; `bit` reads the bitmaps. -/
def termHit (rec : List Byte) (t : Term) (bit : Nat → Nat → Bool) : Bool :=
  if t.op = 9 then natAt rec t.off t.nb = t.k
  else
    let n := ftWidth t.ft
    let f := natAt rec t.off n
    let x := ftKey t.ft f
    let cmp := fun (r : Int → Int → Bool) (c : Nat) => match x, ftKey t.ft c with
      | some a, some b => r a b
      | _, _ => false
    let lo := bits t.k 0 32
    let hi := bits t.k 32 32
    match t.op with
    | 0 => cmp (fun a b => a = b) t.k
    | 1 => !cmp (fun a b => a = b) t.k
    | 2 => cmp (fun a b => a < b) t.k
    | 3 => cmp (fun a b => a ≤ b) t.k
    | 4 => cmp (fun a b => b < a) t.k
    | 5 => cmp (fun a b => b ≤ a) t.k
    | 6 => cmp (fun a b => b ≤ a) lo && cmp (fun a b => a ≤ b) hi
    | 7 => f &&& lo = hi
    | 8 => f < hi && bit lo f
    | _ =>
      let g := natAt rec t.off2 n
      if t.ft = 8 then floatDiff f g t.k
      else match x, ftKey t.ft g, ftKey t.ft t.k with
        | some a, some b, some c => decide ((a - b).natAbs ≤ c)
        | _, _, _ => false

/-- Whether a record passes: every group that holds a term contains a true one, taken after NEG. -/
def passes (rec : List Byte) (ts : List Term) (bit : Nat → Nat → Bool) : Bool :=
  ts.all (fun t => ts.any (fun u => u.grp = t.grp && (termHit rec u bit != u.neg)))

/-! ### Survivors and headers (R300, R301) -/

/-- The bytes of a survivor. -/
def survivor (d : BitVec 512) (rec : List Byte) (idx score : Nat) : List Byte :=
  let body := if scSpans d = [] then rec else (scSpans d).flatMap (fun x => bytesAt rec (16 * x.1) (16 * x.2))
  body ++ leBytes 8 idx ++ leBytes 4 score ++ leBytes 4 0

/-- The scan header of an operation with a status. -/
def Op.header (o : Op) (st : Status) : List Byte :=
  leBytes 8 o.scanned ++ leBytes 8 o.passed ++ leBytes 8 o.surv ++ leBytes 8 o.next ++ leBytes 8 o.poisoned ++ leBytes 8 o.firstPois.toNat
    ++ leBytes 1 o.full.toNat ++ leBytes 1 st.toNat ++ leBytes 14 0

/-! ### Keys (R306 to R308) -/

def keyPartBytes (rec : List Byte) (p : KeyPart) : List Byte :=
  if p.xf = 0 then bytesAt rec p.off p.len
  else
    let v := signed (8 * p.len) (natAt rec p.off p.len)
    let q := (v - signed 16 p.base).fdiv p.width
    [BitVec.ofNat 8 (min (p.nb - 1) q.toNat)]

/-- A record's key, 16 B. -/
def tallyKey (d : BitVec 512) (rec : List Byte) : List Byte := bytesAt ((tdParts d).flatMap (keyPartBytes rec)) 0 16

/-- H of R308. -/
def hash64 (x : BitVec 64) : BitVec 64 :=
  let x := x ^^^ (x >>> 31)
  let x := x * 0x9E3779B97F4A7C15#64
  let x := x ^^^ (x >>> 29)
  let x := x * 0xA3B195D4E8F26C07#64
  x ^^^ (x >>> 32)

/-- A key's home slot. -/
def homeSlot (d : BitVec 512) (key : List Byte) : Nat :=
  (hash64 (BitVec.ofNat 64 (natAt key 0 8) ^^^ hash64 (BitVec.ofNat 64 (natAt key 8 8)))).toNat % tdCells d

/-- A record's record key. -/
def recordKey (d : BitVec 512) (rec : List Byte) : Nat :=
  let f := natAt rec (tdRkoff d) 4
  match tdRkmode d with
  | 0 => 0
  | 1 => f
  | _ => (hash64 (BitVec.ofNat 64 f)).toNat / 2 ^ 32

/-- Value field `k`, extended, as a 128-bit value. -/
def tallyValue (d : BitVec 512) (rec : List Byte) (k : Nat) : Nat :=
  let t := tdVtype d k
  let v := natAt rec (tdVoff d k) (vtBytes t)
  match t with
  | 0 => 0
  | 1 => sfield 128 (signed 32 v)
  | 3 => sfield 128 (signed 64 v)
  | _ => v

/-! ### Cells (R309, R310, R313) -/

/-- A cell's bytes. -/
def cellBytes (key : List Byte) (count rk s0 s1 : Nat) : List Byte :=
  bytesAt key 0 16 ++ leBytes 8 count ++ leBytes 4 rk ++ leBytes 4 1 ++ leBytes 16 s0 ++ leBytes 16 s1

/-- A cell image with its reserved bytes clear. -/
def cellOf (c : List Byte) : List Byte := cellBytes c (natAt c 16 8) (natAt c 24 4) (natAt c 32 16) (natAt c 48 16)

/-- The cell image of one record. -/
def recordCell (d : BitVec 512) (rec : List Byte) : List Byte :=
  cellBytes (tallyKey d rec) 1 (recordKey d rec) (tallyValue d rec 0) (tallyValue d rec 1)

/-- Two cells of one key added. -/
def cellAdd (c e : List Byte) : List Byte :=
  cellBytes c (natAt c 16 8 + natAt e 16 8) (natAt c 24 4 + natAt e 24 4) (natAt c 32 16 + natAt e 32 16) (natAt c 48 16 + natAt e 48 16)

def cellUsed (c : List Byte) : Bool := natAt c 28 1 % 2 = 1

/-- Where a contribution goes. -/
inductive Placed where
  | ok (b : Block)
  | full
  | poison

/-- Adds a cell image to a table in a Block's banks (R308, R310). -/
def Block.place (b : Block) (d : BitVec 512) (img : List Byte) : Placed :=
  let h := homeSlot d img
  let at' := fun i => tdTboff d + 64 * ((h + i) % tdCells d)
  let key := bytesAt img 0 16
  let is := List.range 32
  if is.any (fun i => b.bad (at' i) 64) then .poison
  else
    let cell := fun i => b.peeks (at' i) 64
    match is.find? (fun i => cellUsed (cell i) && bytesAt (cell i) 0 16 = key) with
    | some i => .ok (b.write (at' i) (cellAdd (cell i) img) false)
    | none => match is.find? (fun i => !cellUsed (cell i)) with
      | some i => .ok (b.write (at' i) (cellOf img) false)
      | none => .full

/-- Keys in the order of R312: bytes compared from byte 0. -/
def keyLe : List Byte → List Byte → Bool
  | [], _ => true
  | _, [] => false
  | a :: r, b :: q => a.toNat < b.toNat || (a = b && keyLe r q)

/-- Inserts a cell in key order. -/
def cellIns (c : List Byte) : List (List Byte) → List (List Byte)
  | [] => [c]
  | e :: r => if keyLe (c.take 16) (e.take 16) then c :: e :: r else e :: cellIns c r

/-- The used cells of a table in the order of R312. -/
def Block.cells (b : Block) (d : BitVec 512) : List (List Byte) :=
  (((List.range (tdCells d)).map (fun i => b.peeks (tdTboff d + 64 * i) 64)).filter cellUsed).foldr cellIns []

/-- PCOUNT of a cell (R313). A used cell with COUNT 0 takes row 0 (log 61). -/
def Block.pcount (b : Block) (d : BitVec 512) (c : List Byte) : Nat :=
  let n := natAt c 16 8
  if ¬tdPerturbs d then n
  else
    let x := (natAt c 24 4 + tdSeed d) % 2 ^ 32
    let v := signed 8 (b.peek (tdPtoff d + 256 * (min n 32 - 1) + x / 2 ^ 24)).toNat
    ((n : Int) + v).toNat

/-- The final row of a cell; `none` where PCOUNT is 0 (R311). -/
def Block.finalRow (b : Block) (d : BitVec 512) (c : List Byte) : Option (List Byte) :=
  let p := b.pcount d c
  if p = 0 then none else some (bytesAt c 0 24 ++ leBytes 8 p ++ bytesAt c 32 32)

end Sys2Proof.Machine
end

