-- ==== Sys2Proof/Machine/Flags.lean ====
section
/-! DEFINITION. Predicate registers and outcome bits (12 R352 to R354), FULL bits of a scan header (10 R301). -/

namespace Sys2Proof.Machine

/-- A predicate register; p0 reads 1 (R352). -/
def Ctx.pred (x : Ctx) (n : Nat) : Bool := n = 0 || x.preds.getLsbD n

/-- The predicate that an instruction writes, 0 for none: LOOP, ENDLOOP, SKIP, YIELD and END write none (R353). -/
def Insn.predW (i : Insn) : Nat := if [0x28, 0x29, 0x2A, 0x2D, 0x2E].contains i.opc then 0 else i.pred

/-- Writes a predicate; p0 is not written. -/
def Ctx.setPred (x : Ctx) (n : Nat) (v : Bool) : Ctx :=
  let bit : BitVec 16 := BitVec.ofNat 16 (2 ^ n)
  if n = 0 then x else { x with preds := if v then x.preds ||| bit else x.preds &&& ~~~bit }

/-- Bits of FULL (R301): output region full, key not placed, something spilled. -/
abbrev fullOut : BitVec 8 := 1
abbrev fullKey : BitVec 8 := 2
abbrev fullSpilled : BitVec 8 := 4

/-- Whether a scan ran to its end: the outcome of FSCAN and TALLY ACCUM (R353). -/
def Op.ranOut (o : Op) : Bool := o.next = scEnd o.a

end Sys2Proof.Machine
end

