-- ==== Sys2Proof/Machine/Issue.lean ====
section
/-! DEFINITION. Issue of stage instructions: the head of a program, the sequencer's own instructions, the checks each engine instruction
meets before its first slice (02 R46; 10 R283, R290, R291, R295, R311; 11 R325 to R340; 12 R344 to R368, R379). -/

namespace Sys2Proof.Machine

/-! ### The next instruction -/

/-- The program counter past an instruction, its issue number taken, the predicate it writes noted (R355). -/
def State.advance (s : State) (c : Nat) (i : Insn) : State :=
  s.updCtx c (fun x => { x with pcx := x.pcx + 1, seq := x.seq + 1,
                                predSeq := if i.predW = 0 then x.predSeq else tins (tdel x.predSeq i.predW) i.predW x.seq })

/-- An instruction completes as it issues. -/
def State.endInsn (s : State) (c : Nat) (idx : BitVec 16) (pred : Nat) (st : Status) (outc : Bool) : State :=
  (s.outcome c idx pred st outc).settleIssue c

/-- Whether an instruction in flight wrote, in this tick, a word that the sequencer reads: that of the next instruction or of descriptors `ks`. Log 92. -/
def State.fetchWritten (s : State) (c : Nat) (ks : List Nat) : Bool :=
  let x := s.ctx c
  let rd := (x.proff.toNat + 16 * x.pcx, 16) :: ks.map (fun k => (x.dtoff.toNat + 64 * k, 64))
  (s.blk (c / 16)).run.any (fun y => match y.2 with
    | some r => r.tick = s.now && x.inFlight.any (fun o => o.seq = r.seq) && r.ctx = c && r.wrote.any (fun w => rd.any (fun z =>
        w.2 ≠ 0 && decide (w.1 / 16 ≤ (z.1 + z.2 - 1) / 16) && decide (z.1 / 16 ≤ (w.1 + w.2 - 1) / 16)))
    | none => false)

/-- Whether the sequencer's reads meet such a write in one cycle (R389): in how many cycles is a free value. Log 92. -/
def State.fetchClash (s : State) (c : Nat) (ks : List Nat) : Bool × State :=
  if s.fetchWritten c ks then
    let (n, s) := s.free
    (decide (n ≠ 0), s.updBlk (c / 16) (fun b => { b with bankColl := satAdd b.bankColl n }))
  else (false, s)

/-- Issues the next instruction of a context when it may issue and is one of `row`: a word or descriptor that cannot be read faults the context,
an illegal word completes with INVALID_INSTRUCTION (R345, R347, R355, R388, R465), any other goes on. -/
def State.stage (s : State) (c : Nat) (row : Insn → Bool) (go : State → Insn → Op → State) : State :=
  if s.canIssue c = false then s
  else
    let x := s.ctx c
    match s.fetch c with
    | .none => s
    | .fault st => (s.faultCtx c st (BitVec.ofNat 16 x.pcx)).review
    | .insn w =>
      let i := insnOf w
      if row i = false then s
      else
        let o : Op := { seq := x.seq, idx := BitVec.ofNat 16 x.pcx, word := w, writes := s.writesOf c i }
        let bad := (s.names c i).any (fun k => (s.desc c k).2)
        let (hit, s) := s.fetchClash c (s.names c i)
        let s := s.advance c i
        (if hit then s.faultCtx c stBusy o.idx
         else if i.legal = false then s.endInsn c o.idx i.predW stInvalid false
         else if bad then s.faultCtx c stPoison o.idx
         else go s i o).review

/-! ### The sequencer's instructions (R356 to R359) -/

/-- Whether a descriptor may be stepped by a new loop (R357). -/
def State.steppable (s : State) (c i : Nat) : Bool :=
  let d := (s.desc c i).1
  ((regionOf d).isSome || (tensorOf d).isSome) && (s.ctx c).loops.all (fun f => !f.steps.contains i)

def State.seqLoop (c : Nat) (s : State) (i : Insn) (o : Op) : State :=
  let ks := s.names c i
  if ks.all (s.steppable c) ∧ (s.ctx c).loops.length < 4 then
    s.updCtx c (fun x => { x with loops := { start := x.pcx, last := i.imm, iter := 0, steps := ks } :: x.loops })
  else s.endInsn c o.idx 0 stInvalid false

def State.seqEndloop (c : Nat) (s : State) (i : Insn) (o : Op) : State :=
  let x := s.ctx c
  match x.loops with
  | [] => s.endInsn c o.idx 0 stInvalid false
  | f :: r =>
    if (i.mod = 1 ∧ x.pred i.pred = decide (i.imm = 1)) ∨ f.last = 0 then s.setCtx c { x with loops := r }
    else s.setCtx c { x with pcx := f.start, loops := { f with last := f.last - 1, iter := f.iter + 1 } :: r }

def State.seqSkip (c : Nat) (s : State) (i : Insn) (_ : Op) : State :=
  s.updCtx c (fun x => if x.pred i.pred = decide (bits i.imm 8 1 = 1) then { x with pcx := x.pcx + bits i.imm 0 8 } else x)

/-- Holds issue until the boundary that begins tick `t`. -/
def State.holdIssue (s : State) (c t pred : Nat) : State :=
  s.updCtx c (fun x => ({ x with hold := some t, holdPred := BitVec.ofNat 4 pred } : Ctx).block { src := 4, why := 3 })

def State.seqWaitt (c : Nat) (s : State) (i : Insn) (o : Op) : State :=
  if i.mod = 0 then s.holdIssue c (s.now + i.imm) i.pred
  else if i.imm ≤ s.now then s.endInsn c o.idx i.pred stOk false
  else s.holdIssue c i.imm i.pred

/-- The boundary that a WAITT or YIELD waits for has come: a WAITT writes its predicate. -/
def State.endHold (s : State) (c : Nat) : State :=
  let x := s.ctx c
  match x.hold with
  | some t => if t ≤ s.now then (s.setCtx c ((({ x with hold := none } : Ctx).setPred x.holdPred.toNat true).unblock 4)).review else s
  | none => s

def State.seqFence (c : Nat) (s : State) (i : Insn) (_ : Op) : State :=
  (s.updCtx c (fun x => { x with fence := some (BitVec.ofNat 4 i.pred) })).settleIssue c
def State.seqYield (c : Nat) (s : State) (_ : Insn) (_ : Op) : State := s.holdIssue c (s.now + 1) 0
def State.seqEnd (c : Nat) (s : State) (_ : Insn) (_ : Op) : State := (s.updCtx c (fun x => { x with ending := true })).settleIssue c

/-! ### Engine instructions at issue (R46, R350, R379) -/

/-- What an instruction's own checks give: its operation, the slice overhead, its most expensive unit, and whether its bank ranges lie in
banks that the context owns. -/
structure Plan where
  op    : Op
  past  : Nat
  top   : Nat
  owned : Bool := true

/-- Starts an engine instruction, or completes it with the status of a failed check: INVALID_INSTRUCTION before PERMISSION. -/
def State.enter (s : State) (c : Nat) (i : Insn) (o : Op) (r : Except Status Plan) : State :=
  match r with
  | .error st => s.endInsn c o.idx i.pred st false
  | .ok p =>
    if i.c < p.past + p.top ∨ s.budgetMax < i.c then s.endInsn c o.idx i.pred stInvalid false
    else if p.owned = false then s.endInsn c o.idx i.pred stPerm false
    else s.setOp c (engineOf i.opc) (some p.op)

/-- The operation with the descriptors an instruction names, as open loops step them. -/
def Op.named (o : Op) (s : State) (c : Nat) (i : Insn) : Op := { o with a := s.sdesc c i.a, b := s.sdesc c i.b, d := s.sdesc c i.d }

/-- LD and ST: equal lengths between a pool region `p` and a bank region `b`; the pool side cuts the pieces (R362). -/
def State.planCopy (s : State) (c : Nat) (o : Op) (p b : BitVec 512) : Except Status Plan :=
  match regionOf p, regionOf b with
  | some p, some b =>
    if p.bank = false ∧ b.bank = true ∧ p.len = b.len then
      .ok { op := o, past := 8, top := ioCost (longest (fun k n => nextPiece (p.base + k) n) 4 0 p.len), owned := s.ownsRegion c b }
    else .error stInvalid
  | _, _ => .error stInvalid
def State.planLd (s : State) (c : Nat) (i : Insn) (o : Op) : Except Status Plan := let o := o.named s c i; s.planCopy c o o.a o.d
def State.planSt (s : State) (c : Nat) (i : Insn) (o : Op) : Except Status Plan := let o := o.named s c i; s.planCopy c o o.d o.a

/-- ST with LOSTCLR (R363). -/
def State.planLostClr (s : State) (c : Nat) (i : Insn) (o : Op) : Except Status Plan :=
  let o := o.named s c i
  match regionOf o.d with
  | some d => if d.bank = false ∧ d.base % 128 = 0 ∧ d.len % 128 = 0 then .ok { op := o, past := 8, top := 4 } else .error stInvalid
  | none => .error stInvalid

/-- MOVE (R362). -/
def State.planMove (s : State) (c : Nat) (i : Insn) (o : Op) : Except Status Plan :=
  let o := o.named s c i
  match regionOf o.d, regionOf o.a with
  | some d, some a =>
    let past := d.bank = a.bank ∧ d.base < a.base + a.len ∧ a.base < d.base + d.len
    if d.len = a.len ∧ ¬past then
      .ok { op := o, past := 8, top := 4 + 2 * cdiv (longest (movePiece a d) 4 0 a.len) 256, owned := s.ownsRegion c d && s.ownsRegion c a }
    else .error stInvalid
  | _, _ => .error stInvalid

/-- FILL (R362). -/
def State.planFill (s : State) (c : Nat) (i : Insn) (o : Op) : Except Status Plan :=
  let o := o.named s c i
  match regionOf o.d with
  | some d =>
    if d.len % 16 = 0 then
      .ok { op := o, past := 8, top := ioCost (longest (fun k n => nextPiece (d.base + k) n) 4 0 d.len), owned := s.ownsRegion c d }
    else .error stInvalid
  | none => .error stInvalid

/-- PREFETCH (R360, R362): room for every line; a group may take one PFLIST for each of its lines. Log 87. -/
def State.planPrefetch (s : State) (c : Nat) (i : Insn) (o : Op) : Except Status Plan :=
  let o := o.named s c i
  match regionOf o.d, tensorOf o.b with
  | some d, some b =>
    let l := min 32 b.elems
    if d.bank = true ∧ b.etype = 11 ∧ 128 * b.elems ≤ d.len then
      .ok { op := o, past := 8, top := 4 + cdiv l 2 + 4 * (l - 1), owned := s.ownsRegion c d && s.ownsTensor c b }
    else .error stInvalid
  | _, _ => .error stInvalid

/-- AOP of an atomic's opcode, bytes of its operands (R157, R158, R364). -/
def atOperands (aop atype : Nat) : Nat := if aop = 3 ∧ atype = 6 then 32 else 16
def State.planAtomic (s : State) (c : Nat) (i : Insn) (o : Op) : Except Status Plan :=
  let o := o.named s c i
  match regionOf o.d, regionOf o.a, regionOf o.b with
  | some d, some a, some b =>
    let w := atWidth i.mod
    if d.bank = true ∧ a.bank = false ∧ b.bank = true ∧ (a.base + i.imm) % w = 0 ∧ i.imm + w ≤ a.len ∧ w ≤ d.len ∧ atOperands (i.opc - 8) i.mod ≤ b.len then
      .ok { op := o, past := 8, top := 12, owned := s.ownsRegion c d && s.ownsRegion c b }
    else .error stInvalid
  | _, _, _ => .error stInvalid

/-! ### Reduce unit (R260, R261, R366) -/

def State.planRjoin (s : State) (c : Nat) (i : Insn) (o : Op) : Except Status Plan := .ok { op := o.named s c i, past := 8, top := 24 }

/-- Elements of the longest CONTRIB of a collective (R272). -/
def contribMax (d : BitVec 512) : Nat := min (min 8191 (4096 / inWidth (cdIfmt d))) (cdCount d 0)

def State.planRcontrib (s : State) (c : Nat) (i : Insn) (o : Op) : Except Status Plan :=
  let o := o.named s c i
  match tensorOf o.b with
  | some b =>
    if cdLegal o.a = false then .error stInvalid
    else match s.findColl (s.jobOfCtx c) (cdCid o.a) with
      | none => .error stDenied
      | some (_, _, x) =>
        if cdNloc x.desc ≤ i.imm then .error stDenied
        else if b.etype = cdIfmt x.desc ∧ b.elems = cdNelem x.desc then
          .ok { op := o, past := 8, top := ioCost (contribMax x.desc * inWidth (cdIfmt x.desc)), owned := s.ownsTensor c b }
        else .error stInvalid
  | none => .error stInvalid

/-- A contributor whose next slice is not open at the root waits for its opening (R261, R262). Log 63. -/
def State.waitOpen (s : State) (c : Nat) : State :=
  match (s.ctx c).op eRed with
  | none => s
  | some o => match s.findColl (s.jobOfCtx c) (cdCid o.a) with
    | none => s
    | some (_, _, x) =>
      if sbits o.word 120 8 ≠ 0x11 ∨ o.done.isSome ∨ x.endSt.isSome ∨ cdNelem x.desc ≤ o.unit ∨ (x.phase = 1 ∧ x.slice = o.unit / cdElems x.desc) then s
      else s.updCtx c (fun x => x.block { src := eRed, why := 1, go := true })

def State.planRwait (s : State) (c : Nat) (i : Insn) (o : Op) : Except Status Plan :=
  let o := o.named s c i
  if cdLegal o.a = false then .error stInvalid
  else if (s.findColl (s.jobOfCtx c) (cdCid o.a)).isNone then .error stDenied else .ok { op := o, past := 8, top := 0 }

/-! ### Gather unit (R283, R290, R291, R368) -/

/-- Cycles of a position (R360). -/
def posCost (d : BitVec 512) (first : Bool) : Nat := 2 + cdiv (gdRowb d) 256 + (if first then 16 else 0)

/-- Bytes of region D that GATHER and SCATTER reach with `n` positions (R283). -/
def gatherSpan (g : BitVec 512) (n : Nat) : Nat :=
  max (gdDoff g + (n - 1) * gdDstride g + gdRowb g) (if gdUnique g then gdInvoff g + 8 + 4 * n else 0)

def State.planRows (s : State) (c : Nat) (i : Insn) (o : Op) (scatter : Bool) : Except Status Plan :=
  let o := o.named s c i
  match regionOf o.d, tensorOf o.b with
  | some d, some b =>
    if gdLegal o.a ∧ b.etype = 10 + gdIdxt o.a ∧ (scatter = false ∨ dfld o.a 23 1 = 0) ∧ (gdNoLocal o.a ∨ gatherSpan o.a b.elems ≤ d.len) then
      .ok { op := o, past := 8, top := posCost o.a true, owned := s.ownsRegion c d && s.ownsTensor c b }
    else .error stInvalid
  | _, _ => .error stInvalid
def State.planGather (s : State) (c : Nat) (i : Insn) (o : Op) : Except Status Plan := s.planRows c i o false
def State.planScatter (s : State) (c : Nat) (i : Insn) (o : Op) : Except Status Plan := s.planRows c i o true

/-- The next piece of an MCAST at offset `k`, cut at its DELIV packets and at 4 KiB boundaries. -/
def mcastPiece (a : Region) (k n : Nat) : Nat := min n (min (4096 - (a.base + k) % 4096) (4096 - k % 4096))
def State.planMcast (s : State) (c : Nat) (i : Insn) (o : Op) : Except Status Plan :=
  let o := o.named s c i
  match regionOf o.a with
  | some a => if a.len % 16 = 0 then .ok { op := o, past := 8, top := ioCost (longest (mcastPiece a) 4 0 a.len), owned := s.ownsRegion c a } else .error stInvalid
  | none => .error stInvalid

def State.planPublish (s : State) (c : Nat) (i : Insn) (o : Op) : Except Status Plan :=
  let o := o.named s c i
  match regionOf o.d, regionOf o.a, regionOf o.b with
  | some d, some a, some b =>
    if d.bank = false ∧ d.len = 128 ∧ d.base % 128 = 0 ∧ a.bank = false ∧ b.bank = true ∧ 16 ≤ b.len then
      .ok { op := o, past := 8, top := 16, owned := s.ownsRegion c b }
    else .error stInvalid
  | _, _, _ => .error stInvalid

/-- HINT and PIN: whole pages of the pool through one segment; `next` takes the first page, `scanned` their number (R368). -/
def State.planPages (s : State) (c : Nat) (i : Insn) (o : Op) : Except Status Plan :=
  let o := o.named s c i
  match regionOf o.d with
  | some d =>
    if d.bank then .error stInvalid
    else match segFind (s.ctx c).segs d.base d.len with
      | none => .error stNoTrans
      | some g =>
        let a := g.pbase.toNat + (d.base - g.cbase.toNat)
        if a % pgShift = 0 ∧ d.len % pgShift = 0 then .ok { op := { o with next := a / pgShift, scanned := d.len / pgShift }, past := 8, top := 8 }
        else .error stInvalid
  | none => .error stInvalid

/-! ### Models (R325 to R334, R336) -/

/-- Bank ranges of a layer's weights and biases. -/
def lyRanges (l : BitVec 256) (blk : Nat) : List (Nat × Nat) :=
  (if lyPair l then [] else if lyKiln l then [(lyWoff l, 32), (blk, lyBytes l)] else [(lyWoff l, lyBytes l)])
    ++ (if lyBias l && !lyPair l then [(lyBoff l, 4 * lyN l)] else [])

/-- Where the blocks of a kiln layer begin, by its header (R329, R331); 0 for any other layer. -/
def State.kilnHeads (s : State) (c : Nat) (ls : List (BitVec 256)) : List Nat :=
  ls.map (fun l => if lyKiln l then natAt (s.bankPeeks c (lyWoff l) 32) 24 4 else 0)

/-- Reads the layer records of a model for records of `recb` bytes, and checks it. -/
def State.loadModel (s : State) (c : Nat) (d : BitVec 512) (recb : Nat) : Except Status (List (BitVec 256)) :=
  let n := mdLayers d
  if mdLegal d = false then .error stInvalid
  else if s.owns c (mdLoff d) (32 * n) = false then .error stPerm
  else if s.bankBad c (mdLoff d) (32 * n) then .error stPoison
  else
    let ls := (List.range n).map (fun k => BitVec.ofNat 256 (leNat (s.bankPeeks c (mdLoff d + 32 * k) 32)))
    if modelLegal d ls recb = false then .error stInvalid
    else
      let ks := ls.filter lyKiln
      if ks.any (fun l => !s.owns c (lyWoff l) 32) then .error stPerm
      else if ks.any (fun l => s.bankBad c (lyWoff l) 32) then .error stPoison
      else if ks.any (fun l => !kilnOk (s.bankPeeks c (lyWoff l) 32) l) then .error stInvalid
      else if ls.any (fun l => (lyRanges l (nth (s.kilnHeads c [l]) 0)).any (fun r => !s.owns c r.1 r.2)) then .error stPerm
      else .ok ls

/-! ### Filter and tally (R294 to R297, R305 to R311, R351, R367) -/

/-- The predicate terms of a scan, read from banks, with the bitmaps they name. -/
def State.loadTerms (s : State) (c : Nat) (d : BitVec 512) : Except Status (List (BitVec 128)) :=
  let n := scNterm d
  if s.owns c (scPboff d) (16 * n) = false then .error stPerm
  else if s.bankBad c (scPboff d) (16 * n) then .error stPoison
  else
    let ts := (List.range n).map (fun k => BitVec.ofNat 128 (leNat (s.bankPeeks c (scPboff d + 16 * k) 16)))
    if ts.all (fun t => termLegal t (scRecb d)) = false then .error stInvalid
    else if ts.any (fun t => let u := termOf t; u.op = 8 && !s.owns c (bits u.k 0 32) (cdiv (bits u.k 32 32) 8)) then .error stPerm
    else .ok ts

/-- Whether a tally's table, perturbation table and spill region lie in the context's banks. -/
def State.ownsTally (s : State) (c : Nat) (t y : BitVec 512) : Bool :=
  s.owns c (tdTboff t) (64 * tdCells t) && (!tdPerturbs t || s.owns c (tdPtoff t) 8192)
    && (!tdSpillOn t || (match regionOf y with | some r => s.ownsRegion c r | none => true))
/-- Whether a tally descriptor and its spill region are legal, for records of `recb` bytes. -/
def tallyOk (t y : BitVec 512) (recb : Option Nat) : Bool := tdLegal t recb && (!tdSpillOn t || (regionOf y).isSome)

/-- The tally and spill descriptors of an operation, in `x` and `y`. -/
def Op.tallied (o : Op) (s : State) (c t : Nat) : Op :=
  let x := s.sdesc c t
  { o with x := x, y := s.sdesc c (tdSpill x) }

/-- Where the records of a scan lie, and whether a pool region overlaps them (R295). -/
def scanHits (d : BitVec 512) (r : Region) : Bool :=
  !r.bank && decide (r.base < scRbase d + scEnd d * scRecb d) && decide (scRbase d + scFirst d * scRecb d < r.base + r.len) && decide (scNrec d ≠ 0)

/-- A scan starts at FIRST, with nothing counted, after the reads that a stream or RESUME needs. Log 85. -/
def Op.start (o : Op) (reads : Bool) : Op := { o with next := scFirst o.a, first := scFirst o.a, phase := if reads then 0 else 2 }

/-- FSCAN (R295). Log 89. -/
def State.planFscan (s : State) (c : Nat) (i : Insn) (o : Op) : Except Status Plan :=
  let o := o.named s c i
  let d := o.a
  let stream : Bool := i.mod % 2 = 1
  let o := if scTallyOn d then o.tallied s c (scTdesc d) else o
  let out : Bool := if stream then streamOk o.d else (regionOf o.d).isSome
  let fits : Bool := if stream then true else match regionOf o.d with
    | some r => scNoOut d || (64 ≤ r.len && !scanHits d r)
    | none => false
  if scLegal d = false ∨ out = false ∨ fits = false ∨ (scNoOut d ∧ (scTallyOn d = false ∨ stream)) ∨ (scTallyOn d ∧ tallyOk o.x o.y (some (scRecb d)) = false) then .error stInvalid
  else match s.loadTerms c d with
    | .error st => .error st
    | .ok ts =>
      let z := s.sdesc c (scModel d)
      match (if scScoreOn d then s.loadModel c z (scRecb d) else .ok []) with
      | .error st => .error st
      | .ok ls =>
        let region : Bool := stream || (match regionOf o.d with | some r => s.ownsRegion c r | none => true)
        .ok { op := ({ o with z := if scScoreOn d then z else 0, layers := ls, heads := s.kilnHeads c ls, terms := ts } : Op).start (i.mod ≠ 0), past := 12, top := cdiv (scRecb d) 256
              owned := region && (!scTallyOn d || s.ownsTally c o.x o.y) }

/-- TALLY CLEAR. -/
def State.planClear (s : State) (c : Nat) (i : Insn) (o : Op) : Except Status Plan :=
  let o := (o.named s c i).tallied s c i.b
  if tallyOk o.x o.y none = false then .error stInvalid
  else .ok { op := o, past := 8, top := 16, owned := s.ownsTally c o.x o.y }

/-- TALLY ACCUM: the scan's SCOREON, TALLYON and NOOUT are ignored (R311). Log 90. -/
def State.planAccum (s : State) (c : Nat) (i : Insn) (o : Op) : Except Status Plan :=
  let o := (o.named s c i).tallied s c i.b
  let d := o.a
  match regionOf o.d with
  | some r =>
    if scLegal d = false ∨ r.len < 64 ∨ scanHits d r ∨ tallyOk o.x o.y (some (scRecb d)) = false then .error stInvalid
    else match s.loadTerms c d with
      | .error st => .error st
      | .ok ts => .ok { op := ({ o with terms := ts } : Op).start (8 ≤ i.mod), past := 12, top := cdiv (scRecb d) 256, owned := s.ownsRegion c r && s.ownsTally c o.x o.y }
  | none => .error stInvalid

/-- TALLY MERGE. Log 90. -/
def State.planMerge (s : State) (c : Nat) (i : Insn) (o : Op) : Except Status Plan :=
  let o := (o.named s c i).tallied s c i.b
  match regionOf o.d, regionOf o.a with
  | some r, some a =>
    if r.len < 64 ∨ tallyOk o.x o.y none = false then .error stInvalid
    else .ok { op := { o with phase := 2 }, past := 12, top := 2, owned := s.ownsRegion c r && s.ownsRegion c a && s.ownsTally c o.x o.y }
  | _, _ => .error stInvalid

/-- TALLY IMAGE and FINAL: room for every used cell (R311). Log 90. -/
def State.planEmit (s : State) (c : Nat) (i : Insn) (o : Op) : Except Status Plan :=
  let o := (o.named s c i).tallied s c i.b
  match regionOf o.d with
  | some r =>
    if tallyOk o.x o.y none = false then .error stInvalid
    else if (s.ownsRegion c r && s.ownsTally c o.x o.y) = false then
      .ok { op := o, past := 12, top := 64, owned := false }
    else if r.len < 64 + 64 * ((s.blk (c / 16)).cells o.x).length then .error stInvalid
    else .ok { op := o, past := 12, top := 64 }
  | none => .error stInvalid

/-! ### Scoring engine (R318, R339, R340) -/

def State.planScore (s : State) (c : Nat) (i : Insn) (o : Op) : Except Status Plan :=
  let o := o.named s c i
  match tensorOf o.d, tensorOf o.b with
  | some d, some b =>
    if b.etype ≠ 15 then .error stInvalid
    else match s.loadModel c o.a b.rowBytes with
      | .error st => .error st
      | .ok ls =>
        let q := match ls.getLast? with | some l => lyOut l | none => 0
        if d.etype ≠ (if q = 6 then 6 else 0) ∨ d.elems < b.nrow then .error stInvalid
        else .ok { op := { o with z := o.a, layers := ls, heads := s.kilnHeads c ls }, past := 8, top := topPass ls 1, owned := s.ownsTensor c d && s.ownsTensor c b }
  | _, _ => .error stInvalid

/-- Pairs of a SIMB (R340). -/
def simbPairs (cross : Bool) (a b : Tensor) : Nat := if cross then a.nrow * b.nrow else a.nrow
def State.planSimb (s : State) (c : Nat) (i : Insn) (o : Op) : Except Status Plan :=
  let o := o.named s c i
  let cross : Bool := 4 ≤ i.mod
  match tensorOf o.d, tensorOf o.a, tensorOf o.b with
  | some d, some a, some b =>
    if a.etype = 14 ∧ b.etype = 14 ∧ d.etype = 6 ∧ a.ncol = b.ncol ∧ a.ncol % 128 = 0 ∧ a.ncol ≤ 4096 ∧ (cross ∨ a.nrow = b.nrow) ∧ simbPairs cross a b ≤ d.elems then
      .ok { op := o, past := 8, top := 1 + cdiv a.ncol 72, owned := s.ownsTensor c d && s.ownsTensor c a && s.ownsTensor c b }
    else .error stInvalid
  | _, _, _ => .error stInvalid

/-! ### Bank ranges that an instruction names (R387) -/

def regionRange (d : BitVec 512) : List (Nat × Nat) := match regionOf d with | some r => if r.bank then [(r.base, r.len)] else [] | none => []
def tensorRange (d : BitVec 512) : List (Nat × Nat) := match tensorOf d with | some t => if t.bank then [(t.base, t.extent)] else [] | none => []
def tallyRange (o : Op) : List (Nat × Nat) :=
  [(tdTboff o.x, 64 * tdCells o.x)] ++ (if tdPerturbs o.x then [(tdPtoff o.x, 8192)] else []) ++ (if tdSpillOn o.x then regionRange o.y else [])
def termRange (o : Op) : List (Nat × Nat) :=
  (scPboff o.a, 16 * scNterm o.a) :: o.terms.filterMap (fun t => let u := termOf t; if u.op = 8 then some (bits u.k 0 32, cdiv (bits u.k 32 32) 8) else none)
def Op.modelRange (o : Op) : List (Nat × Nat) :=
  (mdLoff o.z, 32 * mdLayers o.z) :: (o.layers.zip o.heads).flatMap (fun l => lyRanges l.1 l.2)

/-- Every bank range that an instruction in flight names. -/
def Op.ranges (o : Op) : List (Nat × Nat) :=
  let i := insnOf o.word
  match i.opc with
  | 0x10 | 0x12 | 0x21 | 0x22 => []
  | 0x11 => tensorRange o.b
  | 0x05 => regionRange o.d ++ tensorRange o.b
  | 0x13 | 0x14 => regionRange o.d ++ tensorRange o.b
  | 0x15 => regionRange o.a
  | 0x18 => (if i.mod % 2 = 1 then [] else regionRange o.d) ++ termRange o ++ (if scTallyOn o.a then tallyRange o else []) ++ (if scScoreOn o.a then o.modelRange else [])
  | 0x19 => tallyRange o ++ (match i.mod % 8 with
    | 0 => []
    | 1 => regionRange o.d ++ termRange o
    | 2 => regionRange o.d ++ regionRange o.a
    | _ => regionRange o.d)
  | 0x1C => tensorRange o.d ++ tensorRange o.b ++ o.modelRange
  | 0x1D => tensorRange o.d ++ tensorRange o.a ++ tensorRange o.b
  | 0x01 | 0x03 => regionRange o.d ++ regionRange o.a
  | 0x02 => regionRange o.d ++ (if i.mod = 1 then [] else regionRange o.a)
  | 0x04 => regionRange o.d
  | _ => regionRange o.d ++ regionRange o.a ++ regionRange o.b

end Sys2Proof.Machine
end

