-- ==== Sys2Proof/Machine/RowsBank.lean ====
section
/-! DEFINITION. BANKGIVE and the handover of banks (11 R337; 13 R386 to R388). -/

namespace Sys2Proof.Machine

/-- Fields of a BANKGIVE: Block, bank mask, giver, receiver; `none` is the collective area (R376). -/
def bgBlk (ci : CtlInsn) : Nat := ci.f 0 6
def bgMask (ci : CtlInsn) : BitVec 16 := BitVec.ofNat 16 (ci.f 6 16)
def bgFrom (ci : CtlInsn) : Option Nat := if ci.f 26 1 = 1 then none else some (ci.f 22 4)
def bgTo (ci : CtlInsn) : Option Nat := if ci.f 31 1 = 1 then none else some (ci.f 27 4)

/-- Whether a range lies in a bank of a mask. -/
def touches (mask : BitVec 16) (r : Nat × Nat) : Bool :=
  r.2 ≠ 0 && (List.range 16).any (fun i => mask.getLsbD i && decide (r.1 < (i + 1) * bankSize) && decide (i * bankSize < r.1 + r.2))

/-- Bank ranges that an outstanding request delivers into. -/
def Dest.ranges (d : Dest) : List (Nat × Nat) :=
  match d with
  | .bank o n => [(o, n)]
  | .pf l => l.map (fun o => (o, 128))
  | .old o w _ => [(o, w)]
  | _ => []

/-- What BANKGIVE completes with (R387). Log 80. -/
def bankCheck (ci : CtlInsn) (s : State) : Status :=
  let b := s.blk (bgBlk ci)
  let m := bgMask ci
  let slotToo : Bool := (ci.f 26 1 = 1 && ci.f 22 4 ≠ 0) || (ci.f 31 1 = 1 && ci.f 27 4 ≠ 0)
  if ¬ci.form 32 0 (· = 0) ∨ slotToo then stInvalid
  else if (s.partOfBlk (bgBlk ci)).isNone ∨ m = 0 ∨ bgFrom ci = bgTo ci ∨ (maskList 16 m).any (fun i => b.bankOf i ≠ bgFrom ci) then stInvalid
  else if bgFrom ci = none ∧ b.bufBanks.any (fun i => m.getLsbD i) then stBusy
  else if bgTo ci = none ∧ 8 < b.areaBanks.toNat + popcount m then stInvalid
  else stOk

/-- Whether ownership may move: nothing in flight of the giver names a bank of the mask, and no reply is outstanding into one (R387). A FAULTED or
parked giver meets the first condition at once. -/
def State.mayGive (s : State) (g : Nat) (m : BitVec 16) (from' : Option Nat) : Bool :=
  match from' with
  | none => true
  | some k =>
    let x := s.ctx (16 * g + k)
    (x.parked || x.state = .faulted || x.inFlight.all (fun o => !o.ranges.any (touches m)))
      && x.reqs.all (fun r => r.aband || !r.dest.ranges.any (touches m))

/-- Ownership moves; the contents stay (R387, R388). -/
def State.giveBanks (s : State) (g : Nat) (m : BitVec 16) (to' : Option Nat) : State :=
  s.updBlk g (fun b =>
    match to' with
    | none => let a := b.bankArea ||| m; { b with give := none, bankArea := a, areaBanks := BitVec.ofNat 4 (popcount a) }
    | some k =>
      let a := b.bankArea &&& ~~~m
      let own := (maskList 16 m).foldl (fun (w : Nat) i => w - bits w (4 * i) 4 * 2 ^ (4 * i) + k * 2 ^ (4 * i)) b.bankOwn.toNat
      { b with give := none, bankArea := a, areaBanks := BitVec.ofNat 4 (popcount a), bankOwn := BitVec.ofNat 64 own })

/-- BANKGIVE: ownership moves at once, or the giver stops issuing and the control queue waits (R387). -/
def execBankgive (via : Via) (ci : CtlInsn) (s : State) : Res :=
  s.runCtl via ci 0x82 0 (looks (bankCheck ci)) (fun s c =>
    let g := bgBlk ci
    let m := bgMask ci
    if s.mayGive g m (bgFrom ci) then ((s.giveBanks g m (bgTo ci)).review, some 0)
    else ((s.updBlk g (fun b => { b with give := some { by' := c, mask := m, giver := bgFrom ci, taker := bgTo ci } })).review, none))

/-- A waiting BANKGIVE moves ownership and completes once its giver's conditions hold (R387). -/
def execBankHandover (g : BlockId) (s : State) : Res :=
  let g := g.toNat
  match (s.blk g).give with
  | none => .next s
  | some v => if s.mayGive g v.mask v.giver then .next ((s.giveBanks g v.mask v.taker).review.ctlOk s v.by' 0x82 0 0) else .next s

end Sys2Proof.Machine
end

