-- ==== Sys2Proof/Machine/RowsColl.lean ====
section
/-! DEFINITION. Meanings of the commands of a collective's root (02 R53; 09 R262 to R268, R275 to R278). -/

namespace Sys2Proof.Machine

/-- A contribution is accumulated into the open slice (R250, R265). A RESULT, for which a root has no use, is a stray. -/
def execContrib (g : BlockId) (s : State) : Res := .next (s.review.collMsg g.toNat (fun k => k = 0 || k = 3)).review
/-- A child's partial is merged (R264, R266, R271). -/
def execPartialSum (g : BlockId) (s : State) : Res := .next (s.review.collMsg g.toNat (fun k => k = 1)).review
/-- The parent's SLICEGO: the first sets the deadline, each allows the PARTIALs of its slice (R266). -/
def execSlicego (g : BlockId) (s : State) : Res := .next (s.review.collMsg g.toNat (fun k => k = 2)).review
/-- A root with an empty buffer opens its next slice (R262). -/
def execSliceOpen (g : BlockId) (n : BitVec 5) (s : State) : Res := .next (s.collOpen g.toNat n.toNat).review

/-- The delivery of a complete slice goes on, and with its last store and message the buffer is empty (R266 to R268). -/
def execSliceDeliveryDone (g : BlockId) (n : BitVec 5) (s : State) : Res :=
  .next (((s.review.collResend g.toNat n.toNat).collDeliver g.toNat n.toNat).collSliceDone g.toNat n.toNat).review

/-- An END reaches a root: the first is taken and passed on (R268, R277). -/
def execCollEnd (g : BlockId) (s : State) : Res := .next (s.collMsg g.toNat (fun k => k = 4)).review

/-- A collective that has not ended by (D, 0) ends with TICK_OVERRUN, unless it waits for its parent's END (R53, R278). -/
def execCollectiveDeadline (g : BlockId) (n : BitVec 5) (s : State) : Res :=
  match s.coll g.toNat n.toNat with
  | some x => if x.endSt.isNone ∧ ¬x.lastSent ∧ x.dline ≤ s.now then .next (s.collOverrun g.toNat n.toNat).review else .next s
  | none => .next s

/-- No END has come by (D + 64, 0) (R53). -/
def execEndWaitTimeout (g : BlockId) (n : BitVec 5) (s : State) : Res :=
  match s.coll g.toNat n.toNat with
  | some x => if x.endSt.isNone ∧ x.lastSent ∧ x.dline + 64 ≤ s.now then .next (s.collOverrun g.toNat n.toNat).review else .next s
  | none => .next s

/-- The entry and buffer of an ended collective are released at the next boundary (R53, R259); tags of stores still unanswered are held
as after a timeout (R164). -/
def execCollReservationRelease (g : BlockId) (n : BitVec 5) (s : State) : Res :=
  match s.coll g.toNat n.toNat with
  | some x =>
    if x.endSt.isSome ∧ x.endTick < s.now then
      .next ((x.stores.foldl (fun s r =>
        if r.remote then s.tagSet r.msg.pkt.tag r.msg.pkt.deid (.held (endOf s.now 512)) else s) s).setColl g.toNat n.toNat none
        |>.entryFreed g.toNat (fun e => e = eRed && x.openStores ≠ 0))
    else .next s
  | none => .next s

end Sys2Proof.Machine
end

