-- ==== Sys2Proof/Machine/RowsCtl.lean ====
section
/-! DEFINITION. Meanings of MAPSET, PARTSET, SCRUB, JOBKILL, CTXPARK and TIERMOVE (12 R376, R377, R503; 13 R395; 14 R404 to R411; 08 R228, R243,
R244). Each has a check, which gives the status of its first refusal, and an effect. -/

namespace Sys2Proof.Machine

/-! ### MAPSET (R503) -/

/-- TOUT, RTO and DRAINW of an argument slot, and whether they lie in their ranges (06, SQ_PART_TMO_p). -/
def timesOf (a : Slot) : BitVec 16 × BitVec 8 × BitVec 10 := (BitVec.ofNat 16 (sbits a 0 16), BitVec.ofNat 8 (sbits a 16 8), BitVec.ofNat 10 (sbits a 24 10))
def timesOk (a : Slot) : Bool := 129 ≤ sbits a 0 16 && 8 ≤ sbits a 16 8 && 1 ≤ sbits a 24 10 && sbits a 34 14 = 0 && sbits a 64 64 = 0

/-- Whether a job is bound here, its window not draining (R176, R503). -/
def State.mapCheck (s : State) (job : JobId) (next : Nat → Status) : Status :=
  match s.partOfJob job with
  | none => stInvalid
  | some p => if (s.part p).draining s.now then stBusy else next p

def bindCheck (ci : CtlInsn) (s : State) : Status :=
  let p := ci.f 0 6
  let job := ci.f 6 16
  if ¬(ci.form 58 0 (· = 1) ∧ timesOk (ci.arg 1)) then stInvalid
  else if job = 0 ∨ job = 0xFFFF ∨ ci.f 22 12 = 0xFFF then stInvalid
  else if (s.part p).state ≠ .ready then stInvalid
  else if (s.partOfJob (BitVec.ofNat 16 job)).isSome then stInvalid
  else if s.pw.state = 2 then stRetry else stOk

def bindDo (ci : CtlInsn) (s : State) (_ : Caller) : State × Option Nat :=
  let a := ci.arg 1
  let (tout, rto, dw) := timesOf a
  let g := sbits a 48 16
  (s.bind (ci.f 0 6) (BitVec.ofNat 16 (ci.f 6 16)) (BitVec.ofNat 12 (ci.f 22 12)) (BitVec.ofNat 24 (ci.f 34 24)) tout rto dw (BitVec.ofNat 16 g), some g)

/-- MAPSET BIND. -/
def execMapsetBind (via : Via) (ci : CtlInsn) (s : State) : Res := s.runCtl via ci 0x80 0 (looks (bindCheck ci)) (bindDo ci)

/-- The entries of a ROUTE; an all-zero half of the last slot is padding. -/
def CtlInsn.routes (ci : CtlInsn) : List Nat :=
  let l := halves ci.args
  if l.getLast? = some 0 then l.dropLast else l

/-- Whether a routing entry is legal, and what it says (R376). -/
def routeOk (e : Nat) : Bool := bits e 14 2 = 0 && bits e 25 39 = 0 && bits e 0 12 ≠ 0xFFF && (bits e 12 2 ≠ 1 || bits e 16 9 ≤ 31)
def routeTarget (e : Nat) : Target :=
  match bits e 12 2 with
  | 0 => .port (bits e 16 9)
  | 1 => .trunk (bits e 16 9)
  | 2 => .here
  | _ => .group

def routeCheck (ci : CtlInsn) (s : State) : Status :=
  if ¬(ci.form 16 1 (fun _ => true) ∧ (CtlInsn.routes ci).all routeOk) then stInvalid
  else s.mapCheck ci.job (fun _ => stOk)

def routeDo (ci : CtlInsn) (s : State) : State :=
  match s.partOfJob ci.job with
  | none => s
  | some p => s.updPart p (fun x => { x with smap := { x.smap with
      ents := (CtlInsn.routes ci).foldl (fun t e => if ci.modf = 1 then tdel t (bits e 0 12) else tins (tdel t (bits e 0 12)) (bits e 0 12) (routeTarget e)) x.smap.ents } })

/-- MAPSET ROUTE. -/
def execMapsetRoute (via : Via) (ci : CtlInsn) (s : State) : Res := s.runCtl via ci 0x80 1 (looks (routeCheck ci)) (plain (routeDo ci))

def groupCheck (ci : CtlInsn) (s : State) : Status :=
  if ¬(ci.form 28 0 (1 ≤ ·) ∧ sbits (ci.arg 1) 64 64 = 0 ∧ ci.f 16 12 ≠ 0xFFF ∧ (lanesOf (ci.args.drop 1)).all (· < 512)) then stInvalid
  else s.mapCheck ci.job (fun _ => stOk)

def groupDo (ci : CtlInsn) (s : State) : State :=
  match s.partOfJob ci.job with
  | none => s
  | some p => s.updPart p (fun x => { x with smap := { x.smap with
      groups := tins (tdel x.smap.groups (ci.f 16 12)) (ci.f 16 12) (BitVec.ofNat 64 (sbits (ci.arg 1) 0 64), lanesOf (ci.args.drop 1)) } })

/-- MAPSET GROUP. -/
def execMapsetGroup (via : Via) (ci : CtlInsn) (s : State) : Res := s.runCtl via ci 0x80 2 (looks (groupCheck ci)) (plain (groupDo ci))

def commitCheck (ci : CtlInsn) (s : State) : Status :=
  if ¬(ci.form 16 1 (· ≤ 1) ∧ (ci.args = [] ∨ timesOk (ci.arg 1))) then stInvalid
  else s.mapCheck ci.job (fun p => match (s.part p).staged with
    | some new => s.layoutCheck p new
    | none => stOk)

def commitDo (ci : CtlInsn) (s : State) (_ : Caller) : State × Option Nat :=
  match s.partOfJob ci.job with
  | none => (s, some 0)
  | some p =>
    let s := s.commit p (ci.modf = 1) (if ci.args = [] then none else some (timesOf (ci.arg 1)))
    (s, some (s.part p).gen.toNat)

/-- MAPSET COMMIT. -/
def execMapsetCommit (via : Via) (ci : CtlInsn) (s : State) : Res := s.runCtl via ci 0x80 3 (looks (commitCheck ci)) (commitDo ci)

def unbindCheck (ci : CtlInsn) (s : State) : Status :=
  if ¬ci.form 16 0 (· = 0) then stInvalid
  else match s.partOfJob ci.job with
    | none => stInvalid
    | some p =>
      if ¬(s.part p).killed ∨ s.ctxs.any (fun e => s.partOfBlk (e.1 / 16) = some p && e.2.holds) then stBusy
      else if (s.part p).draining s.now then stBusy else stOk

def unbindDo (ci : CtlInsn) (s : State) : State :=
  match s.partOfJob ci.job with
  | none => s
  | some p => s.unbind p

/-- MAPSET UNBIND. Log 49. -/
def execMapsetUnbind (via : Via) (ci : CtlInsn) (s : State) : Res := s.runCtl via ci 0x80 4 (looks (unbindCheck ci)) (plain (unbindDo ci))

/-! ### PARTSET and SCRUB -/

/-- The Block mask and the collective area of a CREATE: 2 banks where slot 2 is absent. -/
def CtlInsn.blocks (ci : CtlInsn) : BitVec 64 := BitVec.ofNat 64 (sbits (ci.arg 1) 0 64)
def CtlInsn.area (ci : CtlInsn) : Nat := if ci.args.length = 2 then (ci.arg 2).toNat else 2

def createFormed (ci : CtlInsn) : Bool := ci.form 6 0 (fun n => n = 1 || n = 2) && sbits (ci.arg 1) 64 64 = 0 && (ci.args.length = 1 || (ci.arg 2).toNat < 16)

def createRow (ci : CtlInsn) (s : State) : Status :=
  if s.sec.lc = .returned ∨ s.sec.lc = .scrapped then stPerm
  else formed (createFormed ci) (s.createCheck (ci.f 0 6) (CtlInsn.blocks ci) (CtlInsn.area ci))

/-- PARTSET CREATE. -/
def execPartsetCreate (via : Via) (ci : CtlInsn) (s : State) : Res :=
  s.runCtl via ci 0x81 0 (looks (createRow ci)) (plain (fun s => s.create (ci.f 0 6) (CtlInsn.blocks ci) (CtlInsn.area ci)))

def resizeRow (ci : CtlInsn) (s : State) : Status :=
  formed (ci.form 6 0 (· = 1) && sbits (ci.arg 1) 64 64 = 0) (s.resizeCheck (ci.f 0 6) (CtlInsn.blocks ci))

def resizeDo (ci : CtlInsn) (s : State) : State :=
  let p := ci.f 0 6
  if (s.part p).state = .bound then s.updPart p (fun x => { x with staged := some (CtlInsn.blocks ci) }) else s.resize p (CtlInsn.blocks ci)

/-- PARTSET RESIZE: at once on a READY partition, staged on a BOUND one (R377, R405). -/
def execPartsetResize (via : Via) (ci : CtlInsn) (s : State) : Res := s.runCtl via ci 0x81 1 (looks (resizeRow ci)) (plain (resizeDo ci))

/-- PARTSET RELEASE. -/
def execPartsetRelease (via : Via) (ci : CtlInsn) (s : State) : Res :=
  s.runCtl via ci 0x81 2 (looks (fun s => formed (ci.form 6 0 (· = 0)) (s.clearCheck (ci.f 0 6)))) (plain (fun s => s.release (ci.f 0 6)))

/-- PARTSET TRAY. -/
def execPartsetTray (via : Via) (ci : CtlInsn) (s : State) : Res :=
  s.runCtl via ci 0x81 3 (looks (fun s => formed (ci.form 11 0 (· = 0)) (s.trayCheck (ci.f 0 6) (ci.f 6 4) (ci.f 10 1 = 1))))
    (plain (fun s => s.trayPut (ci.f 0 6) (ci.f 6 4) (ci.f 10 1 = 1)))

/-- SCRUB. -/
def execScrub (via : Via) (ci : CtlInsn) (s : State) : Res :=
  s.runCtl via ci 0x83 0 (looks (fun s => formed (ci.form 6 0 (· = 0)) (s.clearCheck (ci.f 0 6)))) (plain (fun s => s.scrub (ci.f 0 6)))

/-! ### JOBKILL (R182) -/

/-- A job without partition or port here is refused (the spec states no status; log 40). -/
def killCheck (ci : CtlInsn) (s : State) : Status :=
  if ¬ci.form 16 0 (· = 0) ∨ ci.job = 0 ∨ ci.job = 0xFFFF then stInvalid
  else if (s.partOfJob ci.job).isNone ∧ ¬s.ports.any (fun e => e.2.job = ci.job) then stInvalid else stOk

def killDo (ci : CtlInsn) (s : State) : State :=
  let s := (s.ports.filter (fun e => e.2.job = ci.job)).foldl (fun s e => s.updPort e.1 (fun p => { p with killed := true })) s
  match s.partOfJob ci.job with
  | some p => s.killPart p
  | none => s.raise { code := 0x19, unit := uSquare, job := ci.job }

/-- JOBKILL. Log 40. -/
def execJobkill (via : Via) (ci : CtlInsn) (s : State) : Res := s.runCtl via ci 0x84 0 (looks (killCheck ci)) (plain (killDo ci))

/-! ### CTXPARK (R392, R395) -/

def parkCheck (ci : CtlInsn) (s : State) : State × Verdict :=
  let x := s.ctx (ci.f 0 10)
  if ¬ci.form 10 0 (· = 0) then (s, .st stInvalid)
  else match x.state with
    | .ready | .blocked => if x.inBatch ∨ s.inSlice (ci.f 0 10) then (s, .wait) else (s, .st stOk)
    | .swapped | .held => (s, .st stOk)
    | _ => (s, .st stInvalid)

def parkDo (ci : CtlInsn) (s : State) : State :=
  let c := ci.f 0 10
  let held := fun (s : State) => s.updBlk (c / 16) (fun b => { b with hold := satAdd b.hold 1 })
  match (s.ctx c).state with
  | .ready | .blocked => held (s.parkCtx c .held)
  | .swapped => held (s.updCtx c (fun x => { x with state := .held, since := BitVec.ofNat 28 s.now }))
  | _ => s

/-- CTXPARK PARK. -/
def execCtxparkPark (via : Via) (ci : CtlInsn) (s : State) : Res := s.runCtl via ci 0x85 0 (parkCheck ci) (plain (parkDo ci))

def resumeCheck (ci : CtlInsn) (s : State) : Status :=
  formed (ci.form 10 0 (· = 0)) (if (s.ctx (ci.f 0 10)).state = .held then stOk else stInvalid)

/-- CTXPARK RESUME: HELD becomes SWAPPED. -/
def execCtxparkResume (via : Via) (ci : CtlInsn) (s : State) : Res :=
  s.runCtl via ci 0x85 1 (looks (resumeCheck ci))
    (plain (fun s => s.updCtx (ci.f 0 10) (fun x => { x with state := .swapped, since := BitVec.ofNat 28 s.now })))

/-! ### TIERMOVE (R228) -/

/-- Whether a page is homed here, as the partition's lowest Block translates it: `none`, its entry is being read. -/
def State.homedHere (s : State) (p n : Nat) : State × Option Bool :=
  let u := s.lowBlk p
  let (s, r) := s.translate p u n
  match r with
  | .read _ => (s, none)
  | .bad _ => (s.xlateUsed p u n, some false)
  | .ok e => (s.xlateUsed p u n, some (e.dev = s.selfEid))

def moveCheck (ci : CtlInsn) (s : State) : State × Verdict :=
  let n := ci.f 16 24
  if ¬ci.form 42 0 (· = 0) ∨ ci.f 40 2 = 0 then (s, .st stInvalid)
  else match s.partOfJob ci.job with
    | none => (s, .st stNoTrans)
    | some p =>
      let g := (s.part p).page n
      if g.state = .unplaced ∨ g.state = .lostPage then (s, .st stNoTrans)
      else match s.homedHere p n with
        | (s, none) => (s, .wait)
        | (s, some false) => (s, .st stNoTrans)
        | (s, some true) =>
          (s, .st (if g.state = .migrating ∨ g.dstFrms ≠ [] then stBusy
                   else if g.tier.toNat = ci.f 40 2 then stOk
                   else if s.freeFrames p (ci.f 40 2) < g.frames then stRetry else stOk))

def moveDo (ci : CtlInsn) (s : State) : State :=
  match s.partOfJob ci.job with
  | none => s
  | some p =>
    let g := (s.part p).page (ci.f 16 24)
    if g.tier.toNat = ci.f 40 2 then s else (s.startMove p ((s.part p).pageKey (ci.f 16 24)) (ci.f 40 2)).getD s

/-- TIERMOVE MOVE. -/
def execTiermoveMove (via : Via) (ci : CtlInsn) (s : State) : Res := s.runCtl via ci 0x86 0 (moveCheck ci) (plain (moveDo ci))

def pageFreeCheck (ci : CtlInsn) (s : State) : State × Verdict :=
  let n := ci.f 16 24
  if ¬ci.form 40 0 (· = 0) then (s, .st stInvalid)
  else match s.partOfJob ci.job with
    | none => (s, .st stNoTrans)
    | some p =>
      if (s.part p).page n ≠ {} then (s, .st stOk)
      else match s.homedHere p n with
        | (s, none) => (s, .wait)
        | (s, some h) => (s, .st (if h then stOk else stNoTrans))

def pageFreeDo (ci : CtlInsn) (s : State) : State :=
  match s.partOfJob ci.job with
  | none => s
  | some p => s.releasePage p ((s.part p).pageKey (ci.f 16 24))

/-- TIERMOVE RELEASE. -/
def execTiermoveRelease (via : Via) (ci : CtlInsn) (s : State) : Res := s.runCtl via ci 0x86 1 (pageFreeCheck ci) (plain (pageFreeDo ci))

def evacCheck (ci : CtlInsn) (s : State) : Status :=
  if ¬ci.form 4 0 (· = 0) ∨ (s.tray (ci.f 0 4)).state ≠ .assigned then stInvalid
  else if s.evacLack (ci.f 0 4) ≠ 0 then stRetry else stOk

/-- TIERMOVE EVACUATE (R244). -/
def execTiermoveEvacuate (via : Via) (ci : CtlInsn) (s : State) : Res :=
  s.runCtl via ci 0x86 2 (looks (evacCheck ci)) (plain (fun s => s.evacuate (ci.f 0 4)))

def poolCheck (ci : CtlInsn) (s : State) : Status :=
  let a := ci.arg 1
  let x := s.part (ci.f 0 6)
  if ¬ci.form 6 0 (· = 1) ∨ sbits a 52 76 ≠ 0 ∨ sbits a 0 16 = 0 ∨ sbits a 16 16 = 0 ∨ sbits a 32 4 = 0 then stInvalid
  else if x.state = .none ∨ x.state = .releasing then stInvalid else stOk

def poolDo (ci : CtlInsn) (s : State) : State :=
  let a := ci.arg 1
  s.updPart (ci.f 0 6) (fun x => { x with
    agew := BitVec.ofNat 16 (sbits a 0 16), promote := BitVec.ofNat 16 (sbits a 16 16), migshare := BitVec.ofNat 4 (sbits a 32 4),
    nresv := BitVec.ofNat 8 (sbits a 36 8), bresv := BitVec.ofNat 8 (sbits a 44 8) })

/-- TIERMOVE CONFIG. -/
def execTiermoveConfig (via : Via) (ci : CtlInsn) (s : State) : Res := s.runCtl via ci 0x86 3 (looks (poolCheck ci)) (plain (poolDo ci))

/-! ### The pool's own events -/

/-- A drain window ends (R177, R210). -/
def execDrainWindowEnd (p : PartId) (s : State) : Res := .next (s.drainEnd p.toNat)
/-- The directory entry of a moved line moves from its old home (R210). -/
def execHomeEntryArrival (g : BlockId) (line : BitVec 45) (s : State) : Res := .next (s.entryArrives g.toNat line.toNat)
/-- A chunk of a migration is written (R230 to R232). -/
def execMigrationChunkCopy (p : PartId) (page : BitVec 24) (ueLines : BitVec 32) (s : State) : Res := .next (s.copyChunk p.toNat page.toNat ueLines)
/-- The migration engine evicts a page (R225). -/
def execPageEviction (p : PartId) (near : Bool) (s : State) : Res := .next (s.evictPage p.toNat (if near then 1 else 2))
/-- The migration engine promotes a page (R226). -/
def execPagePromotion (p : PartId) (page : BitVec 24) (s : State) : Res := .next (s.promote p.toNat page.toNat)
/-- A recall walk of a Block goes through its slice (R229). Logs 18, 103. -/
def execRecallWalkDone (g : BlockId) (s : State) : Res := .next (s.walkStep g.toNat)
/-- A freed frame holds zeros (R229). Logs 18, 57. -/
def execFrameScrubbed (p : PartId) (tier : BitVec 2) (s : State) : Res := .next (s.frameScrubbed p.toNat tier.toNat)

/-- A Block's channels are zeroed: FREE after start-up or RELEASE, clear for SCRUB (R408, R410, R438). -/
def State.scrubDone (s : State) (g : Nat) : State :=
  match s.parts.find? (fun e => e.2.leaving.getLsbD g && (e.2.state = .scrubbing || e.2.state = .releasing)) with
  | some (p, x) =>
    let s := s.updPart p (fun x => { x with leaving := listMask 64 (setDel (maskList 64 x.leaving) g) })
    (if x.state = .scrubbing then s else s.updBlk g (fun b => { b with state := .free })).partClear p
  | none =>
    let b := s.blk g
    if b.state = .scrubbing ∧ b.trained = BitVec.allOnes 10 then s.updBlk g (fun b => { b with state := .free }) else s

/-- The sparge scrubber has zeroed a Block's channels (R408). A Block held out stays as it is (R437). -/
def execBlockScrubDone (g : BlockId) (s : State) : Res := if s.heldOut g.toNat then .next s else .next (s.scrubDone g.toNat)

/-- A tray's frames are zeroed (R407, R410). -/
def execTrayScrubDone (t : TrayId) (s : State) : Res :=
  let y := s.tray t.toNat
  let p := y.part.toNat
  if y.state ≠ .assigned ∨ y.touched = 0 then .next s
  else if (s.part p).state = .releasing then .next ((s.freeTray t.toNat).partClear p)
  else if (s.part p).state = .scrubbing then .next ((s.updTray t.toNat (fun y => { y with touched := 0, placed := 0 })).partClear p)
  else .next s

/-- The sequencer parks a context (R390). -/
def execContextPark (g : BlockId) (s : State) : Res := .next (s.parkNext g.toNat)
/-- The sequencer brings a context in (R390, R391). -/
def execContextBringIn (g : BlockId) (s : State) : Res := .next (s.bringNext g.toNat)
/-- A FAULTED context has settled (R398). -/
def execContextSettled (c : CtxId) (s : State) : Res := .next (s.settled c.toNat)

/-- ACC ages: at a boundary whose tick is a multiple of AGEW every ACC is halved, once (R224). Log 117. -/
def execAccAging (p : PartId) (s : State) : Res :=
  let x := s.part p.toNat
  if x.state = .none ∨ s.now % x.agew.toNat ≠ 0 ∨ x.aged = some s.now then .next s
  else .next (s.updPart p.toNat (fun x => { x with aged := some s.now, pages := (x.pages.map (fun e => (e.1, { e.2 with acc := e.2.acc >>> 1 }))).filter (fun e => e.2 ≠ {}) }))

end Sys2Proof.Machine
end

