-- ==== Sys2Proof/Machine/Tick.lean ====
section
/-! DEFINITION. The work of a tick boundary and the commands of time (02 R30 to R45; 05 R126 to R147; 13 R385; 15 R453, R458; 16 R470 to R473). -/

namespace Sys2Proof.Machine

/-! ### Markers and TICK_IN (R39 to R44) -/

/-- Acts on a measured offset (R42): below 50 ns locks, 100 ns or more unlocks. `up` is the hop count followed. -/
def State.align (s : State) (off : Int) (up : Nat) : State :=
  let s := { s with tb := { s.tb with offset := BitVec.ofInt 16 off } }
  if s.tb.mismatch ∨ s.tb.state = TbState.source then s
  else if off.natAbs < 50 then s.tbChange .locked up
  else if 100 ≤ off.natAbs ∧ s.tb.state = TbState.locked then s.tbChange .unaligned up
  else s.tbChange s.tb.state up

/-- Loads the counter from a marker at start-up, journalled with its values before and after (R30, R43). -/
def State.loadTick (s : State) (t : BitVec 64) : State :=
  let old := s.tb.tick
  let s := { s with tb := { s.tb with tick := t, loaded := true, lastEdge := t.toNat, since := t.toNat, seen := s.tb.seen.map (fun (e : Nat × Nat × Nat) => (e.1, e.2.1, t.toNat)) } }
  s.journalOne 4 0x1000 old t

/-- A valid marker of the upstream port: tick numbers compared, then the offset (R43). The number nearest to the local time of the
sender's boundary is compared; the offset is the local time less the sender's (log 42). 'At start-up' lasts until the first load, as long as
no partition exists (log 135). Log 21. -/
def State.compareMarker (s : State) (l : Nat) (m : Slot) (ns hops : Nat) : State :=
  let b : Int := (s.now * 1000 + ns : Nat) - ((s.port l).delay.toNat + sbits m 8 10 : Nat)
  let near := (b + 500) / 1000
  let off := b - 1000 * near
  let diff : Int := (sbits m 64 64 : Nat) - near
  let s := { s with tb := { s.tb with upLane := BitVec.ofNat 9 l } }
  if ¬s.tb.loaded ∧ ¬s.tb.mismatch ∧ s.parts.all (fun e => e.2.state = .none) then
    (s.loadTick (s.tb.tick + BitVec.ofInt 64 diff)).align off hops
  else if diff ≠ 0 then
    let s := { s with tb := { s.tb with mismatch := true, offset := BitVec.ofInt 16 off } }
    s.tbChange .unaligned hops
  else s.align off hops

/-- TICK_MARKER: a valid marker of a lane is noted; one from the upstream port is compared by a device that follows markers (R39, R43). One with
a reserved encoding was discarded and counted as its flit was taken (R14). Logs 21, 22. -/
def execTickMarker (lane : Lane) (m : Slot) (ns : Ns) (s : State) : Res :=
  let l := lane.toNat
  let p := s.port l
  if ¬(s.ticking ∧ p.enabled ∧ p.state = .active) ∨ sbits m 0 3 ≠ 7 ∨ ¬markerOk m then .next s
  else
    let hops := sbits m 18 4
    if sbit m 22 ∨ 6 ≤ hops then .next { s with tb := { s.tb with seen := tdel s.tb.seen l } }
    else
      let s := { s with tb := { s.tb with seen := tins (tdel s.tb.seen l) l (hops, s.now) } }
      if s.tb.src ≠ 2 then .next s
      else
        let s := { s with tb := { s.tb with lastEdge := s.now } }
        match s.upstream with
        | some (u, _) => if u = l then .next (s.compareMarker l m ns.val hops) else .next s
        | none => .next s

/-- TICK_IN_EDGE: a rising edge, `offset` ns after the local boundary (R40, R42). Log 21. -/
def execTickInEdge (offset : BitVec 16) (s : State) : Res :=
  if s.ticking ∧ s.tb.src = 1 then .next ({ s with tb := { s.tb with lastEdge := s.now } }.align offset.toInt 0) else .next s

/-- MARKER_LOSS_TIMEOUT: 8 ticks without a valid marker or an edge (R42). -/
def execMarkerLossTimeout (s : State) : Res :=
  if s.ticking ∧ s.tb.state = TbState.locked ∧ endOf s.tb.lastEdge 8 ≤ s.now then .next (s.tbChange .holdover 0) else .next s

/-- HOLDOVER_EXPIRY: 1,000 ticks in HOLDOVER (R42). -/
def execHoldoverExpiry (s : State) : Res :=
  if s.ticking ∧ s.tb.state = TbState.holdover ∧ endOf s.tb.since 1000 ≤ s.now then .next (s.tbChange .unaligned 0) else .next s

/-! ### Steps 1 and 2 of R36: the counter, markers, samples -/

/-- The counter increments; a marker is due on every ACTIVE port; TICK_OUT pulses (R36). -/
def State.startTick (s : State) : State :=
  let s := { s with
    tb := { s.tb with tick := s.tb.tick + 1 }
    ports := tmap s.ports {} (fun _ p => { p with tc0Used := 0, markerDue := p.markerDue || (p.enabled && p.state = PortState.active) }) }
  if s.pw.tickOut then s.emit .tickOut else s

/-- A queue closes its sample (R145). -/
def Queue.sample (x : Queue) : Queue :=
  { x with
    depthMax := satNat 18 (max x.depthCur x.used), depthEnd := satNat 18 x.used, delayMax := satNat 20 x.delayTop
    delayMean := satNat 20 (x.delaySum / x.delayNum), sent := satNat 16 x.sentCur
    depthCur := x.used, delayTop := 0, delaySum := 0, delayNum := 0, sentCur := 0 }

/-- High-water marks of a Quarter after its queues closed the samples of tick `t` (R147). -/
def Quarter.marks (x : Quarter) (t : Nat) : Quarter :=
  let x := if x.hwmPool.toNat < x.poolTop then { x with hwmPool := satNat 18 x.poolTop, hwmPoolTick := BitVec.ofNat 32 t } else x
  let x := { x with poolTop := x.poolUsed }
  x.queues.foldl (fun (x : Quarter) e =>
    if x.hwmDelay < e.2.delayMax then
      { x with hwmDelay := e.2.delayMax, hwmQueue := BitVec.ofNat 12 e.1, hwmDelayTick := BitVec.ofNat 32 t }
    else x) x

/-- Accounting and queue samples of tick T − 1 close (R145 to R147, R385); peak load levels follow the new samples (R143). -/
def State.closeTick (s : State) : State :=
  let t := s.now - 1
  let s := { s with
    ctxs := tmap s.ctxs {} (fun _ x => { x with cycLast := x.cycCur, cycCur := [] })
    qs := tmap s.qs {} (fun _ x => { x with queues := tmap x.queues {} (fun _ y => y.sample) }.marks t)
    tb := { s.tb with obsTick := BitVec.ofNat 64 t, obsUnal := s.tb.unalTick, unalTick := s.tb.state = TbState.unaligned } }
  { s with blks := tmap s.blks {} (fun g b => { b with peak := BitVec.ofNat 4 (max b.peak.toNat (s.level g)), aside := [] })
           pteEvt := [] }

/-! ### Step 3: the conservation audit (R472) -/

/-- A discrepancy: the invariant, what it concerns, its unit and the signed difference. -/
structure Disc where
  inv  : Nat
  key  : Nat
  unit : BitVec 16
  diff : Int
deriving DecidableEq, Repr

/-- Rows 1 and 2 of a Quarter: no pool or reserve is overdrawn, and each copy has the references its queues hold. Log 32. -/
def State.auditBuffer (s : State) (q : Nat) : List Disc :=
  let x := s.qtr q
  let past := (x.queues.filter (fun e => e.2.min.toNat < e.2.fromMin)).map (fun e => (e.2.fromMin : Int) - e.2.min.toNat)
    ++ (if x.mcres.toNat < x.resUsed then [(x.resUsed : Int) - x.mcres.toNat] else [])
    ++ (if s.poolF q < 0 then [-s.poolF q] else [])
  let held := fun (id : Nat) => (x.queues.map (fun e => (e.2.pkts.filter (fun p => p.mc = some id)).length)).sum
  (match past with | d :: _ => [⟨1, q, uQtr q, d⟩] | [] => [])
    ++ (x.mcs.filter (fun e => held e.1 ≠ e.2.refs)).map (fun e => ⟨2, q, uQtr q, (held e.1 : Int) - e.2.refs⟩)

/-- Rows 4 to 6 of a port and its queues: credits held within those granted, unacknowledged flits, shapers and buckets. Log 32. -/
def State.auditPort (s : State) (l : Nat) (p : Port) : List Disc :=
  let q := qOfLane l
  if ¬p.enabled then []
  else
    (if p.state = .active then
      ((List.range 8).filter (fun k => tget p.peerCr k 0 < tget p.heldCr k 0)).map (fun k =>
        ⟨4, l, uPort l, ((tget p.heldCr k 0).toNat : Int) - (tget p.peerCr k 0).toNat⟩) else [])
    ++ (if 1024 < p.unacked.length then [⟨5, l, uPort l, (p.unacked.length : Int) - 1024⟩] else [])
    ++ ((List.range 6).filterMap (fun i =>
      let x := s.queue q (nPort l (i + 1))
      if x.rate = 0 ∨ (-260 ≤ x.k ∧ x.k ≤ x.hicred.toNat) then none
      else some (⟨6, 16 * l + i + 1, uPort l, if x.k < -260 then x.k + 260 else x.k - x.hicred.toNat⟩ : Disc)))
    ++ ((p.pol.filter (fun e => e.2.pburst.toNat < e.2.bucket)).map (fun e =>
      ⟨6, 16 * l + 8 + e.1, uPort l, (e.2.bucket : Int) - e.2.pburst.toNat⟩))

/-- Row 8 of a Quarter: tags whose holder does not hold them. Log 32. -/
def State.auditTags (s : State) (q : Nat) : List Disc :=
  ((s.qtr q).tags.filter (fun e => match e.2 with
    | .req c id => (s.ctx c).reqs.all (fun r => !(r.id = id && r.tagged))
    | _ => false)).map (fun e => ⟨8, 4096 * q + e.1 / 1024, uQtr q, 1⟩)

/-- Rows 7 and 9 to 11 of a MEMBER Block: engine entries, the replay cache, collective units, banks. Log 32. -/
def State.auditBlk (s : State) (g : Nat) (b : Block) : List Disc :=
  if b.state ≠ .member then []
  else
    let srcs := (b.replay.map (fun r => r.seid.toNat)).eraseDups
    let units := b.colls.flatMap (fun e => match e.2 with | some c => c.units | none => [])
    ((List.range 4).filter (fun e => 1024 < s.entries g e)).map (fun e => ⟨7, 4 * g + e, uBlk g, (s.entries g e : Int) - 1024⟩)
      ++ (srcs.filterMap (fun i =>
        let n := (b.replay.filter (fun r => r.seid.toNat = i)).length
        if 256 < n then some (⟨9, g, uBlk g, (n : Int) - 256⟩ : Disc) else none))
      ++ (if 32 * b.areaBanks.toNat < units.length ∨ units.eraseDups.length ≠ units.length then
          [⟨10, g, uBlk g, (units.length : Int) - 32 * b.areaBanks.toNat⟩] else [])
      ++ (if popcount b.bankArea ≠ b.areaBanks.toNat then [⟨11, g, uBlk g, (popcount b.bankArea : Int) - b.areaBanks.toNat⟩] else [])

/-- Every discrepancy of the snapshot, by invariant. Log 32. -/
def State.audit (s : State) : List Disc :=
  let qs := [0, 1, 2, 3]
  let ds := qs.flatMap s.auditBuffer ++ s.ports.flatMap (fun e => s.auditPort e.1 e.2) ++ qs.flatMap s.auditTags
    ++ s.blks.flatMap (fun e => s.auditBlk e.1 e.2)
  (List.range 12).flatMap (fun i => ds.filter (fun d => d.inv = i))

/-- The error class of an invariant's discrepancy (R462; log 43). -/
def auditClass (inv : Nat) : BitVec 8 :=
  if inv ≤ 3 then 7 else if inv ≤ 6 then 0 else if inv ≤ 8 then 4 else if inv ≤ 10 then 5 else 6

/-- Handles a discrepancy as its row of R472 says. -/
def State.contain (s : State) (d : Disc) : State :=
  let seq := s.sec.eseq
  let cls := auditClass d.inv
  let s := { s with sec := { s.sec with lastInv := BitVec.ofNat 4 d.inv, lastTick := BitVec.ofNat 28 s.now } }
  let s := s.raise { code := 0x63, cls := cls, unit := d.unit, d0 := BitVec.ofNat 64 d.inv, d1 := BitVec.ofInt 64 d.diff }
  match d.inv with
  | 4 | 5 => ((s.flush d.key).updPort d.key (fun p => { p with jreq := none })).toHello d.key
  | 6 =>
    let l := d.key / 16
    let k := d.key % 16
    if k < 8 then s.updQueue (qOfLane l) (nPort l k) (fun x => { x with k := 0 })
    else s.updPort l (fun p => { p with pol := p.pol.map (fun e => if e.1 = k - 8 then (e.1, { e.2 with bucket := e.2.pburst.toNat }) else e) })
  | 7 => ((s.ctxsOf (d.key / 4)).filter (fun x => !x.2.parked && x.2.held (d.key % 4) ≠ 0)).foldl (fun s x => s.faultCtx x.1 stConserv 0xFFFF) s
  | 8 =>
    let q := d.key / 4096
    let e := d.key % 4096
    let hit := (s.ctxs.filter (fun x => x.1 / 256 = q && x.2.reqs.any (fun r => r.tagged && r.msg.pkt.deid.toNat = e))).map (·.1)
    let s := hit.foldl (fun s c => s.faultCtx c stConserv 0xFFFF) s
    s.updQtr q (fun x => { x with rebuild := tins (tdel x.rebuild e) e (endOf s.now 512) })
  | 9 => s.updBlk d.key (fun b => { b with replay := [], hz := s.tb.tick })
  | 10 => ((s.blk d.key).colls.map (·.1)).foldl (fun s n => s.collEnd d.key n stStateLost none) s
  | 11 => match s.partOfBlk d.key with
    | some p => s.fencePart p 0x63 cls seq
    | none => s
  | _ => s.halt d.unit (some (0x63, seq))

/-- Step 3 of R36: the audit, its count, and what its rows say. -/
def State.runAudit (s : State) : State :=
  match s.audit with
  | [] => s
  | ds => ds.foldl State.contain { s with sec := { s.sec with fails := satAdd s.sec.fails 1 } }

/-! ### Step 5: health scores (R470, R471) -/

/-- P and the score of a record on its own. -/
def Health.sum (h : Health) : Nat := h.windows.sum
def Health.own (h : Health) : Nat := 255 - min 255 (h.sum / 64)

/-- A record with a new score; WARN and CRIT may be raised again once the score is 32 above their thresholds. -/
def Health.scored (h : Health) (v : Nat) : Health :=
  { h with score := BitVec.ofNat 8 v, low := BitVec.ofNat 8 (min h.low.toNat v), penalty := satNat 24 h.sum
           warnRaised := v < 192 || (h.warnRaised && v < 224), critRaised := v < 64 || (h.critRaised && v < 96) }

/-- Raises HEALTH_WARN and HEALTH_CRIT for what a new score crosses (R471). -/
def State.healthEvents (s : State) (old new : Health) (unit : BitVec 16) : State :=
  let e : BitVec 8 → Event := fun c => { code := c, cls := 1, unit := unit, d0 := new.score.setWidth 64, d1 := new.penalty.setWidth 64 }
  let s := if new.score.toNat < 192 ∧ ¬old.warnRaised then s.raise (e 0x61) else s
  if new.score.toNat < 64 ∧ ¬old.critRaised then s.raise (e 0x62) else s

/-- UNIT of stack `i` of a Quarter: 0 and 1 near, 2 to 7 bulk (R466). -/
def uStack (q i : Nat) : BitVec 16 := if i < 2 then unitOf 5 (2 * q + i) else unitOf 5 (8 + 6 * q + (i - 2))

/-- The stack of a Quarter's channel. -/
def stackOf (c : Nat) : Nat := if c < 64 then c / 32 else 2 + (c - 64) / 16

/-- Scores of a Quarter's channels and stacks. -/
def State.scoreQtr (s : State) (q : Nat) : State :=
  let x := s.qtr q
  let s := x.mcHealth.foldl (fun s e =>
    let h := e.2.scored e.2.own
    (s.updQtr q (fun y => { y with mcHealth := tset y.mcHealth e.1 h {} })).healthEvents e.2 h (uChan q e.1)) s
  if x.mcHealth = [] ∧ x.stackHealth = [] then s
  else
    (List.range 8).foldl (fun s i =>
      let h := tget x.stackHealth i {}
      let v := (x.mcHealth.filter (fun e => stackOf e.1 = i)).foldl (fun v e => min v e.2.own) h.own
      let h' := h.scored v
      (s.updQtr q (fun y => { y with stackHealth := tset y.stackHealth i h' {} })).healthEvents h h' (uStack q i)) s

/-- Every health score over the open sub-window and the 15 before it (R470). -/
def State.score (s : State) : State :=
  let s := s.ports.foldl (fun s e =>
    let h := e.2.health.scored (if e.2.downsh then min 127 e.2.health.own else e.2.health.own)
    if h = e.2.health then s else (s.updPort e.1 (fun p => { p with health := h })).healthEvents e.2.health h (uPort e.1)) s
  let s := [0, 1, 2, 3].foldl State.scoreQtr s
  s.blks.foldl (fun s e =>
    let h := e.2.health.scored e.2.health.own
    if h = e.2.health then s else (s.updBlk e.1 (fun b => { b with health := h })).healthEvents e.2.health h (uBlk e.1)) s

/-- The oldest sub-window goes, a new one opens. -/
def Health.roll (h : Health) : Health := if h.windows.all (· = 0) then { h with windows := [0] } else { h with windows := 0 :: h.windows.take 15 }

/-- HEALTH_SUBWINDOW_DROP: at a tick that is a multiple of 4,096, once (R470). Log 117. -/
def execHealthSubwindowDrop (s : State) : Res :=
  if ¬s.ticking ∨ s.now % 4096 ≠ 0 ∨ s.hdrop = some s.now then .next s
  else
    let s := { s with
      hdrop := some s.now
      ports := tmap s.ports {} (fun _ p => { p with health := p.health.roll })
      blks := tmap s.blks {} (fun _ b => { b with health := b.health.roll })
      qs := tmap s.qs {} (fun _ x => { x with mcHealth := tmap x.mcHealth {} (fun _ h => h.roll), stackHealth := tmap x.stackHealth {} (fun _ h => h.roll) }) }
    .next s.score

/-! ### Steps 6 and 7: shapers, policers, budgets (R126, R130, R134, R458) -/

/-- A queue's shaper at step 6 (R126, R130). Log 110. -/
def shapeQueue (x : Queue) : Queue :=
  let waits := x.pkts.any (fun p => !p.started)
  let x := match x.newShape with
    | some (r, h) => { x with rate := r, hicred := h, k := min x.k h.toNat, newShape := none }
    | none => x
  let k : Int :=
    if x.rate = 0 then x.k
    else if x.waited ∨ waits then min (x.k + x.rate.toNat) x.hicred.toNat
    else if 0 < x.k then 0
    else min (x.k + x.rate.toNat) 0
  { x with k := k, waited := waits }

/-- Every shaper and every policer bucket gains its credit for the new tick (R126, R134). -/
def State.refill (s : State) : State :=
  { s with
    parts := tmap s.parts {} (fun _ x => { x with migUse := tmap x.migUse 0 (fun t n => n - x.migRate t) })
    qs := tmap s.qs {} (fun _ x => { x with queues := tmap x.queues {} (fun _ y => shapeQueue y) })
    ports := tmap s.ports {} (fun _ p => { p with pol := tmap p.pol {} (fun _ x => { x with bucket := min (x.bucket + x.prate.toNat) x.pburst.toNat }) }) }

/-- The power governor (R458): the average of the last 100 ticks, and at most one change of level in any 100 ticks. Log 23. -/
def State.govern (s : State) (watts : Nat) : State :=
  let w := s.pw
  let ws := (w.watts ++ [watts]).drop ((w.watts.length + 1) - 100)
  let n := ws.length
  let env := s.fuse.variant.env
  let k := w.level.toNat
  let k' := if s.now < w.lastLvl then k
            else if env * n < ws.sum then max 2 (k - 1)
            else if 100 * ws.sum < 95 * env * n then min 8 (k + 1) else k
  { s with pw := { w with watts := ws, pavg := satNat 16 (ws.sum / n), level := BitVec.ofNat 4 k', lastLvl := if k' = k then w.lastLvl else s.now + 100 } }

/-- Engine budgets of the new tick: full less the overrun of the last one, or none in a withheld tick (R36, R50, R458). -/
def State.resetBudgets (s : State) : State :=
  let held : Bool := s.pw.level.toNat ≤ s.now % 8
  let full : Int := s.budgetMax
  let s := if held then { s with pw := { s.pw with withheld := satAdd s.pw.withheld 1 } } else s
  { s with blks := tmap s.blks {} (fun _ b =>
      { b with debt := [], budget := (List.range 4).foldl (fun t k => tset t k (if held then 0 else full - tget b.debt k 0) full) [] }) }

/-- Gap timers stand still while a member of their trunk retrains (R114). -/
def State.holdGaps (s : State) : State :=
  { s with trunks := tmap s.trunks {} (fun _ t =>
      if t.members.any (fun l => (s.port l).state = .retrain) then { t with gap := t.gap.map (fun k => (k.1, k.2 + 1)) } else t) }

/-- Whether no context holds a program and no collective is admitted (R453). -/
def State.idleNow (s : State) : Bool := s.ctxs.all (fun e => !e.2.holds) && s.blks.all (fun e => e.2.colls = [])

/-- Since when the device has held no program and no collective (R453). -/
def State.noteIdle (s : State) : State :=
  { s with pw := { s.pw with idle := if s.idleNow then some (s.pw.idle.getD (s.now - 1)) else none } }

/-- A list sent on for an endpoint has had no answer for TOUT ticks: its lines fail with TARGET_DEAD, its tag is held (R164, R180, R509). -/
def State.endProxy (s : State) (q key j : Nat) : State :=
  match tget s.joins j none with
  | none => s
  | some x =>
    let p := x.msg.part
    if s.now < endOf x.since (s.part p).tout.toNat then s
    else
      let g := s.lowBlk p
      let tag : Tag := BitVec.ofNat 12 (1024 * q + key % 1024)
      let d : Eid := BitVec.ofNat 12 (key / 1024)
      let s := (s.tagSet tag d (.held (endOf s.now 512))).timedOut g p { deid := d, tag := tag } none
      let ls := x.msg.lines.map (·.line)
      s.joinPart g j (nth ls 0) stOk [] [] (ls.map (fun l => (l, stDead)))

def State.endProxies (s : State) : State :=
  s.qs.foldl (fun s e => e.2.tags.foldl (fun s t => match t.2 with
    | .join j => s.endProxy e.1 t.1 j
    | _ => s) s) s

/-- Page-table reads under way are sent again or given up as their RTO and TOUT say (R167, R180); contexts that wait for a table go on when a
read ended, or when none could be sent. Logs 19, 78. -/
def State.tendTables (s : State) : State :=
  (s.parts.foldl (fun s e =>
    let ks := e.2.pteAsk.map (·.1)
    let s := ks.foldl (fun s n => s.pteRead e.1 n) s
    if ks = [] ∨ (s.part e.1).pteAsk.map (·.1) ≠ ks then s.tableRead e.1 else s) s).review

/-- TICK_BOUNDARY: the steps of R36 in order; `watts` is the input power of the tick that ended. Of
step 4's durations those of page-table reads and of lists sent on end here; the others end by their own commands. -/
def execTickBoundary (watts : BitVec 16) (s : State) : Res :=
  if ¬s.ticking then .next s
  else
    let s := s.startTick
    let s := s.holdGaps
    let s := s.closeTick
    let s := s.runAudit
    let s := s.endProxies.tendTables
    let s := s.noteIdle
    let s := s.score
    let s := s.refill
    let s := s.govern watts.toNat
    .next s.resetBudgets

/-- TAG_POOL_REBUILD: a Quarter's tags of a DEID are those its entries hold, 512 ticks after the discrepancy (R472). -/
def execTagPoolRebuild (q : QId) (deid : Eid) (s : State) : Res :=
  let e := deid.toNat
  match tfind (s.qtr q.toNat).rebuild e with
  | none => .next s
  | some t =>
    if s.now < t then .next s
    else
      .next (((s.updQtr q.toNat (fun x => { x with
        rebuild := tdel x.rebuild e
        tags := x.tags.filter (fun k => k.1 / 1024 ≠ e || (match k.2 with
          | .req c id => (s.ctx c).reqs.any (fun r => r.id = id && r.tagged)
          | _ => true)) })).tagFreed q.toNat deid).review)

/-- A timed-out request's tag is freed 512 ticks after the timeout (R164). -/
def execTagHoldEnd (q : QId) (deid : Eid) (tag : Tag) (s : State) : Res :=
  let t : Tag := BitVec.ofNat 12 (1024 * q.toNat + tag.toNat % 1024)
  match s.tagHolder t deid with
  | some (.held e) => .next (if e ≤ s.now then (s.tagDrop t deid).review else s)
  | _ => .next s

end Sys2Proof.Machine
end

