-- ==== Sys2Proof/Machine/Boot.lean ====
section
/-! DEFINITION. Start-ups, resets and power states (14 R420; 15 R432 to R461; 17 R481 to R483, R491 to R493): operations that their commands share. -/

namespace Sys2Proof.Machine

/-! ### What a reset leaves (R432, R460, R461) -/

/-- The device with everything at its reset value: flash, fuses and the inputs of the monitor stay, and `rws` the RWS fields. -/
def State.blank (s : State) (rws : Bool) : State :=
  let z : State := {
    pending := s.pending, freeCtr := s.freeCtr, out := s.out, fuse := s.fuse, flash := s.flash, flashOld := s.flashOld
    mod := { pwrGood := s.mod.pwrGood }
    boot := { held := s.boot.held, dead := s.boot.dead, thermRec := s.boot.thermRec } }
  if rws then
    { z with
      tb := { z.tb with lossCnt := s.tb.lossCnt }
      sec := { z.sec with wipeCause := s.sec.wipeCause, wipes := s.sec.wipes, wipeTick := s.sec.wipeTick }
      boot := { z.boot with seen := s.boot.seen, last := s.boot.last, clkSrc := s.boot.clkSrc, starts := s.boot.starts, glitch := s.boot.glitch } }
  else z

/-- A warm start-up begins: step 1, the RWS fields kept, its cause recorded (R432, R460). -/
def State.warmStart (s : State) (cause : Nat) (src : BitVec 8) : State :=
  let t := s.blank true
  { t with boot := { t.boot with
      held := false, seen := t.boot.seen ||| BitVec.ofNat 9 (2 ^ cause), last := BitVec.ofNat 4 cause, starts := satAdd t.boot.starts 1
      clkSrc := if cause = 3 then src else t.boot.clkSrc } }

/-- A cold start-up begins: nothing is kept; it reads the input monitor's THERMAL record (R432, R459, R460, R483). Log 26. -/
def State.coldStart (s : State) : State :=
  let t := s.blank false
  let c : Nat := if s.boot.thermRec then 7 else 0
  { t with boot := { t.boot with held := false, dead := false, thermRec := false, seen := 1 ||| BitVec.ofNat 9 (2 ^ c), last := BitVec.ofNat 4 c } }

/-- Everything is unpowered but the input monitor (R452, R483). -/
def State.toP4 (s : State) (thermal : Bool) : State :=
  let t := s.blank false
  { t with pw := { t.pw with state := 4 }, boot := { t.boot with thermRec := thermal } }

/-! ### The cask (R420) -/

/-- Wipes the cask and journals it. -/
def State.wipe (s : State) (cause : Nat) (src : BitVec 8) : State :=
  let old := s.readSq 0x7000
  let s := { s with sec := { s.sec with caskV := false, wipeCause := BitVec.ofNat 4 cause, wipes := satAdd s.sec.wipes 1, wipeTick := BitVec.ofNat 32 s.now } }
  s.journalOne src 0x7000 old (s.readSq 0x7000)

/-- TAMPER (R468). -/
def tamper (cause : Nat) : Event := { code := 0x45, unit := uSquare, d0 := BitVec.ofNat 64 cause }

/-- Whether the tamper sensors and the cask are powered: in every state but P4 and without the Square's power (R420). -/
def State.caskOn (s : State) : Bool := !s.boot.dead && s.pw.state ≠ 4

/-! ### Start-up steps (R433 to R439) -/

/-- A fault of a start-up: the first is kept, the worst result shown (R436). -/
def Boot.withFault (b : Boot) (code : BitVec 8) (result : BitVec 2) : Boot :=
  { b with fault := if b.fault = 0 then code else b.fault, result := if b.result < result then result else b.result }

/-- Recovery mode (R435). -/
def State.recovery (s : State) (code : BitVec 8) : State := { s with boot := { s.boot.withFault code 3 with step := 7 } }

/-- Holds Blocks out of service (R437), noting why. -/
def State.holdOut (s : State) (bs : BitVec 64) (code : BitVec 8) : State :=
  if bs = 0 then s
  else
    let new := (maskList 64 bs).filter (fun g => !s.boot.blkFail.getLsbD g)
    let b := s.boot.withFault code 2
    { s with boot := { b with blkFail := b.blkFail ||| bs, failCode := new.foldl (fun t g => tins (tdel t g) g code) b.failCode } }

/-- Step 1 ends: fuses, firmware and overlays are loaded, the cask holds this boot's secrets (R421, R422, R433, R439). A SCRAPPED module
goes no further (R419). MGMT and SEC begin their ramps. Logs 26, 28. -/
def State.step1Done (s : State) (setB : Bool) : State :=
  let s := { s with
    sec := { s.sec with lc := s.fuse.lc, caskV := true }, calset := s.flash
    pw := { s.pw with envelope := BitVec.ofNat 16 s.fuse.variant.env, sdsRef := true, pciRef := true } }
  if s.fuse.lc = .scrapped then { s with sec := { s.sec with caskV := false } }
  else
    let b := if setB then { s.boot.withFault 2 2 with image := true } else s.boot
    let s := { s with boot := { b with step := 2, glitch := false }, pw := { s.pw with ramps := [1, 2] } }
    if b.glitch then s.raise (tamper s.sec.wipeCause.toNat) else s

/-- RUN with every domain but DEBUG on its nominal source (R447). -/
def runAll : BitVec 18 := 0x1FFFF

/-- Step 5 ends, and with it the start-up (R437, R439, R173): horizons, journal entry 0, BLOCK_HELD. -/
def State.startupEnd (s : State) : State :=
  let s := { s with boot := { s.boot with step := 6, result := if s.boot.result = 0 then 1 else s.boot.result } }
  let s := (List.range 64).foldl (fun s g => s.updBlk g (fun b => { b with hz := s.tb.tick })) s
  let s := s.journalZero
  (maskList 64 s.boot.blkFail).foldl (fun s g =>
    s.raise { code := 0x50, unit := uBlk g, d0 := (tget s.boot.failCode g 0).setWidth 64 }) s

/-- The Blocks of a stack's channels: near stacks 0 to 7, then bulk stacks (R20), with the channel's place among a Block's ten. -/
def stackChan (stack i : Nat) : Nat × Nat :=
  if stack < 8 then
    let c := 32 * (stack % 2) + i
    (16 * (stack / 2) + c / 4, c % 4)
  else
    let b := stack - 8
    let c := 16 * (b % 6) + i
    (16 * (b / 6) + c / 6, 4 + c % 6)

/-- The Quarter that owns a stack (R20). -/
def stackQtr (stack : Nat) : Nat := if stack < 8 then stack / 2 else (stack - 8) / 6

/-- Channels of a stack. -/
def stackChans (stack : Nat) : Nat := if stack < 8 then 32 else 16

/-- A stack has trained (R433, R436, R438): Blocks of its failed channels are held out. -/
def State.stackTrained (s : State) (stack : Nat) (full : Bool) (failed : BitVec 32) : State :=
  let s := { s with boot := { s.boot with stacksUp := s.boot.stacksUp ||| BitVec.ofNat 32 (2 ^ stack), memFull := if full then s.boot.memFull + 1 else s.boot.memFull } }
  let cs := List.range (stackChans stack)
  let bad := listMask 64 ((cs.filter (fun i => failed.getLsbD i)).map (fun i => (stackChan stack i).1))
  let s := (cs.filter (fun i => !failed.getLsbD i)).foldl (fun s i =>
    let (g, j) := stackChan stack i
    s.updBlk g (fun b => { b with trained := b.trained ||| BitVec.ofNat 10 (2 ^ j) })) s
  s.holdOut bad 7

/-! ### Power states (R452 to R456) -/

/-- Enters a power state. Log 30. -/
def State.enterPower (s : State) (st : BitVec 3) : State :=
  { s with pw := { s.pw with state := st, since := BitVec.ofNat 32 s.now, idle := none } }

/-- P3: the Quarters lose their power (R456). Partitions, the ownership of banks, stack contents and the Square's tables stay. Log 30. -/
def State.quartersOff (s : State) : State :=
  let era := s.freeCtr
  { s with
    freeCtr := era + 64, ports := [], qs := [], ctxs := [], joins := [], sqOut := [], pteEvt := []
    ctlq := s.ctlq.filter (fun e => match e.1 with | .tc0 _ => false | _ => true)
    trays := tmap s.trays {} (fun _ t => { t with state := .disabled, retrainAt := none, frames := 0 })
    parts := tmap s.parts {} (fun _ p => { p with tcache := [], pteAsk := [], pteRes := [] })
    trunks := tmap s.trunks {} (fun _ t => { t with active := 0, gap := [] })
    blks := tmap s.blks {} (fun g b => { state := b.state, hz := b.hz, roots := b.roots, areaBanks := b.areaBanks, bankOwn := b.bankOwn,
                                         bankArea := b.bankArea, trained := b.trained, bankEra := era + g }) }

/-- Why a power request is refused (R454); 0 when it is accepted. Log 24. -/
def State.powerRefusal (s : State) (req : Nat) : BitVec 4 :=
  let links : Bool := s.ports.any (fun e => e.2.off = 0 && e.2.state ≠ .disabled && e.2.state ≠ .down)
    || s.trays.any (fun e => e.2.state ≠ .disabled && e.2.state ≠ .down)
  if req = 4 ∨ req = 7 then 0
  else if req = 1 ∨ req = 5 ∨ req = 6 then 5
  else if s.pw.trans.isSome then 4
  else if s.pw.state = 3 ∧ req ≠ 0 then 5
  else if (req = 2 ∨ req = 3) ∧ s.parts.any (fun e => e.2.state = .bound) then 1
  else if req = 3 ∧ ¬s.idleNow then 2
  else if req = 3 ∧ links then 3
  else 0

/-- A power request (R434, R454). P4 and the software reset (7) abandon a transition under way. Log 24. -/
def State.powerReq (s : State) (v : BitVec 64) : State :=
  if s.boot.step ≠ 6 then s
  else
    let req := sbits v 0 3
    let r := s.powerRefusal req
    let s := { s with pw := { s.pw with req := BitVec.ofNat 3 req, lastReq := BitVec.ofNat 3 req, refuse := r } }
    if r ≠ 0 then s.raise { code := 0x52, unit := uSquare, d0 := r.setWidth 64, d1 := BitVec.ofNat 64 req }
    else if req = 7 then { s with pw := { s.pw with trans := some 7 } }
    else if req = s.pw.state.toNat then s
    else { s with pw := { s.pw with trans := some (BitVec.ofNat 3 req) } }

/-- The transition under way completes (R452, R454 to R456). Log 25. -/
def State.powerDone (s : State) : State :=
  match s.pw.trans with
  | none => s
  | some st =>
    let old := s.pw.state
    let s := { s with pw := { s.pw with trans := none } }
    let s := s.raise { code := 0x51, unit := uSquare, d0 := old.setWidth 64, d1 := st.setWidth 64 }
    if st = 4 then s.toP4 false
    else
      let s := s.enterPower st
      if st = 3 then s.quartersOff else s

/-- A SUBMIT that is accepted, or a request for P0, leaves P1 (R453). -/
def State.leaveP1 (s : State) : State := if s.pw.state = 1 then s.enterPower 0 else s

/-! ### Temperatures (R459, R491 to R493) -/

/-- A temperature of whole degrees in units of 0.125 °C. -/
def celsius (n : Int) : Int := 8 * n

/-- Keeps a reading (SQ_TEMP_i). Log 35. -/
def State.reading (s : State) (i : Nat) (t : BitVec 16) : State :=
  let m := tget s.mod.tmax i 0
  { s with mod := { s.mod with temp := tset s.mod.temp i t 0, tmax := tset s.mod.tmax i (if m.toInt < t.toInt then t else m) 0 } }

/-- Whether THERM_ALERT_N is asserted (R493): warnings of dies, regulator groups and the inlet, and throttled stacks. -/
def State.alert (s : State) : Bool :=
  (List.range 43).any (fun i => (i < 5 || 37 ≤ i) && s.mod.warn.getLsbD i) || s.mod.throttled ≠ 0

/-- Sets or clears a sensor's warning, telling when THERM_ALERT_N changes. -/
def State.warnSet (s : State) (i : Nat) (on : Bool) : State :=
  let bit : BitVec 43 := BitVec.ofNat 43 (2 ^ i)
  let t := { s with mod := { s.mod with warn := if on then s.mod.warn ||| bit else s.mod.warn &&& ~~~bit } }
  if s.alert = t.alert then t else t.emit (.thermAlert t.alert)

/-- A stack begins or ends throttling. -/
def State.throttle (s : State) (stack : Nat) (on : Bool) : State :=
  let bit : BitVec 32 := BitVec.ofNat 32 (2 ^ stack)
  let was := s.alert
  let s := { s with mod := { s.mod with throttled := if on then s.mod.throttled ||| bit else s.mod.throttled &&& ~~~bit } }
  let s := { s with mod := { s.mod with warn := if on then s.mod.warn ||| BitVec.ofNat 43 (2 ^ (5 + stack)) else s.mod.warn &&& ~~~(BitVec.ofNat 43 (2 ^ (5 + stack))) } }
  if was = s.alert then s else s.emit (.thermAlert s.alert)

/-- THERMAL_WARN (R468). -/
def thermalWarn (unit : BitVec 16) (t : BitVec 16) : Event := { code := 0x53, unit := unit, d0 := t.signExtend 64 }

/-- Starts the divider ramp of a Quarter's QCORE (R450, R459). -/
def State.rampQcore (s : State) (q : Nat) : State :=
  { s with pw := { s.pw with run := s.pw.run &&& ~~~(BitVec.ofNat 18 (2 ^ (3 + q))), ramps := setIns s.pw.ramps (4 + q) } }

/-- Sensors are read once the firmware runs. Log 35. -/
def State.sensing (s : State) : Bool := s.alive && 2 ≤ s.boot.step.toNat && s.boot.step.toNat ≤ 6

/-! ### LEDs (R489) -/

/-- How an LED shows: off, on, or blinking with a period in ms. -/
inductive Led where
  | off | on | blink (ms : Nat)
deriving DecidableEq, Repr

/-- LED_LOCATE. Log 45. -/
def State.ledLocate (s : State) : Led := if s.mod.locate = 2 then .blink 1000 else if s.mod.locate = 1 then .on else .off

/-- LED_STAT0: a column further right takes precedence. -/
def State.ledStat0 (s : State) : Led :=
  if s.pw.state = 2 ∨ s.pw.state = 3 then .blink 4000
  else if s.pw.state = 4 then .off
  else if s.boot.step.toNat < 6 then .blink 1000
  else if s.boot.step = 6 then .on else .off

/-- Whether some part's score is below 64 (R471). -/
def State.anyCrit (s : State) : Bool :=
  s.ports.any (fun e => e.2.health.score.toNat < 64) || s.blks.any (fun e => e.2.health.score.toNat < 64)
    || s.qs.any (fun e => e.2.mcHealth.any (fun h => h.2.score.toNat < 64) || e.2.stackHealth.any (fun h => h.2.score.toNat < 64))

/-- LED_STAT1. -/
def State.ledStat1 (s : State) : Led :=
  if s.boot.result = 2 ∨ s.boot.blkFail ≠ 0 ∨ s.anyCrit then .blink 500
  else if s.boot.halted ∨ s.boot.step = 7 then .on else .off

/-- LED_STAT2. -/
def State.ledStat2 (s : State) : Led :=
  let refused : Bool := match s.mod.refusedAt with | some t => s.now < t + 5000000 | none => false
  if refused then .blink 250
  else match s.trays.find? (fun e => e.2.sel) with
    | some (_, y) => if y.state = .evac then .blink 500 else if y.state = .assigned then .on else .off
    | none => .off

/-- LED_STAT3. -/
def State.ledStat3 (s : State) : Led :=
  if s.pw.state = 4 then .on else if s.mod.latch then .blink 500 else .off

end Sys2Proof.Machine
end

