-- ==== Sys2Proof/Machine/RowsFault.lean ====
section
/-! DEFINITION. Meanings of detected errors (16 R462 to R471; 06 R173; 09 R276; 13 R397). -/

namespace Sys2Proof.Machine

/-- Discards the packet that an output queue would send or hand over next (R462, class 2). Log 118. -/
def State.packetUe (s : State) (q n : Nat) : State :=
  match (s.queue q n).next with
  | none => s
  | some p =>
    let s := (s.updQueue q n (fun x => { x with pkts := x.pkts.erase p })).releaseMc q p
    let s := s.updQtr q (fun x => { x with pktUe := satAdd x.pktUe 1 })
    let s := if n = nSquare ∧ p.msg.pkt.tc = 0 ∧ p.msg.pkt.mtype = 0 then { s with ctlq := dropTurn s.ctlq q } else s
    s.raise (ueEvent 2 (uQtr q) 0 4)

/-- An event of a context. -/
def State.ctxEvent (s : State) (c : Nat) (e : Event) : Event :=
  let e := e.inCtx c
  match s.partOfBlk (c / 16) with
  | some p => e.inPart p (s.part p)
  | none => e

/-- A context faults with STATE_LOST (R397): `gone` are requests whose entries the error took. -/
def State.ctxUe (s : State) (c : Nat) (mails : Bool) : State :=
  let s := s.raise (s.ctxEvent c (ueEvent 4 (uBlk (c / 16)) 0 9))
  let s := if mails then s.updCtx c (fun x => { x with mail := [] }) else s
  s.faultCtx c stStateLost 0xFFFF

/-- A collective's state is hit before its root has sent its last PARTIAL or END (R276). -/
def State.collUe (s : State) (g n part d1 : Nat) (hit : Bool) : State :=
  match s.coll g n with
  | none => s
  | some x =>
    let s := s.raise (s.collEvent x { ueEvent 4 (uBlk g) 0 d1 with flags := if hit then 8 else 0 })
    if x.lastSent ∨ x.endSt.isSome then s else s.collLost g n part stStateLost hit

/-- A word of the 16 KiB unit `u` of a Block's banks is lost: the collective whose slice buffer holds the unit loses state (R259, R276). -/
def State.bufferUe (s : State) (g u : Nat) : State :=
  match (s.blk g).colls.find? (fun e => match e.2 with | some x => x.units.contains u && x.endSt.isNone && !x.lastSent | none => false) with
  | some e => s.collLost g e.1 0 stStateLost false
  | none => s

/-- A line of a hot slot becomes poisoned (R462, class 3). -/
def State.hotUe (s : State) (g slot : Nat) : State :=
  match tget (s.blk g).hot slot none with
  | none => s
  | some h =>
    let s := s.updBlk g (fun b => { b with hot := tset b.hot slot (some { h with poison := true }) none })
    if (s.blk g).ueAt = some s.now then s
    else
      let e := ueEvent 3 (uBlk g) (128 * h.line) 9
      let e := match s.partOfBlk g with | some p => e.inPart p (s.part p) | none => e
      (s.updBlk g (fun b => { b with ueAt := some s.now })).raise e

/-- The replay cache loses an entry, the device's choice; the horizon rises (R173, R462). Log 118. -/
def State.replayUe (s : State) (g : Nat) : State :=
  let (v, s) := s.free
  let s := s.updBlk g (fun b => { b with replay := b.replay.eraseIdx (v % b.replay.length), hz := s.tb.tick })
  let e := ueEvent 5 (uBlk g) 0 5
  s.raise (match s.partOfBlk g with | some p => e.inPart p (s.part p) | none => e)

/-- UNCORRECTABLE_ERROR: contained as its class says (R462). An error in what the state does not hold changes nothing. -/
def execUncorrectableError (site : UeSite) (s : State) : Res :=
  if ¬s.ticking then .next s
  else match site with
    | .packet q n => .next (s.packetUe q.toNat n.toNat)
    | .line p l tray =>
      -- an error where the line does not lie is none of it
      (match (s.part p.toNat).spot l.toNat with
      | some x => if decide (x.tier = 3) = tray then .next (s.lineUe p.toNat l.toNat x) else .next s
      | none => .next s)
    | .hotSlot g k => .next (s.hotUe g.toNat k.toNat)
    | .bankWord g w =>
      let b := s.blk g.toNat
      if b.state ≠ .member then .next s
      else
        let s := s.updBlk g.toNat (fun b => { b with bpois := setIns b.bpois w.toNat, health := b.health.add 4096 })
        let e := ueEvent 4 (uBlk g.toNat) (16 * w.toNat) 2
        .next ((s.raise (match s.partOfBlk g.toNat with | some p => e.inPart p (s.part p) | none => e)).bufferUe g.toNat (w.toNat / 1024))
    | .reqEntry c id =>
      match (s.ctx c.toNat).reqs.find? (fun r => r.id = id) with
      | some r => .next ((s.freeReq c.toNat r true).ctxUe c.toNat false)
      | none => .next s
    | .issueState c => if (s.ctx c.toNat).holds ∧ ¬(s.ctx c.toNat).parked then .next (s.ctxUe c.toNat false) else .next s
    | .parkRecord c => if (s.ctx c.toNat).holds ∧ (s.ctx c.toNat).parked then .next (s.ctxUe c.toNat true) else .next s
    | .collBuffer g n hit => .next (s.collUe g.toNat n.toNat 0 2 hit)
    | .collRecord g n hit => .next (s.collUe g.toNat n.toNat 1 7 hit)
    | .replay g => if (s.blk g.toNat).replay = [] then .next s else .next (s.replayUe g.toNat)
    | .transCache p u k =>
      if (tfind (s.part p.toNat).tcache (xKey u.toNat k.toNat)).isNone then .next s
      else
        let s := s.updPart p.toNat (fun x => { x with tcache := tdel x.tcache (xKey u.toNat k.toNat) })
        let at' := if u.toNat < 64 then uBlk u.toNat else uQtr (qOfLane (u.toNat - 64))
        .next (s.raise ((ueEvent 5 at' 0 6).inPart p.toNat (s.part p.toNat)))
    | .lostLog g i =>
      if (s.blk g.toNat).lostLog.length ≤ i.toNat then .next s
      else
        let s := s.updBlk g.toNat (fun b => { b with lostLog := b.lostLog.eraseIdx i.toNat, lostOvf := satAdd b.lostOvf 1 })
        let e := ueEvent 5 (uBlk g.toNat) 0 9
        .next (s.raise (match s.partOfBlk g.toNat with | some p => e.inPart p (s.part p) | none => e))
    | .directory g => .next (s.partFault g.toNat (ueEvent 6 (uBlk g.toNat) 0 3))
    | .conflictTable g => .next (s.partFault g.toNat (ueEvent 6 (uBlk g.toNat) 0 9))
    | .txnRecord g => .next (s.partFault g.toNat (ueEvent 6 (uBlk g.toNat) 0 9))
    | .metadata p =>
      if (s.part p.toNat).state = .none then .next s
      else
        let seq := s.sec.eseq
        .next ((s.raise ((ueEvent 6 uSquare 0 7).inPart p.toNat (s.part p.toNat))).fencePart p.toNat 0x60 6 seq)
    | .channelRetrain g ch =>
      let c := if ch.toNat < 4 then chanNear g.toNat ch.toNat else chanBulk g.toNat (ch.toNat - 4)
      if 10 ≤ ch.toNat then .next s else .next (s.partFault g.toNat (ueEvent 6 (uChan (qOfBlk g.toNat) c) 0 0))
    | .freeList q =>
      if s.boot.halted then .next s
      else
        let seq := s.sec.eseq
        .next ((s.raise (ueEvent 7 (uQtr q.toNat) 0 8)).halt (uQtr q.toNat) (some (0x60, seq)))
    | .dieLink q => .next (s.halt (uQtr q.toNat) none)
    | .mgmtCore => .next (s.halt uSquare none)

/-- CORRECTED_ERROR: counts and health penalties only (R462, R470). -/
def execCorrectedError (site : CeSite) (n : BitVec 16) (s : State) : Res :=
  let k := n.toNat
  if ¬s.ticking then .next s
  else match site with
    | .fec l =>
      if ¬(s.port l.toNat).enabled then .next s
      else .next (s.updPort l.toNat (fun p =>
        let t := p.fecSum + k
        { p with fecSum := t % 1024, fecCorr := satAdd p.fecCorr (t / 1024), health := p.health.add (t / 1024) }))
    | .channelSymbol q c => if c.toNat < 160 then .next (s.chanPenalty q.toNat c.toNat (4 * k)) else .next s
    | .channelRetry q c => if c.toNat < 160 then .next (s.chanPenalty q.toNat c.toNat (32 * k)) else .next s
    | .blockWord g => .next (s.updBlk g.toNat (fun b => { b with health := b.health.add (4 * k) }))
    | .bufferWord q => .next (s.updQtr q.toNat (fun x =>
        let t := x.bufCeSum + k
        { x with bufCeSum := t % 1024, bufCe := satAdd x.bufCe (t / 1024) }))

/-- ENGINE_UNRESPONSIVE: an engine of a MEMBER Block answers no slice for 1,000 ticks; its partition is FENCED (R417, R462). -/
def execEngineUnresponsive (g : BlockId) (_ : Eng) (s : State) : Res :=
  if (s.blk g.toNat).state ≠ .member ∨ (s.partOfBlk g.toNat).isNone then .next s
  else
    let s := s.updBlk g.toNat (fun b => { b with health := b.health.add 16320 })
    .next (s.partFault g.toNat (ueEvent 6 (uBlk g.toNat) 0 9))

end Sys2Proof.Machine
end

