-- ==== Sys2Proof/Machine/RowsHome.lean ====
section
/-! DEFINITION. Meanings of the commands of a home Block (06 R160, R170 to R173; 07 R185 to R211). -/

namespace Sys2Proof.Machine

/-- A home takes a load (R160). -/
def execLdRequest (g : BlockId) (s : State) : Res := .next (s.homeTake g.toNat (· = tLD))
/-- A home takes a store (R160). -/
def execStRequest (g : BlockId) (s : State) : Res := .next (s.homeTake g.toNat (· = tST))
/-- A home takes an atomic (R172). -/
def execAtRequest (g : BlockId) (s : State) : Res := .next (s.homeTake g.toNat (· = tAT))
/-- A home takes a prefetch list (R509). -/
def execPflistRequest (g : BlockId) (s : State) : Res := .next (s.homeTake g.toNat (· = tPF))
/-- A home takes RdShared (R194). -/
def execRdshared (g : BlockId) (s : State) : Res := .next (s.homeTake g.toNat (· = tRdShared))
/-- A home takes RdOwn (R194). -/
def execRdown (g : BlockId) (s : State) : Res := .next (s.homeTake g.toNat (· = tRdOwn))
/-- A home takes WrInv (R194). -/
def execWrinv (g : BlockId) (s : State) : Res := .next (s.homeTake g.toNat (· = tWrInv))
/-- A home takes WrBack (R186, R194). -/
def execWrback (g : BlockId) (s : State) : Res := .next (s.homeTake g.toNat (· = tWrBack))
/-- A home takes Evict (R186, R194). -/
def execEvict (g : BlockId) (s : State) : Res := .next (s.homeTake g.toNat (· = tEvict))
/-- A home takes LostClr (R208). -/
def execLostclr (g : BlockId) (s : State) : Res := .next (s.homeTake g.toNat (· = tLostClr))
/-- A snoop is answered without data (R194). -/
def execSnpresp (g : BlockId) (s : State) : Res := .next (s.snoopAnswer g.toNat rSnpResp)
/-- A snoop is answered with data (R194). -/
def execSnprespd (g : BlockId) (s : State) : Res := .next (s.snoopAnswer g.toNat rSnpRespD)

/-- The first set-aside request whose lines are free is served (R185); lines due to become hot go first (R200). Log 123. -/
def execConflictTableServe (g : BlockId) (s : State) : Res :=
  match s.partOfBlk g.toNat with
  | none => .next s
  | some p =>
    let due := ((s.blk g.toNat).dir.filter (fun e => e.2.due.isSome && e.2.txn.isNone)).map (·.1)
    let s := due.foldl (fun s l => s.startHot g.toNat p l) s
    .next (s.serveAside g.toNat p [] (s.blk g.toNat).conf)

/-- A pin ends: renewed for 16 ticks when 8 or more ownership requests were taken in the tick just ended, else written back (R203). Log 104. -/
def execHotPinEnd (g : BlockId) (slot : BitVec 4) (s : State) : Res :=
  match tget (s.blk g.toNat).hot slot.toNat none, s.partOfBlk g.toNat with
  | some h, some p =>
    if s.now < h.pinEnd then .next s
    else if h.takenAt + 1 = h.pinEnd ∧ 8 ≤ h.taken then .next (s.setHot g.toNat slot.toNat (some { h with pinEnd := endOf h.pinEnd 16 }))
    else .next (s.endHot g.toNat p h.line)
  | _, _ => .next s

/-- A snoop has waited 1,000 ticks (R197). -/
def execSnoopSlow (g : BlockId) (line : BitVec 45) (s : State) : Res :=
  let b := g.toNat
  let l := line.toNat
  match (s.ent b l).txn, s.partOfBlk b with
  | some t, some p =>
    let slow := t.waits.filter (fun w => !w.slow && endOf w.sent 1000 ≤ s.now)
    let s := s.updEnt b l (fun e => { e with txn := some { t with waits := t.waits.map (fun w => if slow.contains w then { w with slow := true } else w) } })
    .next (slow.foldl (fun s w =>
      s.raise (({ code := 0x20, unit := uBlk b, eid := w.eid, inc := w.inc, d0 := BitVec.ofNat 64 (128 * l) } : Event).inPart p (s.part p))) s)
  | _, _ => .next s

/-- The walk of one Block's slice for a dead agent (R205): lines marked, and those that found no room in the log. -/
def State.deathWalk (s : State) (g p : Nat) (eid : Eid) (inc : Inc) : State × Nat × Nat :=
  (s.blk g).dir.foldl (fun (a : State × Nat × Nat) e =>
    let (s, n, u) := a
    match e.2.mode with
    | .own x i =>
      if x = eid ∧ i = inc ∧ e.2.txn.isNone then
        let full := 4096 ≤ (s.blk g).lostLog.length
        ((s.markLost g p e.1 x i).setMode g e.1 .none, n + 1, u + b1 full)
      else a
    | .exact l =>
      if l.contains eid.toNat then
        let r := l.filter (· ≠ eid.toNat)
        (s.updEnt g e.1 (fun x => { x with mode := if r = [] then .none else .exact r }), n, u)
      else a
    | _ => a) (s, 0, 0)

/-- The directory walks for a dead agent end, with one LOST_LINES event for each Block that marked lines (R205). Log 103. -/
def execDeathWalkDone (eid : Eid) (inc : Inc) (s : State) : Res :=
  let w : Walk := .death eid inc
  .next ((s.blks.filter (fun e => e.2.walks.contains w)).foldl (fun s e =>
    let s := s.updBlk e.1 (fun b => { b with walks := b.walks.erase w })
    match s.partOfBlk e.1 with
    | none => s
    | some p =>
      let (s, n, u) := s.deathWalk e.1 p eid inc
      if n = 0 then s
      else s.raise (({ code := 0x21, unit := uBlk e.1, eid := eid, inc := inc, d0 := BitVec.ofNat 64 n, d1 := BitVec.ofNat 64 u } : Event).inPart p (s.part p))) s)

/-- A replay-cache entry expires (R171). -/
def execReplayCacheExpiry (g : BlockId) (s : State) : Res :=
  .next (s.updBlk g.toNat (fun b => { b with replay := b.replay.filter (fun e => s.now < e.expiry) }))

end Sys2Proof.Machine
end

