-- ==== Sys2Proof/Machine/RowsLinkctl.lean ====
section
/-! DEFINITION. Meanings of the LINKCTL sub-operations (12 R378; 03 R55 to R58, R64, R72 to R83, R505, R506; 04 R95 to R101, R109 to R115, R122, R508;
05 R124, R130, R131, R134, R141, R143; 02 R39, R43; 08 R243, R245; 18 R498). -/

namespace Sys2Proof.Machine

/-! ### Limits (R64, R95, R113, R122) -/

/-- Whether every class's credits are legal (R64). -/
def creditsOk (adv : Tbl (BitVec 16)) : Bool :=
  (List.range 7).all (fun k => 260 ≤ (tget adv k 0).toNat) && tget adv 7 0 = 16

/-- Whether a port's landing fits its reservation (R95). -/
def Port.landOk (p : Port) : Bool := p.landCellsSet ≤ 512 * p.lanes

/-- The credit that a port advertises for a class: as set, or as it is in force until the next join, whichever is more (R95). -/
def Port.advMost (p : Port) (k : Nat) : Nat := max (tget p.adv k 0).toNat (if p.enabled then (tget p.advCur k 0).toNat else 0)

/-- Whether the sprayed classes of every trunk keep their sum of credits, before and after the joins that put new credits in force (R113). Log 52. -/
def State.spraysOk (s : State) : Bool :=
  s.trunks.all (fun t => (List.range 7).all (fun k =>
    !s.spray.getLsbD k || decide ((t.2.members.map (fun l => (s.port l).advMost k)).sum ≤ 32767)))

/-- Whether P of a Quarter is not below 0 (R122). -/
def State.poolOk (s : State) (q : Nat) : Bool := decide (0 ≤ s.poolP q)

/-- Whether an instruction may name a lane as its port's lowest. -/
def State.lowest (s : State) (l : Nat) : Bool := (s.port l).off = 0

/-! ### PORTCFG (R55, R57, R58, R64, R96, R498) -/

/-- The lowest lane of the port that a lane is in. -/
def State.owner (s : State) (l : Nat) : Nat := l - (s.port l).off.toNat
/-- The width as set: a downshifted port's is one code above the width it runs at (R58). -/
def Port.setWidth (p : Port) : Nat := p.width.toNat + b1 p.downsh
/-- The lanes concerned by giving a port at `l` `n` lanes: those and all lanes of the ports they are in (R57). -/
def State.concerned (s : State) (l n : Nat) : List Nat :=
  let os := (((List.range n).map (fun i => s.owner (l + i)))).eraseDups
  (os.flatMap (fun o => (List.range (2 ^ (s.port o).setWidth)).map (· + o)) ++ (List.range n).map (· + l)).foldl setIns []

structure PortCfg where
  lane : Nat
  width : Nat
  rate : Bool
  down : Bool
  on : Bool
deriving DecidableEq, Repr

def portCfgOf (ci : CtlInsn) : PortCfg := { lane := ci.f 0 9, width := ci.f 9 2, rate := ci.f 11 1 = 1, down := ci.f 12 1 = 1, on := ci.f 13 1 = 1 }

/-- Whether a PORTCFG changes width, rate or downshift. -/
def State.cfgChanges (s : State) (c : PortCfg) : Bool :=
  let p := s.port c.lane
  p.off ≠ 0 || p.setWidth ≠ c.width || p.rate ≠ c.rate || p.dshen ≠ c.down

/-- The lanes of a changed port: the port itself, and the lanes that fall out of a former one as 1-lane ports. Log 53. -/
def State.setLanes (s : State) (c : PortCfg) : State :=
  if ¬s.cfgChanges c then s
  else
    let n := 2 ^ c.width
    (s.concerned c.lane n).foldl (fun s j =>
      s.updPort j (fun p =>
        if c.lane ≤ j ∧ j < c.lane + n then
          { p with off := BitVec.ofNat 3 (j - c.lane), width := if j = c.lane then BitVec.ofNat 2 c.width else 0,
                   rate := if j = c.lane then c.rate else false, dshen := if j = c.lane then c.down else false, downsh := false }
        else { p with off := 0, width := 0, downsh := false })) s

/-- A port enabled from DISABLED enters TRAIN with its credits in force; a disabled one drops its traffic (R72, R95, R505). -/
def State.switchPort (s : State) (c : PortCfg) : State :=
  let p := s.port c.lane
  if c.on ∧ p.state = .disabled then (s.updPort c.lane (fun p => { p with advCur := p.adv })).toTrain c.lane true
  else if ¬c.on ∧ p.state ≠ .disabled then
    ((s.flush c.lane).updPort c.lane (fun p => { p with jreq := none, grant := none })).toState c.lane .disabled
  else s

def portcfgDo (c : PortCfg) (s : State) : State := (s.setLanes c).switchPort c

/-- The least MIN of a queue index (R122): 32 cells for TC0 and TC1, 36 for TC2 to TC6. -/
def minFloor (n : Nat) : Nat := if n = nSquare ∨ (n < 1024 ∧ n % 8 ≤ 1) then 32 else 36

/-- Whether the queues of a port have their least MIN, which must be set before the port is enabled (R96, R122). Log 52. -/
def State.minsOk (s : State) (l : Nat) : Bool :=
  (List.range 7).all (fun k => minFloor (nPort l k) ≤ (s.queue (qOfLane l) (nPort l k)).min.toNat)

def portcfgCheck (ci : CtlInsn) (s : State) : Status :=
  let c := portCfgOf ci
  let n := 2 ^ c.width
  let p := s.port c.lane
  let fresh := c.on && (p.state = .disabled || s.cfgChanges c)
  if ¬ci.form 14 0 (· = 0) ∨ c.lane % n ≠ 0 then stInvalid
  else if s.cfgChanges c ∧ (s.concerned c.lane n).any (fun j => (s.port j).state ≠ .disabled) then stInvalid
  else if ¬fresh then stOk
  else
    let t := portcfgDo c s
    if s.selfEid = 0xFFF ∨ s.selfInc = 0 ∨ ¬creditsOk p.adv ∨ ¬(t.port c.lane).landOk ∨ ¬t.poolOk (qOfLane c.lane) ∨ ¬t.spraysOk
      ∨ ¬s.minsOk c.lane then stInvalid
    else stOk

/-- LINKCTL PORTCFG. -/
def execLinkctlPortcfg (via : Via) (ci : CtlInsn) (s : State) : Res :=
  s.runCtl via ci 0x87 0 (looks (portcfgCheck ci)) (plain (portcfgDo (portCfgOf ci)))

/-! ### RESTART, CREDIT (R64, R72, R95, R505) -/

def restartCheck (ci : CtlInsn) (s : State) : Status :=
  if ¬ci.form 9 0 (· = 0) ∨ ¬(s.port (ci.f 0 9)).enabled then stInvalid else stOk

def restartDo (l : Nat) (s : State) : State :=
  let st := (s.port l).state
  let s := if st = .hello ∨ st = .joining ∨ st = .active ∨ st = .retrain ∨ st = .fenced then s.flush l else s
  (s.updPort l (fun p => { p with jreq := none, grant := none })).toTrain l true

/-- LINKCTL RESTART. -/
def execLinkctlRestart (via : Via) (ci : CtlInsn) (s : State) : Res :=
  s.runCtl via ci 0x87 1 (looks (restartCheck ci)) (plain (restartDo (ci.f 0 9)))

/-- The credits of an argument slot, TC0 first. -/
def advOf (a : Slot) : Tbl (BitVec 16) := (List.range 8).foldl (fun t k => tset t k (BitVec.ofNat 16 (sbits a (16 * k) 16)) 0) []

def creditDo (l : Nat) (a : Slot) (s : State) : State := s.updPort l (fun p => { p with adv := advOf a })

def creditCheck (ci : CtlInsn) (s : State) : Status :=
  let l := ci.f 0 9
  if ¬ci.form 9 0 (· = 1) ∨ ¬s.lowest l ∨ ¬creditsOk (advOf (ci.arg 1)) then stInvalid
  else
    let t := creditDo l (ci.arg 1) s
    -- P as it will be once the credits are in force
    let u := t.updPort l (fun p => if p.enabled then { p with advCur := p.adv } else p)
    if ¬(t.port l).landOk ∨ ¬t.spraysOk ∨ ¬u.poolOk (qOfLane l) then stInvalid else stOk

/-- LINKCTL CREDIT: in force at the port's next join (R95). -/
def execLinkctlCredit (via : Via) (ci : CtlInsn) (s : State) : Res :=
  s.runCtl via ci 0x87 2 (looks (creditCheck ci)) (plain (creditDo (ci.f 0 9) (ci.arg 1)))

/-! ### ADMIT, TRUNKENT, DEAD, REMOTE (R75 to R83, R141, R216, R506) -/

/-- The eight segment descriptors of sixteen slots. -/
def CtlInsn.descs (ci : CtlInsn) : List Nat :=
  (List.range (ci.args.length / 2)).map (fun i => (ci.arg (2 * i + 1)).toNat + 2 ^ 128 * (ci.arg (2 * i + 2)).toNat)

/-- Another port that holds an EID's current incarnation; a DISABLED or DOWN port holds it too (R85, R505). -/
def State.holderOf (s : State) (l : Nat) (e : Eid) : Option Nat :=
  let cur := s.incOf e
  (s.ports.find? (fun x => x.1 ≠ l && x.2.role ≠ 0 && x.2.peerEid = e && x.2.peerInc = cur && cur ≠ 0 && x.2.off = 0)).map (·.1)

def admitCheck (ci : CtlInsn) (s : State) : Status :=
  let l := ci.f 0 9
  let p := s.port l
  let e : Eid := BitVec.ofNat 12 (ci.f 9 12)
  let i : Inc := BitVec.ofNat 8 (ci.f 21 8)
  if ¬ci.form 46 0 (fun n => n = 0 || n = 16) then stInvalid
  else match p.jreq with
    | none => stInvalid
    | some j =>
      if p.state ≠ .joining ∨ ¬j.pending ∨ j.decided ∨ p.off ≠ 0 then stInvalid
      else if ci.f 45 1 = 0 then stOk
      else if e = 0xFFF ∨ i = 0 ∨ ci.f 29 16 = 0xFFFF ∨ ¬(CtlInsn.descs ci).all segLegal then stInvalid
      else
        let cur := s.incOf e
        let h := s.holderOf l e
        let mates : Bool := match h with | some k => s.trunkOfLane l = s.trunkOfLane k && (s.trunkOfLane l).isSome | none => false
        let tc2 := tget p.pol 2 {}
        if i = cur ∧ ((j.inc ≠ cur ∨ j.eid ≠ e) ∨ h.isSome) then stInvalid
        else if h.isSome ∧ ¬mates then stInvalid
        else if j.role = 0 ∧ tc2.prate ≠ 0 ∧ tc2.pburst.toNat < 274 then stInvalid else stOk

def admitDo (ci : CtlInsn) (s : State) : State :=
  let l := ci.f 0 9
  match (s.port l).jreq with
  | none => s
  | some j =>
    if ci.f 45 1 = 0 then
      let s := s.sendJoin l 2 j.eid j.inc 3 j.nonce
      s.toHello l
    else
      let job : JobId := BitVec.ofNat 16 (ci.f 29 16)
      let dead : Bool := match s.partOfJob job with | some p => (s.part p).killed | none => false
      let s := s.updPort l (fun p => { p with job := job, killed := dead, segs := segsOf (CtlInsn.descs ci) })
      s.grantJoin l (BitVec.ofNat 12 (ci.f 9 12)) (BitVec.ofNat 8 (ci.f 21 8)) job

/-- LINKCTL ADMIT. -/
def execLinkctlAdmit (via : Via) (ci : CtlInsn) (s : State) : Res := s.runCtl via ci 0x87 3 (looks (admitCheck ci)) (plain (admitDo ci))

/-- Sets a trunk entry; a waiting switch JREQ that now matches it is admitted at once (R77). An entry of EID 0xFFF or INC 0x00 admits none,
as a grant may carry neither (R24, R78). Log 101. -/
def trunkentDo (l : Nat) (e : Eid) (i : Inc) (s : State) : State :=
  let s := s.updPort l (fun p => { p with teid := e, tinc := i })
  match (s.port l).jreq with
  | some j =>
    if (s.port l).state = .joining ∧ j.role = 1 ∧ ¬j.decided ∧ j.eid = e ∧ j.inc = i ∧ e ≠ 0xFFF ∧ i ≠ 0 then s.grantJoin l e i 0 else s
  | none => s

/-- LINKCTL TRUNKENT. -/
def execLinkctlTrunkent (via : Via) (ci : CtlInsn) (s : State) : Res :=
  s.runCtl via ci 0x87 4 (looks (fun s => formed (ci.form 29 0 (· = 0) && s.lowest (ci.f 0 9)) stOk))
    (plain (trunkentDo (ci.f 0 9) (BitVec.ofNat 12 (ci.f 9 12)) (BitVec.ofNat 8 (ci.f 21 8))))

/-- A death declaration (R82, R204, R205, R506): the EID loses its current incarnation, and every enabled port admitted to it becomes FENCED.
Logs 55, 120. -/
def State.declareDead (s : State) (e : Eid) (i : Inc) : State :=
  let s := s.setInc e 0
  let ls := (s.ports.filter (fun x => x.2.enabled && x.2.role ≠ 0 && x.2.peerEid = e && x.2.state ≠ .fenced)).map (·.1)
  let s := ls.foldl (fun s l => ((s.flush l).updPort l (fun p => { p with jreq := none, grant := none })).toState l .fenced) s
  let s := s.settleAll
  ((s.blks.filter (fun b => (s.partOfBlk b.1).isSome)).map (·.1)).foldl (fun s g => s.updBlk g (fun b => { b with walks := b.walks ++ [.death e i] })) s

/-- LINKCTL DEAD. -/
def execLinkctlDead (via : Via) (ci : CtlInsn) (s : State) : Res :=
  s.runCtl via ci 0x87 5 (looks (fun _ => formed (ci.form 20 0 (· = 0) && ci.f 0 12 ≠ 0xFFF) stOk))
    (plain (fun s => s.declareDead (BitVec.ofNat 12 (ci.f 0 12)) (BitVec.ofNat 8 (ci.f 12 8))))

def remoteCheck (ci : CtlInsn) (s : State) : Status :=
  let e : Eid := BitVec.ofNat 12 (ci.f 0 12)
  if ¬ci.form 21 0 (· = 0) ∨ e = 0xFFF ∨ e = s.selfEid ∨ s.ports.any (fun x => x.2.role ≠ 0 && x.2.peerEid = e)
    ∨ (ci.f 20 1 = 1 ∧ ci.f 12 8 = 0) then stInvalid else stOk

/-- LINKCTL REMOTE (R506). -/
def execLinkctlRemote (via : Via) (ci : CtlInsn) (s : State) : Res :=
  s.runCtl via ci 0x87 17 (looks (remoteCheck ci))
    (plain (fun s => (s.setInc (BitVec.ofNat 12 (ci.f 0 12)) (if ci.f 20 1 = 1 then BitVec.ofNat 8 (ci.f 12 8) else 0)).settleAll))

/-! ### TICKSRC (R39, R42, R43) -/

def ticksrcCheck (ci : CtlInsn) (s : State) : Status :=
  let load := ci.f 2 1 = 1
  if ¬ci.form 3 0 (fun n => n = 1 || (n = 0 && !load)) ∨ ci.f 0 2 = 0 ∨ sbits (ci.arg 1) 64 64 ≠ 0 then stInvalid
  else if load ∧ s.parts.any (fun e => e.2.state ≠ .none) then stBusy else stOk

def ticksrcDo (src : Nat) (load : Bool) (tick : BitVec 64) (s : State) : State :=
  let t := s.tb
  let s := { s with tb := { t with src := BitVec.ofNat 2 src, tick := if load then tick else t.tick, mismatch := t.mismatch && !load,
                                   loaded := t.loaded || load, seen := if load then [] else t.seen, upLane := 0, lastEdge := (if load then tick.toNat else s.now) } }
  if s.tb.mismatch then s.tbEnter .unaligned 0
  else if src = 3 then s.tbEnter .source 0
  else if load ∨ t.state = .source then s.tbEnter .unaligned 0
  else s.newSource

/-- LINKCTL TICKSRC. -/
def execLinkctlTicksrc (via : Via) (ci : CtlInsn) (s : State) : Res :=
  s.runCtl via ci 0x87 6 (looks (ticksrcCheck ci)) (plain (ticksrcDo (ci.f 0 2) (ci.f 2 1 = 1) (BitVec.ofNat 64 (sbits (ci.arg 1) 0 64))))

/-! ### The output buffer (R96, R101, R109 to R114, R122, R508) -/

def qcfgDo (q n : Nat) (min alpha : Nat) (s : State) : State :=
  s.updQueue q n (fun x => { x with min := BitVec.ofNat 18 min, alpha := BitVec.ofNat 3 alpha, pkts := recountMin min x.pkts }) |>.notePool q

def qcfgCheck (ci : CtlInsn) (s : State) : Status :=
  let q := ci.f 0 2
  let n := ci.f 2 11
  if ¬ci.form 34 0 (· = 0) ∨ ¬s.nUsed q n ∨ ci.f 13 18 < minFloor n then stInvalid
  else if ¬(qcfgDo q n (ci.f 13 18) (ci.f 31 3) s).poolOk q then stInvalid else stOk

/-- LINKCTL QCFG. -/
def execLinkctlQcfg (via : Via) (ci : CtlInsn) (s : State) : Res :=
  s.runCtl via ci 0x87 7 (looks (qcfgCheck ci)) (plain (qcfgDo (ci.f 0 2) (ci.f 2 11) (ci.f 13 18) (ci.f 31 3)))

def bufcfgDo (q m : Nat) (s : State) : State := s.updQtr q (fun x => { x with mcres := BitVec.ofNat 18 m, mcs := recountRes m x.mcs }) |>.notePool q

def bufcfgCheck (ci : CtlInsn) (s : State) : Status :=
  if ¬ci.form 20 0 (· = 0) ∨ ci.f 2 18 < 36 ∨ ¬(bufcfgDo (ci.f 0 2) (ci.f 2 18) s).poolOk (ci.f 0 2) then stInvalid else stOk

/-- LINKCTL BUFCFG. -/
def execLinkctlBufcfg (via : Via) (ci : CtlInsn) (s : State) : Res :=
  s.runCtl via ci 0x87 8 (looks (bufcfgCheck ci)) (plain (bufcfgDo (ci.f 0 2) (ci.f 2 18)))

/-- DESIGN CHOICE (log 133): a class whose order changes restarts E, its PSEQ counters and its gap timer from 0. -/
def orderDo (spray rsto : Nat) (s : State) : State :=
  let flips := fun k => s.spray.getLsbD k ≠ (BitVec.ofNat 7 spray).getLsbD k
  { s with spray := BitVec.ofNat 7 spray, rsto := BitVec.ofNat 8 rsto,
           trunks := s.trunks.map (fun t => (t.1, { t.2 with
             exp := t.2.exp.filter (fun e => !flips e.1), gap := t.2.gap.filter (fun e => !flips e.1), pseq := t.2.pseq.filter (fun e => !flips e.1) })) }

def orderCheck (ci : CtlInsn) (s : State) : Status :=
  if ¬ci.form 15 0 (· = 0) ∨ ci.f 0 2 ≠ 0 ∨ ci.f 7 8 = 0 ∨ ¬(orderDo (ci.f 0 7) (ci.f 7 8) s).spraysOk then stInvalid else stOk

/-- LINKCTL ORDER. -/
def execLinkctlOrder (via : Via) (ci : CtlInsn) (s : State) : Res :=
  s.runCtl via ci 0x87 9 (looks (orderCheck ci)) (plain (orderDo (ci.f 0 7) (ci.f 7 8)))

/-- DESIGN CHOICE (log 133): naming a trunk's list restarts E, its PSEQ counters and its gap timers from 0, also where the list stays. -/
def trunkDo (t : Nat) (ls : List Nat) (s : State) : State :=
  let same := (s.trunk t).members = ls
  let s := s.setTrunk t (if ls = [] then {} else { members := ls, peer := (s.port (nth ls 0)).peerEid })
  let s := s.updTrunk t (fun x => { x with active := s.trunkActive t })
  if same then s else s.raise { code := 0x10, unit := uTrunk t, d0 := (s.trunk t).active.setWidth 64 }

def trunkCheck (ci : CtlInsn) (s : State) : Status :=
  let ls := lanesOf ci.args
  let p := fun l => s.port l
  if ¬ci.form 5 0 (fun _ => true) ∨ 16 < ls.length ∨ ls.eraseDups ≠ ls ∨ ¬ls.all (· < 512) then stInvalid
  else if ¬ls.all (fun l => (p l).enabled && (p l).role = 2 && qOfLane l = qOfLane (nth ls 0) && (p l).peerEid = (p (nth ls 0)).peerEid
      && ((s.trunkOfLane l).isNone || s.trunkOfLane l = some (ci.f 0 5))) then stInvalid
  else if ¬(trunkDo (ci.f 0 5) ls s).spraysOk then stInvalid else stOk

/-- LINKCTL TRUNK; an empty list dissolves the trunk. -/
def execLinkctlTrunk (via : Via) (ci : CtlInsn) (s : State) : Res :=
  s.runCtl via ci 0x87 10 (looks (trunkCheck ci)) (plain (trunkDo (ci.f 0 5) (lanesOf ci.args)))

/-! ### Shapers, policers, load, egress (R115, R124, R130, R131, R134, R141, R143) -/

def shaperCheck (ci : CtlInsn) (s : State) : Status :=
  if ¬ci.form 45 0 (· = 0) ∨ ¬s.nShaped (ci.f 0 2) (ci.f 2 11) ∨ (ci.f 13 16 = 0 ∧ ci.f 29 16 ≠ 0) then stInvalid else stOk

/-- LINKCTL SHAPER: in force from the next step 6 (R130). -/
def execLinkctlShaper (via : Via) (ci : CtlInsn) (s : State) : Res :=
  s.runCtl via ci 0x87 11 (looks (shaperCheck ci))
    (plain (fun s => s.updQueue (ci.f 0 2) (ci.f 2 11) (fun x => { x with newShape := some (BitVec.ofNat 16 (ci.f 13 16), BitVec.ofNat 16 (ci.f 29 16)) })))

/-- The least PBURST of a policer (R141). -/
def burstFloor (p : Port) (k : Nat) : Nat := if k = 0 then 68 else if k = 2 ∧ ¬(p.state = .active ∧ p.role = 2) then 274 else 260

def policerCheck (ci : CtlInsn) (s : State) : Status :=
  let k := ci.f 9 3
  let r := ci.f 12 16
  let b := ci.f 28 16
  if ¬ci.form 44 0 (· = 0) ∨ ¬s.lowest (ci.f 0 9) ∨ ¬(k = 0 ∨ k = 2 ∨ k = 5 ∨ k = 6) then stInvalid
  else if r = 0 then (if b = 0 then stOk else stInvalid)
  else if b < burstFloor (s.port (ci.f 0 9)) k then stInvalid else stOk

/-- LINKCTL POLICER: the bucket is clipped to the new PBURST (R134). -/
def execLinkctlPolicer (via : Via) (ci : CtlInsn) (s : State) : Res :=
  s.runCtl via ci 0x87 12 (looks (policerCheck ci))
    (plain (fun s => s.updPort (ci.f 0 9) (fun p =>
      let x := tget p.pol (ci.f 9 3) {}
      { p with pol := tset p.pol (ci.f 9 3) { x with prate := BitVec.ofNat 16 (ci.f 12 16), pburst := BitVec.ofNat 16 (ci.f 28 16),
                                                     bucket := min x.bucket (ci.f 28 16) } {} })))

/-- LINKCTL LOADCFG. -/
def execLinkctlLoadcfg (via : Via) (ci : CtlInsn) (s : State) : Res :=
  s.runCtl via ci 0x87 13 (looks (fun _ => formed (ci.form 28 0 (· = 0) && ci.f 2 10 ≠ 0 && ci.f 12 16 ≠ 0) stOk))
    (plain (fun s => s.updQtr (ci.f 0 2) (fun x => { x with lstep := BitVec.ofNat 10 (ci.f 2 10), dstep := BitVec.ofNat 16 (ci.f 12 16) })))

/-- LINKCTL EGRESS. -/
def execLinkctlEgress (via : Via) (ci : CtlInsn) (s : State) : Res :=
  s.runCtl via ci 0x87 14 (looks (fun s => formed (ci.form 29 0 (· = 0) && s.lowest (ci.f 0 9) && (List.range 5).all (fun i => ci.f (9 + 4 * i) 4 ≠ 0)) stOk))
    (plain (fun s => s.updPort (ci.f 0 9) (fun p => { p with egw := BitVec.ofNat 20 (ci.f 9 20) })))

/-- LINKCTL MANAGER (R374). -/
def execLinkctlManager (via : Via) (ci : CtlInsn) (s : State) : Res :=
  s.runCtl via ci 0x87 15 (looks (fun _ => formed (ci.form 13 0 (· = 0) && ci.f 0 12 ≠ 0xFFF) stOk))
    (plain (fun s => { s with mgrs := setPut s.mgrs (ci.f 0 12) (ci.f 12 1 = 1) }))

/-! ### TRAYCFG (R243, R245) -/

/-- Disabling a tray port that a partition holds is refused (the spec states no status; log 41). -/
def traycfgCheck (ci : CtlInsn) (s : State) : Status :=
  let y := s.tray (ci.f 0 4)
  if ¬ci.form 6 0 (· = 0) then stInvalid
  else if ci.f 4 1 = 0 ∧ (y.state = .assigned ∨ y.state = .evac) then stInvalid else stOk

def traycfgDo (t : Nat) (on sel : Bool) (s : State) : State :=
  let s := s.updTray t (fun y => { y with
    state := if on then (if y.state = .disabled then (if y.prsnt then .train else .down) else y.state) else .disabled
    frames := if on then y.frames else 0, retrainAt := if on then y.retrainAt else none })
  (List.range 16).foldl (fun s i => s.updTray i (fun y => { y with sel := if i = t then sel else y.sel && !sel })) s

/-- LINKCTL TRAYCFG; one tray port at a time is selected for service (R245). Log 41. -/
def execLinkctlTraycfg (via : Via) (ci : CtlInsn) (s : State) : Res :=
  s.runCtl via ci 0x87 16 (looks (traycfgCheck ci)) (plain (traycfgDo (ci.f 0 4) (ci.f 4 1 = 1) (ci.f 5 1 = 1)))

end Sys2Proof.Machine
end

