-- ==== Sys2Proof/Machine/RowsModule.lean ====
section
/-! DEFINITION. Meanings of the commands of trays, the button, the latch and tamper sensors, power, temperature, resets, start-up and clocks
(08 R242 to R247; 14 R420; 15 R432 to R461; 17 R476 to R493). -/

namespace Sys2Proof.Machine

/-! ### Trays (R243 to R247, R488) -/

/-- A tray is present: its port trains unless it is disabled. Log 27. -/
def execTrayCableIn (t : TrayId) (s : State) : Res :=
  let k := t.toNat
  if (s.tray k).prsnt ∨ ¬s.ticking then .next s
  else
    let s := (s.updTray k (fun y => { y with prsnt := true })).raise { code := 0x04, unit := uTray k }
    if s.quartersOn ∧ (s.tray k).state ≠ .disabled then .next (s.updTray k (fun y => { y with state := .train, retrainAt := none })) else .next s

/-- A tray is removed: an ASSIGNED or EVAC port becomes LOST, any other but a disabled one DOWN (R246). Log 27. -/
def execTrayCableOut (t : TrayId) (s : State) : Res :=
  let k := t.toNat
  if ¬(s.tray k).prsnt ∨ ¬s.ticking then .next s
  else
    let s := (s.updTray k (fun y => { y with prsnt := false })).raise { code := 0x05, unit := uTray k }
    let st := (s.tray k).state
    if st = .assigned ∨ st = .evac then .next (s.loseTray k)
    else if st = .disabled then .next s
    else .next (s.updTray k (fun y => { y with state := .down, frames := 0, retrainAt := none }))

/-- A tray in TRAIN is enumerated and READY; the retraining of any other succeeds (R243; log 44). -/
def execTrayReady (t : TrayId) (frames : BitVec 16) (rate32 : Bool) (s : State) : Res :=
  let k := t.toNat
  let y := s.tray k
  if ¬s.quartersOn then .next s
  else if y.state = .train then .next (s.updTray k (fun y => { y with state := .ready, frames := frames, rate := rate32, retrainAt := none }))
  else if y.retrainAt.isSome then .next (s.updTray k (fun y => { y with retrainAt := none, rate := rate32 }))
  else .next s

/-- A tray port in TRAIN fails (R242, R243). -/
def execTrayTrainFail (t : TrayId) (s : State) : Res :=
  if (s.tray t.toNat).state = .train then .next (s.updTray t.toNat (fun y => { y with state := .down })) else .next s

/-- A tray link is lost with its cable present: it retrains (R246). -/
def execTrayLinkLoss (t : TrayId) (s : State) : Res :=
  let y := s.tray t.toNat
  if s.quartersOn ∧ y.prsnt ∧ (y.state = .ready ∨ y.state = .assigned ∨ y.state = .evac) ∧ y.retrainAt.isNone then
    .next (s.updTray t.toNat (fun y => { y with retrain := satAdd y.retrain 1, retrainAt := some s.now }))
  else .next s

/-- A tray fails to retrain: LOST while it is assigned, else DOWN (R243, R246). -/
def execTrayRetrainFail (t : TrayId) (s : State) : Res :=
  let y := s.tray t.toNat
  if y.retrainAt.isNone then .next s
  else if y.state = .assigned ∨ y.state = .evac then .next (s.loseTray t.toNat)
  else .next (s.updTray t.toNat (fun y => { y with state := .down, frames := 0, retrainAt := none }))

/-! ### The attention button (R245, R486) -/

/-- Whether presses act: STEP 6, in P0 to P2, not halted (R486). -/
def State.pressable (s : State) : Bool := s.alive && s.boot.step = 6 && s.pw.state.toNat ≤ 2 && !s.boot.halted

/-- A press begins; one within 500 ms of the last one's end is ignored. Log 119. -/
def execAttnPressBegin (ms : Nat) (s : State) : Res :=
  if s.mod.attn.isSome ∨ ¬s.alive then .next s
  else
    let soon : Bool := match s.mod.attnEnd with | some e => ms < e + 500 | none => false
    .next { s with mod := { s.mod with attn := some ms, longDone := false, ignored := soon || !s.pressable } }

/-- The selected tray port. -/
def State.selected (s : State) : Option Nat := (s.trays.find? (fun e => e.2.sel)).map (·.1)

/-- A short press acts on the selected tray: it starts or stops an evacuation, journalled with the button as source (R245). Log 119. -/
def State.shortPress (s : State) : State :=
  let s := { s with mod := { s.mod with presses := satAdd s.mod.presses 1 } }
  match s.selected with
  | none => s
  | some t =>
    let reg := offQt (t / 4) (0x6000 + 64 * (t % 4))
    let old := s.readReg reg
    let note := fun (s : State) => s.journalOne 3 (BitVec.ofNat 32 reg) old (s.readReg reg)
    match (s.tray t).state with
    | .assigned =>
      if s.evacLack t ≠ 0 then
        { s with mod := { s.mod with refusedAt := some s.now } }.raise { code := 0x2C, unit := uTray t, d0 := BitVec.ofNat 64 (s.evacLack t) }
      else note (s.evacuate t)
    | .evac => note (s.evacStop t)
    | _ => s

/-- A press ends: held for 50 ms to 3 s it is a short press. Log 119. -/
def execAttnPressEnd (ms : Nat) (s : State) : Res :=
  match s.mod.attn with
  | none => .next s
  | some b =>
    let dead := s.mod.ignored || !s.pressable
    let s := { s with mod := { s.mod with attn := none, attnEnd := some ms, ignored := false } }
    if ¬dead ∧ b + 50 ≤ ms ∧ ms ≤ b + 3000 then .next s.shortPress else .next s

/-- A press has been held for 5 s: LOCATE becomes 0 (R486). -/
def execAttnLongPress (ms : Nat) (s : State) : Res :=
  match s.mod.attn with
  | none => .next s
  | some b =>
    if s.mod.ignored ∨ s.mod.longDone ∨ ¬s.pressable ∨ ms < b + 5000 then .next s
    else
      let old := s.readSq 0xB000
      let s := { s with mod := { s.mod with longDone := true, locate := 0, longPr := satAdd s.mod.longPr 1 } }
      .next (s.journalOne 3 0xB000 old (s.readSq 0xB000))

/-! ### The latch and the tamper sensors (R420, R487) -/

/-- The latch opens: the cask is wiped and TAMPER raised; nothing else stops. -/
def execLatchOpen (s : State) : Res :=
  if s.mod.latch then .next s
  else
    let s := { s with mod := { s.mod with latch := true } }
    if s.caskOn then .next ((s.wipe 1 6).raise (tamper 1)) else .next s

/-- The latch closes; only LED_STAT3 changes. -/
def execLatchClose (s : State) : Res := .next { s with mod := { s.mod with latch := false } }

/-- The case sensor opens. -/
def execCaseOpen (s : State) : Res := if s.caskOn then .next ((s.wipe 2 6).raise (tamper 2)) else .next s

/-- A glitch wipes the cask and resets with cause GLITCH; TAMPER follows the reset. Log 28. -/
def State.glitchReset (s : State) (cause : Nat) : State :=
  let s := s.wipe cause 6
  { s with boot := { s.boot with glitch := true } }.warmStart 4 0

/-- The voltage glitch detector fires. Log 28. -/
def execVoltageGlitch (s : State) : Res := if s.alive then .next (s.glitchReset 3) else .next s
/-- The temperature glitch detector fires. Log 28. -/
def execTemperatureGlitch (s : State) : Res := if s.alive then .next (s.glitchReset 4) else .next s

/-! ### Power (R452 to R456) -/

/-- The transition under way completes. Log 25. -/
def execPowerTransitionDone (s : State) : Res := if s.alive then .next s.powerDone else .next s

/-- P1 after 1,000 ticks without a program or a collective (R453). Log 25. -/
def execP1IdleEntry (s : State) : Res :=
  match s.pw.idle with
  | none => .next s
  | some t =>
    if s.ticking ∧ s.boot.step = 6 ∧ s.pw.state = 0 ∧ s.pw.trans.isNone ∧ s.idleNow ∧ endOf t 1000 ≤ s.now then .next (s.enterPower 1) else .next s

/-! ### Temperature (R459, R491 to R493) -/

/-- A die reaches 95 °C: its QCORE moves to half rate. Log 35. -/
def execThermalWarning (die : Fin 5) (temp : BitVec 16) (s : State) : Res :=
  let i := die.val
  if ¬s.sensing ∨ temp.toInt < celsius 95 then .next s
  else
    let s := s.reading i temp
    if s.mod.warn.getLsbD i then .next s
    else
      let s := s.warnSet i true
      let s := if i = 0 then s else { s with pw := { s.pw with half := s.pw.half ||| BitVec.ofNat 5 (2 ^ i) } }.rampQcore (i - 1)
      .next (s.raise (thermalWarn (if i = 0 then uSquare else uQtr (i - 1)) temp))

/-- A die has stayed 5 °C below its warning temperature for 1,000 ticks. -/
def execThermalRecovery (die : Fin 5) (temp : BitVec 16) (s : State) : Res :=
  let i := die.val
  if ¬s.sensing ∨ ¬s.mod.warn.getLsbD i ∨ celsius 90 < temp.toInt then .next s
  else
    let s := (s.reading i temp).warnSet i false
    if i = 0 then .next s
    else .next ({ s with pw := { s.pw with half := s.pw.half &&& ~~~(BitVec.ofNat 5 (2 ^ i)) } }.rampQcore (i - 1))

/-- Shutdown temperature of a sensor (R491). -/
def shutdownAt (i : Nat) : Option Int :=
  if i ≤ 4 then some (celsius 110) else if i ≤ 36 then some (celsius 100) else if 39 ≤ i then some (celsius 125) else none

/-- A shutdown temperature: P4 at once, THERMAL recorded by the input monitor (R459, R483). -/
def execThermalShutdown (sensor : Fin 43) (temp : BitVec 16) (s : State) : Res :=
  match shutdownAt sensor.val with
  | some x => if s.alive ∧ x ≤ temp.toInt then .next (s.toP4 true) else .next s
  | none => .next s

/-- A stack at 88 °C throttles (R492). -/
def execStackThrottle (stack : BitVec 5) (temp : BitVec 16) (s : State) : Res :=
  let i := stack.toNat
  if ¬s.sensing ∨ temp.toInt < celsius 88 then .next s
  else
    let s := s.reading (5 + i) temp
    if s.mod.throttled.getLsbD i then .next s
    else
      let q := stackQtr i
      let k := if i < 8 then i % 2 else 2 + (i - 8) % 6
      let s := (s.throttle i true).updQtr q (fun x => { x with stackHealth := tset x.stackHealth k ((tget x.stackHealth k {}).add 512) {} })
      .next (s.raise (thermalWarn (uQtr q) temp))

/-- A stack leaves throttling (R492). -/
def execThrottleExit (stack : BitVec 5) (temp : BitVec 16) (s : State) : Res :=
  let i := stack.toNat
  if ¬s.sensing ∨ ¬s.mod.throttled.getLsbD i ∨ celsius 83 < temp.toInt then .next s
  else .next ((s.reading (5 + i) temp).throttle i false)

/-- Whether a reading of a regulator group or of the inlet is a warning (R493). -/
def sensorWarm (i : Nat) (t : Int) : Bool := if i = 37 then celsius 45 < t else 39 ≤ i && celsius 110 ≤ t

/-- A regulator group or the inlet warns (R493). Log 35. -/
def execSensorWarning (sensor : Fin 43) (temp : BitVec 16) (s : State) : Res :=
  let i := sensor.val
  if ¬s.sensing ∨ ¬sensorWarm i temp.toInt then .next s
  else
    let s := s.reading i temp
    if s.mod.warn.getLsbD i then .next s else .next ((s.warnSet i true).raise (thermalWarn uSquare temp))

/-- The warning of a regulator group or of the inlet ends (R493). -/
def execSensorWarningClear (sensor : Fin 43) (temp : BitVec 16) (s : State) : Res :=
  let i := sensor.val
  if ¬s.sensing ∨ i < 37 ∨ ¬s.mod.warn.getLsbD i ∨ sensorWarm i temp.toInt then .next s
  else .next ((s.reading i temp).warnSet i false)

/-! ### Power and reset inputs (R432, R482, R483) -/

/-- PWR_GOOD rises: cold without the Square's power or from P4, else warm; with MOD_RESET_N low the start-up waits for its release. -/
def execPwrGoodAssert (s : State) : Res :=
  if s.mod.pwrGood then .next s
  else
    let s := { s with mod := { s.mod with pwrGood := true } }
    if s.boot.held then .next s
    else if s.boot.dead ∨ s.pw.state = 4 then .next s.coldStart
    else .next (s.warmStart 2 0)

/-- PWR_GOOD falls: every rail but the Square's is turned off (R482). -/
def execPwrGoodDeassert (s : State) : Res :=
  if ¬s.mod.pwrGood then .next s
  else
    let t := if s.boot.dead ∨ s.pw.state = 4 then s else s.blank true
    .next { t with mod := { t.mod with pwrGood := false } }

/-- 12 V falls below 9.0 V: the Square loses its power and the THERMAL record is lost (R482, R483). -/
def execSquarePowerLoss (s : State) : Res :=
  let t := s.blank false
  .next { t with mod := { t.mod with pwrGood := false }, boot := { t.boot with dead := true, thermRec := false } }

/-- MOD_RESET_N low for 10 µs: the device resets and stays in reset (R483). In P4 and without power only the input is seen. -/
def execModResetAssert (s : State) : Res :=
  if s.boot.held then .next s
  else
    let t := if s.boot.dead ∨ s.pw.state = 4 then s else s.blank true
    .next { t with boot := { t.boot with held := true } }

/-- MOD_RESET_N is released: warm with cause MODRST, cold from P4 or without the Square's power before (R432, R483). -/
def execModResetRelease (s : State) : Res :=
  if ¬s.boot.held then .next s
  else if ¬s.mod.pwrGood then .next { s with boot := { s.boot with held := false } }
  else if s.boot.dead ∨ s.pw.state = 4 then .next s.coldStart
  else .next (s.warmStart 1 0)

/-- The watchdog expires (R460). -/
def execWatchdog (s : State) : Res := if s.alive then .next (s.warmStart 6 0) else .next s

/-! ### Start-up (R433 to R439) -/

/-- A start-up step completes. A result that its step cannot have, or that comes before its units are done, changes nothing. -/
def execStartupStepDone (r : StepResult) (ms : BitVec 32) (s : State) : Res :=
  if ¬s.alive then .next s
  else
    let t := { s with boot := { s.boot with elapsed := ms } }
    match s.boot.step.toNat, r with
    | 1, .ok _ _ => if s.pw.xo then .next (t.step1Done false) else .next s
    | 1, .imageA => if s.pw.xo then .next (t.step1Done true) else .next s
    | 1, .noImage => if s.pw.xo then .next (t.recovery 3) else .next s
    | 1, .fuse => if s.pw.xo then .next (t.recovery 4) else .next s
    | 2, .ok _ _ => .next { t with boot := { t.boot with step := 3 }, pw := { t.pw with run := runAll, ramps := [] } }
    | 2, .pll => .next (t.recovery 5)
    | 2, .d2d => .next (t.recovery 6)
    | 3, .ok _ _ => if s.boot.stacksUp = BitVec.allOnes 32 then .next { t with boot := { t.boot with step := 4 } } else .next s
    | 4, .ok n _ => .next { t with boot := { t.boot with step := 5, lnkFull := n } }
    | 5, .ok _ bad => .next ((t.holdOut bad 8).startupEnd)
    | _, _ => .next s

/-- A memory stack has trained (R433, R438). Log 102. -/
def execStackTrainingDone (stack : BitVec 5) (full : Bool) (failed : BitVec 32) (s : State) : Res :=
  if ¬s.alive ∨ s.boot.step ≠ 3 ∨ s.boot.stacksUp.getLsbD stack.toNat then .next s else .next (s.stackTrained stack.toNat full failed)

/-- The crystal is stable (R448). -/
def execCrystalStable (s : State) : Res := if s.alive ∧ s.boot.step = 1 then .next { s with pw := { s.pw with xo := true } } else .next s

/-- The crystal is not stable within 20 ms: FAULT XOFAIL, the ROM tries again (R436). -/
def execCrystalRetry (s : State) : Res :=
  if s.alive ∧ s.boot.step = 1 ∧ ¬s.pw.xo then .next { s with boot := s.boot.withFault 1 0 } else .next s

/-- Whether a clock source is monitored (R449): the crystal once stable, the references, and locked PLLs, in P3 those of the Square alone. -/
def State.monitored (s : State) (src : Nat) : Bool :=
  if src = 1 then s.pw.xo
  else if src = 2 ∨ src = 3 then 2 ≤ s.boot.step.toNat
  else 0x11 ≤ src && src ≤ 0x1F && 3 ≤ s.boot.step.toNat && s.boot.step ≠ 7 && (s.pw.state ≠ 3 || src ≤ 0x13)

/-- A monitored clock source is lost: a warm reset with cause CLKLOSS (R449). -/
def execClockSourceLoss (src : BitVec 8) (s : State) : Res :=
  if s.alive ∧ s.monitored src.toNat then .next (s.warmStart 3 src) else .next s

/-- A divider ramp ends (R450): full rate, or the half rate of R459. -/
def execDividerRampDone (domain : BitVec 5) (s : State) : Res :=
  let d := domain.toNat
  if ¬s.alive ∨ ¬s.pw.ramps.contains d then .next s
  else
    let full : Bool := !(4 ≤ d && d ≤ 7 && s.pw.half.getLsbD (d - 3))
    .next { s with pw := { s.pw with
      ramps := setDel s.pw.ramps d
      run := if full then s.pw.run ||| BitVec.ofNat 18 (2 ^ (d - 1)) else s.pw.run } }

end Sys2Proof.Machine
end

