-- ==== Sys2Proof/Machine/RowsProg.lean ====
section
/-! DEFINITION. Rows of stage instructions: the next instruction of a context issues when it may and is the row's (12 R344 to R368). Engine
instructions then run by SLICE_START. -/

namespace Sys2Proof.Machine

/-- Issues an engine instruction that a check plans. Log 73. -/
def State.issue (s : State) (c : CtxId) (row : Insn → Bool) (plan : State → Nat → Insn → Op → Except Status Plan) : Res :=
  .next (s.stage c.toNat row (fun s i o => s.enter c.toNat i o (plan s c.toNat i o)))

/-- LD copies a pool region into a bank region (R362). -/
def execLd (c : CtxId) (s : State) : Res := s.issue c (fun i => i.opc = 0x01) State.planLd
/-- ST copies a bank region into a pool region (R362). -/
def execSt (c : CtxId) (s : State) : Res := s.issue c (fun i => i.opc = 0x02 ∧ i.mod % 2 = 0) State.planSt
/-- ST with LOSTCLR clears lost lines (R363). -/
def execStLostclr (c : CtxId) (s : State) : Res := s.issue c (fun i => i.opc = 0x02 ∧ i.mod % 2 = 1) State.planLostClr
/-- MOVE copies a region (R362). -/
def execMove (c : CtxId) (s : State) : Res := s.issue c (fun i => i.opc = 0x03) State.planMove
/-- FILL writes a pattern (R362). -/
def execFill (c : CtxId) (s : State) : Res := s.issue c (fun i => i.opc = 0x04) State.planFill
/-- PREFETCH reads listed lines into a bank region (R360, R362). -/
def execPrefetch (c : CtxId) (s : State) : Res := s.issue c (fun i => i.opc = 0x05) State.planPrefetch
/-- AADD (R364). -/
def execAadd (c : CtxId) (s : State) : Res := s.issue c (fun i => i.opc = 0x08) State.planAtomic
/-- AMIN (R364). -/
def execAmin (c : CtxId) (s : State) : Res := s.issue c (fun i => i.opc = 0x09) State.planAtomic
/-- AMAX (R364). -/
def execAmax (c : CtxId) (s : State) : Res := s.issue c (fun i => i.opc = 0x0A) State.planAtomic
/-- ACAS (R364). -/
def execAcas (c : CtxId) (s : State) : Res := s.issue c (fun i => i.opc = 0x0B) State.planAtomic
/-- RJOIN admits a collective (R260, R366). -/
def execRjoin (c : CtxId) (s : State) : Res := s.issue c (fun i => i.opc = 0x10) State.planRjoin
/-- RCONTRIB contributes a tensor (R261, R366). -/
def execRcontrib (c : CtxId) (s : State) : Res :=
  .next (s.stage c.toNat (fun i => i.opc = 0x11) (fun s i o => (s.enter c.toNat i o (s.planRcontrib c.toNat i o)).waitOpen c.toNat))
/-- RWAIT waits for a collective (R268, R366). -/
def execRwait (c : CtxId) (s : State) : Res := s.issue c (fun i => i.opc = 0x12) State.planRwait
/-- GATHER reads rows by index (R283, R368). -/
def execGather (c : CtxId) (s : State) : Res := s.issue c (fun i => i.opc = 0x13) State.planGather
/-- SCATTER writes rows by index (R291, R368). -/
def execScatter (c : CtxId) (s : State) : Res := s.issue c (fun i => i.opc = 0x14) State.planScatter
/-- MCAST delivers a region to a group (R290, R368). -/
def execMcast (c : CtxId) (s : State) : Res := s.issue c (fun i => i.opc = 0x15) State.planMcast
/-- FSCAN filters records (R294, R367). -/
def execFscan (c : CtxId) (s : State) : Res := s.issue c (fun i => i.opc = 0x18) State.planFscan
/-- TALLY CLEAR (R311, R367). -/
def execTallyClear (c : CtxId) (s : State) : Res := s.issue c (fun i => i.opc = 0x19 ∧ i.mod % 8 = 0) State.planClear
/-- TALLY ACCUM (R311, R367). -/
def execTallyAccum (c : CtxId) (s : State) : Res := s.issue c (fun i => i.opc = 0x19 ∧ i.mod % 8 = 1) State.planAccum
/-- TALLY MERGE (R312, R367). -/
def execTallyMerge (c : CtxId) (s : State) : Res := s.issue c (fun i => i.opc = 0x19 ∧ i.mod % 8 = 2) State.planMerge
/-- TALLY IMAGE (R311, R367). -/
def execTallyImage (c : CtxId) (s : State) : Res := s.issue c (fun i => i.opc = 0x19 ∧ i.mod % 8 = 3) State.planEmit
/-- TALLY FINAL (R313, R367). -/
def execTallyFinal (c : CtxId) (s : State) : Res := s.issue c (fun i => i.opc = 0x19 ∧ i.mod % 8 = 4) State.planEmit
/-- SCORE runs a model over rows (R339). -/
def execScore (c : CtxId) (s : State) : Res := s.issue c (fun i => i.opc = 0x1C) State.planScore
/-- SIMB compares B1 rows (R340). -/
def execSimb (c : CtxId) (s : State) : Res := s.issue c (fun i => i.opc = 0x1D) State.planSimb
/-- PUBLISH asks for a new version (R237, R368). -/
def execPublish (c : CtxId) (s : State) : Res := s.issue c (fun i => i.opc = 0x20) State.planPublish
/-- HINT sets the hint of pages (R227, R368). -/
def execHint (c : CtxId) (s : State) : Res := s.issue c (fun i => i.opc = 0x21) State.planPages
/-- PIN pins or unpins pages (R227, R368). -/
def execPin (c : CtxId) (s : State) : Res := s.issue c (fun i => i.opc = 0x22) State.planPages

/-! ### The sequencer's own instructions (R356 to R359) -/

/-- LOOP opens a loop (R357). -/
def execLoop (c : CtxId) (s : State) : Res := .next (s.stage c.toNat (fun i => i.opc = 0x28) (State.seqLoop c.toNat))
/-- ENDLOOP ends an iteration (R357). -/
def execEndloop (c : CtxId) (s : State) : Res := .next (s.stage c.toNat (fun i => i.opc = 0x29) (State.seqEndloop c.toNat))
/-- SKIP passes over instructions (R358). -/
def execSkip (c : CtxId) (s : State) : Res := .next (s.stage c.toNat (fun i => i.opc = 0x2A) (State.seqSkip c.toNat))
/-- WAITT holds issue until a tick (R359). -/
def execWaitt (c : CtxId) (s : State) : Res := .next (s.stage c.toNat (fun i => i.opc = 0x2B) (State.seqWaitt c.toNat))
/-- FENCE holds issue until all before it has completed (R356). -/
def execFence (c : CtxId) (s : State) : Res := .next (s.stage c.toNat (fun i => i.opc = 0x2C) (State.seqFence c.toNat))
/-- YIELD holds issue until the next tick (R359). -/
def execYield (c : CtxId) (s : State) : Res := .next (s.stage c.toNat (fun i => i.opc = 0x2D) (State.seqYield c.toNat))
/-- END ends the program (R359). -/
def execEndProg (c : CtxId) (s : State) : Res := .next (s.stage c.toNat (fun i => i.opc = 0x2E) (State.seqEnd c.toNat))
/-- The boundary that a WAITT or YIELD names arrives (R359). Log 88. -/
def execWaittExpiry (c : CtxId) (s : State) : Res := .next (s.endHold c.toNat)
/-- A reserved opcode, or a reserved form of TALLY: it issues and completes with INVALID_INSTRUCTION (R345, R346). Log 73. -/
def execReservedOpcode (c : CtxId) (s : State) : Res :=
  .next (s.stage c.toNat (fun i => i.form.isNone) (fun s i o => s.endInsn c.toNat o.idx i.predW stInvalid false))

end Sys2Proof.Machine
end

