-- ==== Sys2Proof/Machine/Work.lean ====
section
/-! DEFINITION. Slices: what a unit of work reads, stores and costs, and the driver that fills a slice with units (02 R46 to R51; 06 R165, R166;
12 R360, R362; 13 R381 to R383; 16 R465). -/

namespace Sys2Proof.Machine

/-! ### Data with its poison -/

/-- Bytes read, their poison, and the status of a read that failed. -/
structure Data where
  bytes : List Byte
  pois  : List Bool
  st    : Status := stOk
deriving DecidableEq, Repr

def Data.clean (v : List Byte) : Data := { bytes := v, pois := List.replicate v.length false }
/-- Whether any byte is poisoned. -/
def Data.bad (d : Data) : Bool := d.pois.any id
/-- Why the data cannot be used as an operand: its failed read, or POISON. -/
def Data.why (d : Data) : Status := if d.st ≠ stOk then d.st else if d.bad then stPoison else stOk
def Data.cut (d : Data) (o n : Nat) : Data := { d with bytes := bytesAt d.bytes o n, pois := (d.pois.drop o).take n }

/-! ### Reads into a unit (R284, R394) -/

/-- The fewest reads of whole 16 B words that cover `n` bytes at a pool address and cross no 4 KiB boundary. Log 66. -/
def rdPieces (a n : Nat) : List (Nat × Nat) :=
  if n = 0 then []
  else
    let lo := a / 16 * 16
    let hi := cdiv (a + n) 16 * 16
    (List.range ((hi - 1) / 4096 - lo / 4096 + 1)).map (fun i =>
      let b := max lo (4096 * (lo / 4096 + i))
      (b, min hi (4096 * (lo / 4096 + i + 1)) - b))

/-- The key of a read. -/
def rdKey (r : Nat × Nat) : Nat := r.1 * 8192 + r.2

/-- Whether a read has been answered, with data or with a failure. -/
def Op.has (o : Op) (r : Nat × Nat) : Bool := (tfind o.buf (rdKey r)).isSome || tget o.bst (rdKey r) stOk ≠ stOk

/-- What the reads of a pool range gave. A buffer holds the data and its POISONMASK in 4 bytes. -/
def Op.got (o : Op) (a n : Nat) : Data :=
  let ps := rdPieces a n
  let st := ps.findSome? (fun p => let st := tget o.bst (rdKey p) stOk; if st = stOk ∨ st = stPoison then none else some st)
  let v := ps.flatMap (fun p => bytesAt (tget o.buf (rdKey p) []) 0 p.2)
  let w := ps.flatMap (fun p =>
    let m := natAt (tget o.buf (rdKey p) []) p.2 4
    (List.range p.2).map (fun j => decide (bits m ((p.1 + j) / 128 - p.1 / 128) 1 = 1)))
  { bytes := bytesAt v (a % 16) n, pois := (w.drop (a % 16)).take n, st := st.getD stOk }

/-- Data of a bank range. -/
def State.bankData (s : State) (c a n : Nat) : Data :=
  let b := s.blk (c / 16)
  { bytes := b.peeks a n, pois := (List.range n).map (fun j => b.bpois.contains ((a + j) / 16)) }

/-- Data of a range in banks, or read from the pool. -/
def State.data (s : State) (c : Nat) (o : Op) (bank : Bool) (a n : Nat) : Data := if bank then s.bankData c a n else o.got a n
/-- The reads that a range needs. -/
def needOf (bank : Bool) (a n : Nat) : List (Nat × Nat) := if bank then [] else rdPieces a n

def State.updOp (s : State) (c e : Nat) (f : Op → Op) : State :=
  match (s.ctx c).op e with
  | some o => s.setOp c e (some (f o))
  | none => s

/-- Asks for reads that are neither answered nor outstanding. An address past 2^48 has no translation. -/
def State.askReads (s : State) (c e : Nat) : List (Nat × Nat) → State × Sent
  | [] => (s, .ok 0)
  | p :: r =>
    match (s.ctx c).op e with
    | none => (s, .ok 0)
    | some o =>
      let k := rdKey p
      let fail := fun (s : State) st => s.updOp c e (fun o => { o with bst := tset o.bst k st stOk })
      if o.has p ∨ (s.ctx c).reqs.any (fun q => q.seq = o.seq && !q.aband && q.dest = .buf k p.2) then s.askReads c e r
      else if 2 ^ 48 < p.1 + p.2 then (fail s stNoTrans).askReads c e r
      else match s.request c e o.idx o.seq (pktLd p.1 p.2) 0 (.buf k p.2) with
        | (s, .ok _) => s.askReads c e r
        | (s, .fail st) => (fail s st).askReads c e r
        | x => x

/-! ### Stores -/

/-- PMASK of a store of bytes with their poison at an address (R152, R465). -/
def pmaskOf (a : Nat) (pois : List Bool) : Nat :=
  ((List.range ((a + pois.length + 127) / 128 - a / 128)).map (fun i =>
    if ((List.range pois.length).zip pois).any (fun x => x.2 && (a + x.1) / 128 - a / 128 = i) then 2 ^ i else 0)).sum

/-- Changes the record of the slice in which engine `e` works for a context: its own, or for a scan's survivors that of the scoring engine's
tile pass (R318). -/
def State.updRun (s : State) (c e : Nat) (f : Slice → Slice) : State :=
  let own := fun (r : Slice) => r.ctx = c && (match (s.ctx c).op e with | some o => r.seq = o.seq | none => true)
  s.updBlk (c / 16) (fun b => { b with run := b.run.map (fun x => (x.1, x.2.map (fun (r : Slice) =>
    if (x.1 = e ∨ (x.1 = eScor ∧ e = eFilt)) ∧ own r then f r else r))) })

/-- Notes what the slice in progress writes, in banks or in the pool: undefined if the slice is aborted (R51). -/
def State.noteWrite (s : State) (c e : Nat) (bank : Bool) (a n : Nat) : State :=
  s.updRun c e (fun r => if bank then { r with wrote := r.wrote ++ [(a, n)] } else { r with wroteP := r.wroteP ++ [(a, n)] })

/-- Notes what the slice in progress reads of the context's banks, weights and biases apart (R338, R389). -/
def State.noteRead (s : State) (c e : Nat) (tile : Bool) (l : List (Nat × Nat)) : State :=
  if l = [] then s else s.updRun c e (fun r => if tile then { r with tiles := r.tiles ++ l } else { r with reads := r.reads ++ l })

/-- Writes bytes with their poison in the context's banks: a word with a poisoned byte is poisoned (R465). -/
def State.bankPut (s : State) (c e a : Nat) (d : Data) : State :=
  let bad := (((List.range d.pois.length).zip d.pois).filter (·.2)).map (fun x => (a + x.1) / 16)
  ((s.bankWrite c a d.bytes false).updBlk (c / 16) (fun b => { b with bpois := bad.foldl setIns b.bpois })).noteWrite c e true a d.bytes.length

/-- Puts an output: in banks at once, in the pool behind the stores that wait. `pos` is its place in the order of failures. -/
def State.put (s : State) (c e pos : Nat) (bank : Bool) (a : Nat) (d : Data) : State :=
  if bank then s.bankPut c e a d
  else if d.bytes = [] then s
  else s.updOp c e (fun o => { o with stq := o.stq ++ [(pos, a, d.bytes, d.pois)] })

/-- Sends waiting stores in order until one must wait; fuel bounds the pieces. -/
def State.flushStores (s : State) (c e : Nat) : Nat → State × Sent
  | 0 => (s, .ok 0)
  | fuel + 1 =>
    match (s.ctx c).op e with
    | none => (s, .ok 0)
    | some o => match o.stq with
      | [] => (s, .ok 0)
      | (pos, a, v, w) :: r =>
        let n := nextPiece a v.length
        let fail := fun (s : State) st => (s.updOp c e (fun o => { o with stq := r })).failAt c e pos st
        if v = [] then (s.updOp c e (fun o => { o with stq := r })).flushStores c e fuel
        else if 2 ^ 48 < a + n then (fail s stNoTrans).flushStores c e fuel
        else match s.request c e o.idx o.seq (pktSt a (v.take n) (pmaskOf a (w.take n))) pos .none with
          | (s, .ok _) =>
            ((s.updOp c e (fun o => { o with stq := if n < v.length then (pos, a + n, v.drop n, w.drop n) :: r else r })).noteWrite c e false a n).flushStores c e fuel
          | (s, .fail st) => (fail s st).flushStores c e fuel
          | x => x

/-! ### What an abort or a collision leaves undefined (R50, R51, R304, R389) -/

/-- Bytes that the spec leaves undefined. Log 72. -/
def State.freeBytes (s : State) (n : Nat) : List Byte × State := let (v, s) := s.free; (leBytes n v, s)

/-- Bank bytes of a range become undefined. Log 72. -/
def State.spoil (s : State) (c : Nat) (r : Nat × Nat) : State := let (v, s) := s.freeBytes r.2; s.bankWrite c r.1 v false

/-- Stores bytes at a context address for an operation, as far as they can be stored now; stores that wait are dropped. -/
def State.storeNow (s : State) (c e : Nat) (o : Op) (a : Nat) (v : List Byte) : State :=
  let o' := { o with stq := [(0, a, v, List.replicate v.length false)] }
  match (s.ctx c).op e with
  | some _ => ((s.setOp c e (some o')).flushStores c e (v.length + 1)).1
  | none => ((s.setOp c e (some o')).flushStores c e (v.length + 1)).1.setOp c e none

/-- Context addresses of a range become undefined, where they still can be stored to. Log 72. -/
def State.spoilPool (s : State) (c e : Nat) (o : Op) (r : Nat × Nat) : State :=
  let (v, s) := s.freeBytes r.2
  s.storeNow c e ((s.ctx c).op e |>.getD o) r.1 v

/-- What a slice wrote becomes undefined, but for the header of a scan: that keeps to the last completed slice (R304). Log 72. -/
def State.spoilSlice (s : State) (e : Nat) (r : Slice) : State :=
  let c := r.ctx
  let head := fun (bank : Bool) (w : Nat × Nat) => match r.hdr with
    | some (b, a, _) => b = bank && a ≤ w.1 && decide (w.1 + w.2 ≤ a + 64)
    | none => false
  let o := ((s.ctx c).op e).getD { seq := r.seq, idx := r.idx, word := 0 }
  let pool := r.wroteP ++ o.stq.map (fun x => (x.2.1, x.2.2.1.length))
  let s := (r.wrote.filter (fun w => !head true w)).foldl (fun s w => s.spoil c w) s
  let s := (pool.filter (fun w => !head false w)).foldl (fun s w => s.spoilPool c e o w) s
  let s := match (s.ctx c).op e with | some _ => s.updOp c e (fun o => { o with stq := [] }) | none => s
  match r.hdr with
  | some (true, a, v) => if r.wrote.any (head true) then s.bankWrite c a v false else s
  | some (false, a, v) => if pool.any (head false) then s.storeNow c e ((s.ctx c).op e |>.getD o) a v else s
  | none => s

/-! ### Accesses that meet in one cycle (R338, R389) -/

/-- Whether two lists of bank ranges share a word. -/
def meet (a b : List (Nat × Nat)) : Bool :=
  a.any (fun x => b.any (fun y => x.2 ≠ 0 && y.2 ≠ 0 && decide (x.1 / 16 ≤ (y.1 + y.2 - 1) / 16) && decide (y.1 / 16 ≤ (x.1 + x.2 - 1) / 16)))

/-- The slices that a Block's other engines ran in this tick for other instructions that are still in flight: their accesses may fall in one
cycle with those of instruction `seq`. Log 92. -/
def State.beside (s : State) (g seq : Nat) : List (Nat × Slice) :=
  (s.blk g).run.filterMap (fun x => match x.2 with
    | some r => if r.tick = s.now ∧ r.seq ≠ seq ∧ (s.ctx r.ctx).inFlight.any (fun o => o.seq = r.seq) then some (x.1, r) else none
    | none => none)

/-- The instruction of a slice receives BUSY (R389): what the slice wrote is undefined, and the instruction completes with BUSY; a scan after
its header, a delivery with its DDONE's status. Log 92. -/
def State.busy (s : State) (e : Nat) (r : Slice) : State :=
  let c := r.ctx
  match (s.ctx c).ops.find? (fun x => match x.2 with | some o => o.seq = r.seq && o.done ≠ some stBusy | none => false) with
  | some (k, some _) =>
    (s.spoilSlice e r).updOp c k (fun o =>
      let i := insnOf o.word
      let o := { o with bad := some (0, stBusy), pend := [], scores := [], rows := [], acts := [], sums := [], delivs := if k = eGath then o.delivs else 0 }
      if i.opc = 0x18 ∨ (i.opc = 0x19 ∧ (i.mod % 8 = 1 ∨ i.mod % 8 = 2)) then { o with phase := 4 } else { o with done := some stBusy })
  | _ => s

/-- A collision between a read by instruction `rd` and a write by instruction `wr` on a word, as often as the cycles have it: a free value.
Counted, in COLL of the steep expander too for a tile; the reader receives BUSY, the writer if it is the later. Log 92. -/
def State.collide (s : State) (g : Nat) (rd wr : Nat × Slice) (tile : Bool) : State :=
  let (n, s) := s.free
  if n = 0 then s
  else
    let s := s.updBlk g (fun b => { b with bankColl := satAdd b.bankColl n, sColl := if tile then satAdd b.sColl n else b.sColl })
    let s := s.busy rd.1 rd.2
    if rd.2.ctx = wr.2.ctx ∧ rd.2.seq < wr.2.seq then s.busy wr.1 wr.2 else s

/-- The bank accesses of a slice against those of the slices beside it (R338, R389). Log 92. -/
def State.clash (s : State) (g e : Nat) (r : Slice) : State :=
  (s.beside g r.seq).foldl (fun s y =>
    let s := if meet r.tiles y.2.wrote then s.collide g (e, r) y true else if meet r.reads y.2.wrote then s.collide g (e, r) y false else s
    if meet y.2.tiles r.wrote then s.collide g y (e, r) true else if meet y.2.reads r.wrote then s.collide g y (e, r) false else s) s

/-- The same; instructions of other engines that end by it complete. -/
def State.clashDone (s : State) (g e : Nat) (r : Slice) : State :=
  let l := s.beside g r.seq
  if l = [] then s else l.foldl (fun s y => s.checkDone y.2.ctx y.1) (s.clash g e r)

/-- The same, for the slice that engine `e` runs. -/
def State.clashRun (s : State) (g e : Nat) : State :=
  match tget (s.blk g).run e none with
  | some r => s.clashDone g e r
  | none => s

/-- The same, for data of a reply that lands in the banks (R362, R364). Log 92. -/
def State.clashLand (s : State) (c : Nat) (q : Req) (o n : Nat) : State :=
  s.clashDone (c / 16) q.eng.toNat { ctx := c, cost := 0, idx := q.instr, pred := 0, wrote := [(o, n)], wroteP := [], past := 0, seq := q.seq, tick := s.now }

/-- Bytes and entries that wait to be stored: a bound on their pieces. -/
def Op.waiting (o : Op) : Nat := (o.stq.map (fun x => x.2.2.1.length + 1)).sum
def State.flushAll (s : State) (c e : Nat) : State × Sent :=
  match (s.ctx c).op e with
  | some o => s.flushStores c e (o.waiting + 1)
  | none => (s, .ok 0)

/-! ### Filling a slice -/

/-- An engine's work for one kind of instruction: slice overhead; cost of the unit at `u` and the next one, `none` with no unit left; the
reads a unit needs of the pool; its effect; what the end of a slice does (`true`: no unit is left); the bank ranges that a unit reads. -/
structure Task where
  past  : Nat
  step  : State → Op → Nat → Option (Nat × Nat)
  needs : State → Op → Nat → List (Nat × Nat)
  apply : State → Op → Nat → State × Sent
  close : State → Bool → State
  banks : State → Op → Nat → List (Nat × Nat) := fun _ _ _ => []

/-- Asks for what the units of a slice read, as many as fit. -/
def State.askUnits (t : Task) (c e : Nat) : Nat → Nat → Nat → State → State × Sent
  | 0, _, _, s => (s, .ok 0)
  | fuel + 1, left, u, s =>
    match (s.ctx c).op e with
    | none => (s, .ok 0)
    | some o => match t.step s o u with
      | none => (s, .ok 0)
      | some (k, v) =>
        if left < k then (s, .ok 0)
        else match s.askReads c e (t.needs s o u) with
          | (s, .ok _) => if v = u then (s, .ok 0) else State.askUnits t c e fuel (left - k) v s
          | x => x

/-- Why a slice stops: no unit left, the next does not fit, reads are missing (with the cycles left), or an entry, a tag or the page table. -/
inductive Stop where
  | last
  | full
  | reads (l : List (Nat × Nat)) (left : Nat)
  | sent (w : Sent)
deriving DecidableEq, Repr

/-- Performs units in order while they fit and their reads are there. Steps of an operation that take no cycles have fuel of their own. -/
def State.applyUnits (t : Task) (c e : Nat) : Nat → Nat → State → State × Stop
  | 0, _, s => (s, .full)
  | fuel + 1, left, s =>
    match (s.ctx c).op e with
    | none => (s, .last)
    | some o => match t.step s o o.unit with
      | none => (s, .last)
      | some (k, v) =>
        if left < k then (s, .full)
        else
          let miss := (t.needs s o o.unit).filter (fun r => !o.has r)
          if miss ≠ [] then (s, .reads miss left)
          else match t.apply (s.noteRead c e false (t.banks s o o.unit)) o o.unit with
            | (s, .ok _) =>
              (match (s.updOp c e (fun o => { o with unit := v })).flushAll c e with
                | (s, .ok _) => State.applyUnits t c e fuel (left - k) s
                | (s, w) => (s, .sent w))
            | (s, w) => (s, .sent w)

/-- Blocks a context's engine for what a request waits for (R381). -/
def State.blockFor (s : State) (c e : Nat) (w : Sent) : State :=
  match w with
  | .table => s.updCtx c (fun x => x.block { src := e, why := 1, pt := true })
  | .full d => s.updCtx c (fun x => x.block { src := e, why := 2, eid := d })
  | _ => s

/-- The requests outstanding for reads of an operation. -/
def Ctx.awaited (x : Ctx) (o : Op) (miss : List (Nat × Nat)) : List Req :=
  x.reqs.filter (fun q => q.seq = o.seq && !q.aband && miss.any (fun r => q.dest = .buf (rdKey r) r.2))

/-- Blocks a context's engine until requests are answered, or what `w` waits for. -/
def State.blockIds (s : State) (c e : Nat) (ids : List Nat) (w : Sent) : State :=
  if ids = [] then s.blockFor c e w else s.updCtx c (fun x => x.block { src := e, why := 1, ids := ids, pt := w = .table })

/-- Blocks a context's engine until reads are answered. -/
def State.blockReads (s : State) (c e : Nat) (miss : List (Nat × Nat)) (w : Sent) : State :=
  match (s.ctx c).op e with
  | none => s
  | some o => s.blockIds c e (((s.ctx c).awaited o miss).map (·.id)) w

/-- Whether a slice only waits for data of this device's own pool (R49): every read it misses is on its way inside the device. Log 62. -/
def State.nearWait (s : State) (c e : Nat) (miss : List (Nat × Nat)) (w : Sent) : Bool :=
  match (s.ctx c).op e, w with
  | some o, .ok _ => let l := (s.ctx c).awaited o miss; l ≠ [] && l.all (fun q => !q.remote)
  | _, _ => false

/-- Asks for what the units ahead read, then performs those whose reads are there; again once new reads come up, as when a batch or a window
ends within the slice (R47). Its stop, and what asking met. -/
def State.fill (t : Task) (c e more : Nat) : Nat → Nat → State → State × Stop × Sent
  | 0, _, s => (s, .full, .ok 0)
  | fuel + 1, left, s =>
    let u := match (s.ctx c).op e with | some o => o.unit | none => 0
    let (s, w) := State.askUnits t c e (left + 1) left u s
    match State.applyUnits t c e (left + 4 + more) left s with
    | (s, .reads l rest) =>
      let unasked : Bool := match (s.ctx c).op e with | some o => (s.ctx c).awaited o l = [] | none => false
      (match w with
        | .ok _ => if unasked ∧ rest < left then State.fill t c e more fuel rest s else (s, .reads l rest, w)
        | _ => (s, .reads l rest, w))
    | (s, stop) => (s, stop, w)

/-- A slice ends: its last work, its stores, the collisions it was in, and for what its instruction waits now (R49, R381, R389). -/
def State.endSlice (t : Task) (c e : Nat) (stop : Stop) (w : Sent) (s : State) : State :=
  let s := t.close s (stop = .last)
  let (s, f) := s.flushAll c e
  let s := (s.clashRun (c / 16) e).checkDone c e
  match (s.ctx c).op e with
  | none => s
  | some o =>
    if o.done.isSome then s
    else match f, stop with
      | .ok _, .reads l _ => s.blockIds c e ((((s.ctx c).awaited o l).filter (·.remote)).map (·.id)) w
      | .ok _, .sent x => s.blockFor c e x
      | .ok _, _ => s
      | x, _ => s.blockFor c e x

/-- Runs one slice of `n` cycles: steps that take no cycles, then units with the reads they need. A slice that only waits for data of this
device's own pool does not end: it keeps the cycles it has left (R49). Log 62. -/
def State.slice (t : Task) (c e n : Nat) (s : State) : State :=
  match s.flushAll c e with
  | (s, .ok _) =>
    let more := match (s.ctx c).op e with | some o => o.pend.length | none => 0
    let (s, stop) := State.applyUnits t c e (4 + more) 0 s
    (match stop with
      | .sent _ => s.endSlice t c e stop (.ok 0)
      | _ =>
        match State.fill t c e more (n + 1) (n - t.past) s with
        | (s, .reads l rest, w) =>
          if s.nearWait c e l w then s.updRun c e (fun r => { r with wait := some rest }) else s.endSlice t c e (.reads l rest) w
        | (s, stop, w) => s.endSlice t c e stop w)
  | (s, w) => s.blockFor c e w

/-- The usual end: the instruction is done with `st` once no unit and no store is left. -/
def State.closeWith (c e : Nat) (st : Status) (s : State) (last : Bool) : State :=
  match (s.ctx c).op e with
  | some o => if last ∧ o.stq = [] then s.setOp c e (some { o with done := some st }) else s
  | none => s

/-- The operation is done with OK, or its lowest failing position, once no store waits. -/
def State.doneIf (s : State) (c e : Nat) (outc : Bool) : State :=
  let s := (s.flushAll c e).1
  match (s.ctx c).op e with
  | some o => if o.stq = [] then s.setOp c e (some { o with done := some stOk, outc := outc }) else s
  | none => s

/-- Requests of an operation that deliver nothing: its stores. -/
def Ctx.stores (x : Ctx) (o : Op) : List Nat := (x.reqs.filter (fun r => r.seq = o.seq && !r.aband && r.dest = .none)).map (·.id)

/-- What is used of a region descriptor checked at issue. -/
def Op.rgn (d : BitVec 512) : Region := (regionOf d).getD { bank := true, base := 0, len := 0 }
def Op.tns (d : BitVec 512) : Tensor := (tensorOf d).getD { bank := true, base := 0, etype := 0, nrow := 0, ncol := 1, rstride := 0 }

/-- A task of one unit. -/
def oneUnit (cost : Nat) (u : Nat) : Option (Nat × Nat) := if u = 0 then some (cost, 1) else none
def noReads (_ : State) (_ : Op) (_ : Nat) : List (Nat × Nat) := []

end Sys2Proof.Machine
end

