-- ==== Sys2Proof/Machine/Gather.lean ====
section
/-! DEFINITION. Units of work of the gather and reduce units (09 R260 to R268; 10 R283 to R293; 12 R362 to R368; 08 R227, R237). -/

namespace Sys2Proof.Machine

/-- Sends a request that is not a read into a buffer: a status at once is a failing position. -/
def State.sendOr (s : State) (c e : Nat) (o : Op) (a n : Nat) (k : Pkt) (pos : Nat) (dest : Dest) : State × Sent :=
  if 2 ^ 48 < a + n then (s.failAt c e pos stNoTrans, .ok 0)
  else match s.request c e o.idx o.seq k pos dest with
    | (s, .fail st) => (s.failAt c e pos st, .ok 0)
    | x => x

/-- Cuts a run into units: bytes of the piece at `u`, and what a piece costs. -/
def pieceStep (len : Nat) (cut : Nat → Nat → Nat) (cost : Nat → Nat) (u : Nat) : Option (Nat × Nat) :=
  if u < len then some (cost (cut u (len - u)), u + cut u (len - u)) else none

/-! ### LD, ST, MOVE, FILL, LOSTCLR (R362, R363) -/

def taskLd (c : Nat) : Task where
  past := 8
  step := fun _ o u => let a := Op.rgn o.a; pieceStep a.len (fun k n => nextPiece (a.base + k) n) ioCost u
  needs := noReads
  apply := fun s o u =>
    let a := Op.rgn o.a
    let n := nextPiece (a.base + u) (a.len - u)
    s.sendOr c eGath o (a.base + u) n (pktLd (a.base + u) n) u (.bank ((Op.rgn o.d).base + u) n)
  close := State.closeWith c eGath stOk

def taskSt (c : Nat) : Task where
  past := 8
  step := fun _ o u => let d := Op.rgn o.d; pieceStep d.len (fun k n => nextPiece (d.base + k) n) ioCost u
  needs := noReads
  apply := fun s o u =>
    let d := Op.rgn o.d
    let n := nextPiece (d.base + u) (d.len - u)
    (s.put c eGath u false (d.base + u) (s.bankData c ((Op.rgn o.a).base + u) n), .ok 0)
  close := State.closeWith c eGath stOk
  banks := fun _ o u => let d := Op.rgn o.d; [((Op.rgn o.a).base + u, nextPiece (d.base + u) (d.len - u))]

def taskLostClr (c : Nat) : Task where
  past := 8
  step := fun _ o u => if u < (Op.rgn o.d).len then some (4, u + 128) else none
  needs := noReads
  apply := fun s o u =>
    let a := (Op.rgn o.d).base + u
    s.sendOr c eGath o a 128 { tc := 2, mtype := 21, xslots := 1, x := [packSlot [(52, a)]] } u .none
  close := State.closeWith c eGath stOk

def taskMove (c : Nat) : Task where
  past := 8
  step := fun _ o u => let a := Op.rgn o.a; pieceStep a.len (movePiece a (Op.rgn o.d)) (fun n => 4 + 2 * cdiv n 256) u
  needs := fun _ o u =>
    let a := Op.rgn o.a
    let d := Op.rgn o.d
    if d.bank then [] else needOf a.bank (a.base + u) (movePiece a d u (a.len - u))
  apply := fun s o u =>
    let a := Op.rgn o.a
    let d := Op.rgn o.d
    let n := movePiece a d u (a.len - u)
    if d.bank ∧ ¬a.bank then s.sendOr c eGath o (a.base + u) n (pktLd (a.base + u) n) u (.bank (d.base + u) n)
    else
      let v := s.data c o a.bank (a.base + u) n
      if v.st ≠ stOk then (s.failAt c eGath u v.st, .ok 0)
      else
        let s := if !a.bank && v.bad then s.failAt c eGath u stPoison else s
        (s.put c eGath u d.bank (d.base + u) v, .ok 0)
  close := State.closeWith c eGath stOk
  banks := fun _ o u => let a := Op.rgn o.a; if a.bank then [(a.base + u, movePiece a (Op.rgn o.d) u (a.len - u))] else []

def taskFill (c : Nat) : Task where
  past := 8
  step := fun _ o u => let d := Op.rgn o.d; pieceStep d.len (fun k n => nextPiece (d.base + k) n) ioCost u
  needs := noReads
  apply := fun s o u =>
    let d := Op.rgn o.d
    let n := nextPiece (d.base + u) (d.len - u)
    (s.put c eGath u d.bank (d.base + u) (Data.clean (bytesAt ((List.range (cdiv n 8)).flatMap (fun _ => leBytes 8 (sbits o.word 0 64))) 0 n)), .ok 0)
  close := State.closeWith c eGath stOk

/-! ### Elements of a tensor, read in runs -/

/-- The bank ranges that hold elements `i` to `i + n - 1`. -/
def Tensor.banks (b : Tensor) (i n : Nat) : List (Nat × Nat) := if b.bank then b.runs n i n else []
/-- The reads that hold elements `i` to `i + n - 1`. -/
def Tensor.pieces (b : Tensor) (i n : Nat) : List (Nat × Nat) := if b.bank then [] else (b.runs n i n).flatMap (fun r => rdPieces r.1 r.2)
/-- Elements `i` to `i + n - 1`, one after another. -/
def State.elemData (s : State) (c : Nat) (o : Op) (b : Tensor) (i n : Nat) : Data :=
  let ds := (b.runs n i n).map (fun r => s.data c o b.bank r.1 r.2)
  { bytes := ds.flatMap (·.bytes), pois := ds.flatMap (·.pois), st := ((ds.map (·.st)).find? (· ≠ stOk)).getD stOk }
/-- Element `i`, from reads made for elements from `w` on. -/
def State.elemAt (s : State) (c : Nat) (o : Op) (b : Tensor) (w n i : Nat) : Data :=
  let k := etBits b.etype / 8
  let a := b.at i
  if b.bank then s.bankData c a k
  else match (b.pieces w n).find? (fun p => p.1 ≤ a && a < p.1 + p.2) with
    | some p => (o.got p.1 p.2).cut (a - p.1) k
    | none => { bytes := [], pois := [], st := stNoTrans }

/-! ### PREFETCH (R360, R362, R509) -/

/-- Lines of group `u`. -/
def pfLines (o : Op) (u : Nat) : Nat := min 32 ((Op.tns o.b).elems - 32 * u)

/-- Groups lines by home device, first line first: device and positions. -/
def byDev : List (Nat × Eid × Nat) → List (Eid × List (Nat × Nat))
  | [] => []
  | (i, d, a) :: r =>
    let l := byDev r
    match l.find? (fun x => x.1 = d) with
    | some x => (d, (i, a) :: x.2) :: l.filter (fun y => y.1 ≠ d)
    | none => (d, [(i, a)]) :: l

/-- A PFLIST of context addresses (R154). -/
def pktList (as : List Nat) : Pkt :=
  let n := as.length
  let data := (List.range (cdiv n 2)).map (fun i => packSlot [(64, nth as (2 * i)), (64, nth as (2 * i + 1))])
  { tc := 2, mtype := 3, xslots := 1, len := BitVec.ofNat 9 data.length, x := [packSlot [(52, 0), (4, 0), (12, n - 1)]], data := data }

/-- Sends one PFLIST for each device not in `rows`. -/
def State.sendLists (s : State) (c : Nat) (o : Op) : List (Eid × List (Nat × Nat)) → State × Sent
  | [] => (s, .ok 0)
  | (dev, l) :: r =>
    if o.rows.contains dev.toNat then s.sendLists c o r
    else
      let k := pktList (l.map (·.2))
      let base := (Op.rgn o.d).base
      let zero := fun (s : State) st => l.foldl (fun s x => (s.bankPut c eGath (base + 128 * x.1) (Data.clean (List.replicate 128 0))).failAt c eGath x.1 st) s
      match s.request c eGath o.idx o.seq k (nth (l.map (·.1)) 0) (.pf (l.map (fun x => base + 128 * x.1))) with
      | (s, .ok _) =>
        let s := s.updOp c eGath (fun o => { o with rows := setIns o.rows dev.toNat })
        s.sendLists c o r
      | (s, .fail st) => (zero s st).sendLists c o r
      | x => x

def taskPrefetch (c : Nat) : Task where
  past := 8
  step := fun _ o u =>
    let l := pfLines o u
    if o.phase = 0 ∧ 32 * u < (Op.tns o.b).elems then some (4 + cdiv l 2 + 4 * (l - 1), u + 1) else none
  needs := fun _ o u => (Op.tns o.b).pieces (32 * u) (pfLines o u)
  apply := fun s o u =>
    let l := pfLines o u
    let v := s.elemData c o (Op.tns o.b) (32 * u) l
    if v.why ≠ stOk then (s.updOp c eGath (fun o => { o with phase := 1, bad := some (0, v.why) }), .ok 0)
    else match s.partOfBlk (c / 16) with
      | none => (s.failAt c eGath (32 * u) stNoTrans, .ok 0)
      | some p =>
        let as := (List.range l).map (fun i => (32 * u + i, natAt v.bytes (8 * i) 8))
        let ok := as.filter (fun x => x.2 % 128 = 0 && x.2 < 2 ^ 48)
        let segs := some (s.ctx c).segs
        let (s, w) := s.askAddrs p (c / 16) segs true false (ok.map (·.2))
        if w then (s, .table)
        else
          let (s, cs) := ok.foldl (fun (x : State × List (Nat × Nat × Chk)) y =>
            let (s, k) := x.1.checkAddr p (c / 16) segs y.2 128 true false
            (s, x.2 ++ [(y.1, y.2, k)])) (s, [])
          let fails := (as.filter (fun x => !ok.contains x)).map (fun x => (x.1, stInvalid))
            ++ cs.filterMap (fun x => match x.2.2 with | .bad st => some (x.1, st) | .wait => some (x.1, stNoTrans) | .ok _ _ _ => none)
          let s := fails.foldl (fun s x =>
            (s.bankPut c eGath ((Op.rgn o.d).base + 128 * x.1) (Data.clean (List.replicate 128 0))).failAt c eGath x.1 x.2) s
          match s.sendLists c o (byDev (cs.filterMap (fun x => match x.2.2 with | .ok _ _ d => some (x.1, d, x.2.1) | _ => none))) with
          | (s, .ok _) => (s.updOp c eGath (fun o => { o with rows := [] }), .ok 0)
          | x => x
  close := State.closeWith c eGath stOk
  banks := fun _ o u => (Op.tns o.b).banks (32 * u) (pfLines o u)

/-! ### Atomics (R158, R174, R364) -/

/-- The payload that a Block sends for an atomic of width `w`: the bytes of B that hold operands, all others zero (R158). -/
def atPayload (aop w n : Nat) (v : List Byte) : List Byte :=
  let k := if aop = 3 ∧ w ≤ 8 then [(0, w), (8, w)] else [(0, if aop = 3 then 2 * w else w)]
  (List.range n).map (fun i => if k.any (fun r => r.1 ≤ i && decide (i < r.1 + r.2)) then BitVec.ofNat 8 (natAt v i 1) else 0)

def taskAtomic (c : Nat) : Task where
  past := 8
  step := fun _ _ u => oneUnit 12 u
  needs := noReads
  apply := fun s o _ =>
    let i := insnOf o.word
    let aop := i.opc - 8
    let n := atOperands aop i.mod
    let w := atWidth i.mod
    let v := s.bankData c (Op.rgn o.b).base n
    let a := (Op.rgn o.a).base + i.imm
    if v.bad then (s.failAt c eGath 0 stPoison, .ok 0)
    else
      let x := packSlot [(52, a), (4, 0), (12, 0), (4, aop), (4, i.mod), (16, s.now)]
      let data := bytesSlots (n / 16) (atPayload aop w n v.bytes)
      let cmp := if aop = 3 then some (BitVec.ofNat 128 (natAt v.bytes 0 w)) else none
      s.sendOr c eGath o a w { tc := 2, mtype := 2, xslots := 1, len := BitVec.ofNat 9 data.length, x := [x], data := data } 0 (.old (Op.rgn o.d).base w cmp)
  close := State.closeWith c eGath stOk
  banks := fun _ o _ => let i := insnOf o.word; [((Op.rgn o.b).base, atOperands (i.opc - 8) i.mod)]

/-! ### Reduce unit (R260 to R268, R366) -/

/-- Drops what reads gave. -/
def Op.drop (o : Op) (l : List (Nat × Nat)) : Op :=
  let ks := l.map rdKey
  { o with buf := o.buf.filter (fun x => !ks.contains x.1), bst := o.bst.filter (fun x => !ks.contains x.1) }

/-- A participant that waits until the END is taken. -/
def State.awaitEnd (s : State) (c : Nat) : State := s.updCtx c (fun x => x.block { src := eRed, why := 4 })

def taskRjoin (c : Nat) : Task where
  past := 8
  step := fun _ _ u => oneUnit 24 u
  needs := noReads
  apply := fun s o _ =>
    let (s, st) := s.collJoin c o.idx o.a
    (if st = stOk then s else s.failAt c eRed 0 st, .ok 0)
  close := State.closeWith c eRed stOk

def taskRwait (c : Nat) : Task where
  past := 8
  step := fun _ _ u => oneUnit 0 u
  needs := noReads
  apply := fun s o _ =>
    match s.findColl (s.jobOfCtx c) (cdCid o.a) with
    | none => (s.updOp c eRed (fun o => { o with done := some stDenied }), .ok 0)
    | some (_, _, x) => match x.endSt with
      | some st => (s.updOp c eRed (fun o => { o with done := some st }), .ok 0)
      | none => (s.awaitEnd c, .ok 0)
  close := fun s _ => s

/-- The descriptor of the collective that an instruction names, as admitted here. -/
def State.collOf (s : State) (c : Nat) (o : Op) : Option Coll := (s.findColl (s.jobOfCtx c) (cdCid o.a)).map (fun x => x.2.2)
/-- Elements of the CONTRIB that starts at element `u`. -/
def contribLen (d : BitVec 512) (u : Nat) : Nat :=
  let e := cdElems d
  min (min 8191 (4096 / inWidth (cdIfmt d))) (u / e * e + cdCount d (u / e) - u)

def taskRcontrib (c : Nat) : Task where
  past := 8
  step := fun s o u => match s.collOf c o with
    | some x => if u < cdNelem x.desc then let n := contribLen x.desc u; some (ioCost (n * inWidth (cdIfmt x.desc)), u + n) else none
    | none => none
  needs := fun s o u => match s.collOf c o with
    | some x => let e := cdElems x.desc; (Op.tns o.b).pieces (u / e * e) (cdCount x.desc (u / e))
    | none => []
  apply := fun s o u => match s.collOf c o with
    | none => (s, .ok 0)
    | some x =>
      let d := x.desc
      let sl := u / cdElems d
      let first := sl * cdElems d
      let v := s.elemData c o (Op.tns o.b) first (cdCount d sl)
      let finish := fun st => (s.updOp c eRed (fun o => { o with done := some st }), Sent.fail stOk)
      match x.endSt with
      | some st => finish st
      | none =>
        if v.why ≠ stOk then finish v.why
        else if x.phase ≠ 1 ∨ x.slice ≠ sl then (s.updCtx c (fun x => x.block { src := eRed, why := 1, go := true }), .fail stOk)
        else
          let w := inWidth (cdIfmt d)
          let n := contribLen d u
          let last : Bool := u + n = first + cdCount d sl
          let s := s.sendColl (c / 16) x 0 s.selfEid.toNat (colx x u n (sbits o.word 0 12) last 0 0) (bytesAt v.bytes (w * (u - first)) (w * n))
          (if last then s.updOp c eRed (fun o => o.drop ((Op.tns o.b).pieces first (cdCount d sl))) else s, .ok 0)
  close := fun s last =>
    match (s.ctx c).op eRed with
    | none => s
    | some o =>
      if o.done.isSome then s
      else if ¬last then s.waitOpen c
      else match s.collOf c o with
        | none => s.updOp c eRed (fun o => { o with done := some stDenied })
        | some x => match x.endSt with
          | some st => s.updOp c eRed (fun o => { o with done := some st })
          | none => s.awaitEnd c
  banks := fun s o u => match s.collOf c o with
    | some x => (Op.tns o.b).banks u (contribLen x.desc u)
    | none => []

/-! ### Deliveries (R287, R288) -/

/-- Sends a DELIV or DDONE. -/
def State.sendDeliv (s : State) (c mt group : Nat) (x : Slot) (v : List Byte) : State :=
  let p := match s.partOfBlk (c / 16) with | some p => s.part p | none => {}
  let data := bytesSlots (v.length / 16) v
  s.sendBlk (c / 16) { pkt := { tc := 5, mtype := BitVec.ofNat 5 mt, deid := BitVec.ofNat 12 group, seid := s.selfEid, sinc := s.selfInc, job := p.job,
                                gen := p.gen, len := BitVec.ofNat 9 data.length, xslots := 1, x := [x], data := data } }

/-- DELIV of data at a window offset; zeros that stand for data not read carry FAIL. -/
def State.deliv (s : State) (c group did woff : Nat) (v : Data) (fail : Bool) : State :=
  (s.sendDeliv c 0 group (packSlot [(16, did), (40, woff), (1, b1 v.bad), (1, b1 fail)]) v.bytes).updOp c eGath (fun o => { o with delivs := o.delivs + 1 })

/-- DDONE with the status of the instruction, which is then done. Log 91. -/
def State.ddone (s : State) (c group did : Nat) : State :=
  match (s.ctx c).op eGath with
  | none => s
  | some o =>
    let st := match o.bad with | some (_, b) => b | none => stOk
    let s := s.sendDeliv c 1 group (packSlot [(16, did), (48, 0), (40, o.delivs), (5, st.toNat)]) []
    (s.updBlk (c / 16) (fun b => { b with gDeliv := satAdd b.gDeliv 1 })).setOp c eGath (some { o with done := some stOk })

/-! ### GATHER and SCATTER (R283 to R293) -/

/-- First position and length of the window of position `u`. -/
def idxWindow (n u : Nat) : Nat × Nat := (u / 4096 * 4096, min 4096 (n - u / 4096 * 4096))
/-- The index of a position, or why it has none: a status of its read, or NO_TRANSLATION past NROWS (R286). Log 86. -/
def State.indexOf (s : State) (c : Nat) (o : Op) (u : Nat) : Except Status Nat :=
  let b := Op.tns o.b
  let (w, n) := idxWindow b.elems u
  let v := s.elemAt c o b w n u
  if v.why ≠ stOk then .error v.why else .ok (leNat v.bytes)
/-- The reads of the index list that a window needs. -/
def idxNeeds (o : Op) (u : Nat) : List (Nat × Nat) :=
  let b := Op.tns o.b
  let (w, n) := idxWindow b.elems u
  b.pieces w n

/-- Address of a table row. -/
def gdRow (d : BitVec 512) (x : Nat) : Nat := gdTbase d + x * gdStride d

/-- The bank range of the index of a position. -/
def idxBanks (o : Op) (u : Nat) : List (Nat × Nat) := (Op.tns o.b).banks u 1

def posStep (o : Op) (u : Nat) : Option (Nat × Nat) := if u < (Op.tns o.b).elems then some (posCost o.a (u % 4096 = 0), u + 1) else none

/-- What a position of GATHER reads: the index list of its window, and its row unless the window has read it. Nothing is read for the next
window before it begins (R285). Log 66. -/
def gatherNeeds (c : Nat) (s : State) (o : Op) (u : Nat) : List (Nat × Nat) :=
  let ns := idxNeeds o u
  if u / 4096 ≠ o.unit / 4096 then []
  else if ns.any (fun r => !o.has r) then ns
  else match s.indexOf c o u with
    | .error _ => ns
    | .ok x =>
      let seen : Bool := gdUnique o.a && u % 4096 ≠ 0 && (tfind o.tab x).isSome
      if gdRows o.a ≤ x ∨ seen then ns else ns ++ rdPieces (gdRow o.a x) (gdRowb o.a)

/-- A position of GATHER: its row read or shared, its copy placed and delivered. `tab` keeps for each index of the window its output row and status. Log 86. -/
def State.gatherAt (s : State) (c : Nat) (o : Op) (u : Nat) : State :=
  let g := o.a
  let tab := if u % 4096 = 0 then [] else o.tab
  let zeros := Data.clean (List.replicate (gdRowb g) 0)
  let idx := s.indexOf c o u
  let hit : Option Nat := match idx with | .ok x => tfind tab x | .error _ => none
  let (st, v, read) : Status × Data × Bool := match idx with
    | .error st => (st, zeros, false)
    | .ok x =>
      if gdRows g ≤ x then (stNoTrans, zeros, false)
      else
        let r := o.got (gdRow g x) (gdRowb g)
        match hit with
        | some h => let st : Status := BitVec.ofNat 5 (h % 32); (st, if st = stOk ∨ st = stPoison then r else zeros, false)
        | none => (r.why, if r.st = stOk then r else zeros, true)
  let row : Nat := if gdUnique g then (match hit with | some h => h / 32 | none => o.surv) else u
  let fresh : Bool := !gdUnique g || hit.isNone
  let inRange : Bool := match idx with | .ok x => x < gdRows g | .error _ => false
  let tab := match idx with | .ok x => if hit.isNone then tins tab x (row * 32 + st.toNat) else tab | .error _ => tab
  let s := s.updOp c eGath (fun o => { (if st = stOk then o else o.fail u st) with tab := tab, surv := if fresh then o.surv + 1 else o.surv })
  let s := s.updBlk (c / 16) (fun b => { b with fetch := satAdd b.fetch (b1 read), fold := satAdd b.fold (b1 (hit.isSome && inRange)), gFail := satAdd b.gFail (b1 (st ≠ stOk)) })
  let d := Op.rgn o.d
  let s := if gdNoLocal g then s
    else
      let s := if fresh then s.put c eGath u d.bank (d.base + gdDoff g + row * gdDstride g) v else s
      if gdUnique g then s.put c eGath u d.bank (d.base + gdInvoff g + 8 + 4 * u) (Data.clean (leBytes 4 row)) else s
  let s := if gdDeliver g ∧ fresh then s.deliv c (gdGroup g) (gdDid g) (gdWoff g + row * gdDstride g) v (st ≠ stOk && st ≠ stPoison) else s
  if u % 4096 = 4095 then s.updOp c eGath (fun o => { o with buf := [], bst := [] }) else s

def taskGather (c : Nat) : Task where
  past := 8
  step := fun _ o u => posStep o u
  needs := gatherNeeds c
  apply := fun s o u => (s.gatherAt c o u, .ok 0)
  close := fun s last =>
    match (s.ctx c).op eGath with
    | none => s
    | some o =>
      let g := o.a
      let d := Op.rgn o.d
      let s := if last ∧ o.phase = 0 then
          let s := s.updOp c eGath (fun o => { o with phase := 2 })
          if gdUnique g ∧ ¬gdNoLocal g then s.put c eGath (Op.tns o.b).elems d.bank (d.base + gdInvoff g) (Data.clean (leBytes 8 o.surv)) else s
        else s
      match (s.ctx c).op eGath with
      | none => s
      | some o =>
        if ¬last ∨ o.stq ≠ [] then s
        else if gdDeliver g = false then s.setOp c eGath (some { o with done := some stOk })
        else match (s.ctx c).openReqs o with
          | [] => s.ddone c (gdGroup g) (gdDid g)
          | ids => s.updCtx c (fun x => x.block { src := eGath, why := 1, ids := ids })
  banks := fun _ o u => idxBanks o u

/-- Whether an index occurs again later in the window of position `u` (R292). -/
def State.laterSame (s : State) (c : Nat) (o : Op) (u x : Nat) : Bool :=
  let (w, n) := idxWindow (Op.tns o.b).elems u
  (List.range (w + n - (u + 1))).any (fun i => match s.indexOf c o (u + 1 + i) with | .ok y => y = x | .error _ => false)

/-- The positions before `u` in its window that name index `x`: folded into the write of `u` (R292). -/
def State.foldedTo (s : State) (c : Nat) (o : Op) (u x : Nat) : List Nat :=
  let w := (idxWindow (Op.tns o.b).elems u).1
  ((List.range (u - w)).map (· + w)).filter (fun i => match s.indexOf c o i with | .ok y => y = x | .error _ => false)

def scatterNeeds (c : Nat) (s : State) (o : Op) (u : Nat) : List (Nat × Nat) :=
  let ns := idxNeeds o u
  let d := Op.rgn o.d
  if u / 4096 ≠ o.unit / 4096 then []
  else if ns.any (fun r => !o.has r) then ns
  else match s.indexOf c o u with
    | .error _ => ns
    | .ok x =>
      if gdRows o.a ≤ x ∨ s.laterSame c o u x then ns
      else ns ++ needOf d.bank (d.base + gdDoff o.a + u * gdDstride o.a) (gdRowb o.a)

def State.scatterAt (s : State) (c : Nat) (o : Op) (u : Nat) : State × Sent :=
  let g := o.a
  let d := Op.rgn o.d
  let stores := (s.ctx c).stores o
  if u % 4096 = 0 ∧ stores ≠ [] then (s.updCtx c (fun x => x.block { src := eGath, why := 1, ids := stores }), .fail stOk)
  else
    let s : State := match s.indexOf c o u with
      | .error st => s.failAt c eGath u st
      | .ok x =>
        if gdRows g ≤ x then s.failAt c eGath u stNoTrans
        else if s.laterSame c o u x then s.updBlk (c / 16) (fun b => { b with fold := satAdd b.fold 1 })
        else
          let v := s.data c o d.bank (d.base + gdDoff g + u * gdDstride g) (gdRowb g)
          let l := s.foldedTo c o u x
          let s := if l = [] then s else s.updOp c eGath (fun o => { o with acts := tset o.acts u l [] })
          if v.st ≠ stOk then s.failAt c eGath u v.st
          else
            let s := s.updBlk (c / 16) (fun b => { b with fetch := satAdd b.fetch 1 })
            let s := if !d.bank && v.bad then s.failAt c eGath u stPoison else s
            s.put c eGath u false (gdRow g x) v
    (if u % 4096 = 4095 then s.updOp c eGath (fun o => { o with buf := [], bst := [] }) else s, .ok 0)

def taskScatter (c : Nat) : Task where
  past := 8
  step := fun _ o u => posStep o u
  needs := scatterNeeds c
  apply := fun s o u => s.scatterAt c o u
  close := State.closeWith c eGath stOk
  banks := fun _ o u => let d := Op.rgn o.d; idxBanks o u ++ (if d.bank then [(d.base + gdDoff o.a + u * gdDstride o.a, gdRowb o.a)] else [])

/-! ### MCAST (R290) -/

def taskMcast (c : Nat) : Task where
  past := 8
  step := fun _ o u => let a := Op.rgn o.a; pieceStep a.len (mcastPiece a) ioCost u
  needs := fun _ o u => let a := Op.rgn o.a; needOf a.bank (a.base + u) (mcastPiece a u (a.len - u))
  apply := fun s o u =>
    let a := Op.rgn o.a
    let n := mcastPiece a u (a.len - u)
    let k := u / 4096 * 4096
    if (u + n) % 4096 ≠ 0 ∧ u + n ≠ a.len then (s, .ok 0)
    else
      let v := s.data c o a.bank (a.base + k) (u + n - k)
      let bad : Bool := v.st ≠ stOk
      let s := if bad then s.failAt c eGath k v.st else if !a.bank && v.bad then s.failAt c eGath k stPoison else s
      let v := if bad then Data.clean (List.replicate (u + n - k) 0) else v
      let s := s.deliv c (sbits o.word 0 12) (sbits o.word 12 16) (sbits o.word 28 40 + k) v bad
      (s.updOp c eGath (fun o => o.drop (needOf a.bank (a.base + k) (u + n - k))), .ok 0)
  banks := fun _ o u => let a := Op.rgn o.a; if a.bank then [(a.base + u, mcastPiece a u (a.len - u))] else []
  close := fun s last => if last then (match (s.ctx c).op eGath with
    | some o => if o.done.isSome then s else s.ddone c (sbits o.word 0 12) (sbits o.word 12 16)
    | none => s) else s

/-! ### HINT and PIN (R227, R368) -/

/-- Pool frames of a tier of a partition. -/
def State.tierFrames (s : State) (p tier : Nat) : Nat :=
  let x := s.part p
  match tier with
  | 1 => nearFrames (popcount x.blocks)
  | 2 => bulkFrames (popcount x.blocks)
  | _ => ((maskList 16 x.trays).map (fun t => let y := s.tray t; if y.state = .assigned then y.frames.toNat else 0)).sum
/-- Pinned frames of a tier. -/
def Part.pinnedFrames (x : Part) (tier : Nat) : Nat := ((x.pages.filter (fun e => e.2.pin && e.2.tier.toNat = tier && e.2.state ≠ .unplaced)).map (fun e => e.2.frames)).sum
/-- Whether `n` more pinned frames keep a tier within three quarters of its pool frames. -/
def State.pinFits (s : State) (p tier n : Nat) : Bool := 4 * ((s.part p).pinnedFrames tier + n) ≤ 3 * s.tierFrames p tier

/-- Acts on one page whose entry is `e`: a status, or the state with it done. Log 91. -/
def State.pageAct (s : State) (p n : Nat) (e : Pte) (i : Insn) : State × Status :=
  let k := if e.ps then n - n % 64 else (s.part p).pageKey n
  let g := (s.part p).page k
  if e.dev ≠ s.selfEid then (s, stNoTrans)
  else if i.opc = 0x21 then (s.updPage p k (fun g => { g with hint := BitVec.ofNat 2 i.imm, big := g.big || e.ps }), stOk)
  else if i.imm = 0 then (s.updPage p k (fun g => { g with pin := false }), stOk)
  else if g.pin ∧ g.state ≠ .unplaced then (s, stOk)
  else if g.state = .unplaced then
    match s.placePage p k e.tier.toNat e.ps with
    | none => (s.noCapacity p n, stNoTrans)
    | some t =>
      let y := (t.part p).page k
      if s.pinFits p y.tier.toNat y.frames then (t.updPage p k (fun g => { g with pin := true }), stOk) else (s, stRetry)
  else if s.pinFits p g.tier.toNat g.frames then (s.updPage p k (fun g => { g with pin := true }), stOk)
  else (s, stRetry)

def taskPages (c : Nat) : Task where
  past := 8
  step := fun _ o u => if o.phase = 0 ∧ u < o.scanned then some (8, u + 1) else none
  needs := noReads
  apply := fun s o u =>
    let n := o.next + u
    let stop := fun (s : State) st => (s.updOp c eGath (fun o => { o with phase := 1, bad := some (0, st) }), Sent.ok 0)
    match s.partOfBlk (c / 16) with
    | none => stop s stNoTrans
    | some p => match s.translate p (c / 16) n with
      | (s, .read _) => (s, .table)
      | (s, .bad st) => stop (s.xlateUsed p (c / 16) n) st
      | (s, .ok e) =>
        let s := s.xlateUsed p (c / 16) n
        if e.ps ∧ u ≠ 0 ∧ n % 64 ≠ 0 then (s, .ok 0)
        else match s.pageAct p n e (insnOf o.word) with
          | (s, st) => if st = stOk then (s, .ok 0) else stop s st
  close := State.closeWith c eGath stOk

/-! ### PUBLISH (R237, R368) -/

def taskPublish (c : Nat) : Task where
  past := 8
  step := fun _ _ u => oneUnit 16 u
  needs := noReads
  apply := fun s o _ =>
    let d := Op.rgn o.d
    let a := Op.rgn o.a
    let v := s.bankData c (Op.rgn o.b).base 16
    let fail := fun (s : State) st => (s.failAt c eGath 0 st, Sent.ok 0)
    let segs := (s.ctx c).segs
    match s.partOfBlk (c / 16) with
    | none => fail s stNoTrans
    | some p =>
      if v.bad then fail s stPoison
      else match segCheck segs a.base a.len false false with
        | .error st => fail s st
        | .ok base => match s.checkAddr p (c / 16) (some segs) d.base 128 false true with
          | (s, .wait) => (s, .table)
          | (s, .bad st) => fail s st
          | (s, .ok root _ dev) =>
            if dev ≠ s.selfEid then fail s stNoTrans
            else if base % pgShift ≠ 0 ∨ a.len % pgShift ≠ 0 ∨ (base ≤ root ∧ root < base + a.len) then fail s stInvalid
            else
              let id := (s.ctx c).reqNext
              let r : Req := { id := id, eng := 0, instr := o.idx, seq := o.seq, msg := { pkt := {} }, remote := false, tagged := false, first := s.now,
                               last := s.now, pos := 0, dest := .none }
              let y : Pub := { ctx := c, id := id, root := root / 128, version := BitVec.ofNat 64 (natAt v.bytes 0 8), base := base, length := a.len,
                               ctag := BitVec.ofNat 64 (natAt v.bytes 8 8), walking := [], decided := false, ord := 0 }
              ((s.addReq c r).updBlk (s.homeNow p (root / 128)) (fun b => { b with pubs := b.pubs ++ [{ y with ord := b.ordNext }], ordNext := b.ordNext + 1 }), .ok 0)
  close := State.closeWith c eGath stOk
  banks := fun _ o _ => [((Op.rgn o.b).base, 16)]

end Sys2Proof.Machine
end

