-- ==== Sys2Proof/Machine/RowsPub.lean ====
section
/-! DEFINITION. PUBLISH at the root's home (08 R236 to R241). -/

namespace Sys2Proof.Machine

/-- A PUBLISH ends: the root is no longer BUSY with it, and the context takes the status. Log 82. -/
def State.pubEnd (s : State) (g : Nat) (u : Pub) (st : Status) : State :=
  let s := s.updEnt g u.root (fun e => match e.txn with | some t => if t.kind = .publish then { e with txn := none } else e | none => e)
  let s := s.updBlk g (fun b => { b with pubs := b.pubs.erase u })
  match (s.ctx u.ctx).reqs.find? (fun r => r.id = u.id) with
  | some r => (s.reqDone u.ctx r st [] false false).review
  | none => s

/-- The PUBLISH that a home may decide: the first whose root no earlier request or PUBLISH waits for. -/
def Block.nextPub (b : Block) (g : Nat) : Option Pub :=
  b.pubs.find? (fun u => !u.decided && !b.pubs.any (fun v => v.root = u.root && v.ord < u.ord)
    && !b.conf.any (fun c => c.ord < u.ord && (c.msg.linesAt g).any (fun r => r.line = u.root)))

/-- Root lines registered at a home Block, and those that a decided PUBLISH is about to register (R239). Log 141. -/
def Block.rootCount (b : Block) : Nat := ((b.pubs.filter (·.decided)).foldl (fun l u => setIns l u.root) b.roots).length

/-- Pages of the content, by number. -/
def Pub.pages (u : Pub) : List Nat := (List.range (u.length / pgShift)).map (· + u.base / pgShift)

/-- Sees to the page-table reads of pages: whether one must be waited for. -/
def State.askPages (s : State) (p g : Nat) (ns : List Nat) : State × Bool :=
  ns.foldl (fun (a : State × Bool) n => let (s, x) := a.1.translate p g n; (s, a.2 || (match x with | .read _ => true | _ => false))) (s, false)

/-- What a content page says: its key with its size, or the status of R238. Log 81. -/
def State.contentPage (s : State) (p g n : Nat) : Except Status (Nat × Bool) :=
  match (s.translate p g n).2 with
  | .ok e =>
    if ¬e.wr then .error stPerm
    else if e.dev ≠ s.selfEid then .error stNoTrans
    else
      .ok (if e.ps then (n - n % 64, true) else (n, false))
  | .bad st => .error st
  | .read _ => .error stNoTrans

/-- Whether the content covers a 16 GiB page in part (R237). Log 81. -/
def State.contentPart (s : State) (p g : Nat) (u : Pub) : Bool :=
  u.pages.any (fun n => match (s.translate p g n).2 with
    | .ok e => e.ps && !(u.base / pgShift ≤ n - n % 64 && decide (n - n % 64 + 64 ≤ (u.base + u.length) / pgShift))
    | _ => false)

/-- The first page that fails, or the keys of all. -/
def State.contentKeys (s : State) (p g : Nat) : List Nat → Except Status (List (Nat × Bool))
  | [] => .ok []
  | n :: r => match s.contentPage p g n with
    | .error st => .error st
    | .ok k => match s.contentKeys p g r with
      | .error st => .error st
      | .ok l => .ok (if l.contains k then l else k :: l)

/-- The conflict of two publishers of one version (R238). -/
def State.pubConflict (s : State) (g p : Nat) (u : Pub) (old : List Byte) : State :=
  let s := s.updPart p (fun x => { x with pubConf := satAdd x.pubConf 1 })
  let d2 : BitVec 128 := packSlot [(32, natAt old 40 4), (12, s.selfEid.toNat), (4, 0), (10, u.ctx), (6, 0), (64, 0)]
  s.raise (({ code := 0x2B, unit := uBlk g, d0 := BitVec.ofNat 64 (128 * u.root), d1 := u.version, d2 := d2 } : Event).inPart p (s.part p))

/-- The root line holds the root BUSY from here: the content is sealed, recall walks begin, copies of the root are invalidated. A root
that has no way yet waits for one (R199). `none`: no transaction space or tag. Log 81. -/
def State.pubAccept (s : State) (g p : Nat) (u : Pub) (ks : List (Nat × Bool)) : Option State :=
  let (mt, ts, own) := s.needs g u.root tST 0xFFF 0
  if s.wayLess g u.root then some ((s.evictWay g p u.root).getD s) else
  let start := fun (s : State) (ns : List Snoop) =>
    let s := s.updEnt g u.root (fun e => { e with txn := some { kind := .publish, waits := ns, fwd := false, keepS := false } })
    let s := ks.foldl (fun s k => s.updPage p k.1 (fun y => { y with sealed := true, big := y.big || k.2 })) s
    let gs := (s.blks.map (·.1)).filter (fun h => s.partOfBlk h = some p)
    let s := gs.foldl (fun s h => s.updBlk h (fun b => { b with walks := b.walks ++ [.publish (ks.map (·.1)) u.root] })) s
    s.updBlk g (fun b => { b with pubs := b.pubs.map (fun v => if v = u then { u with walking := gs, decided := true } else v) })
  if ts = [] then some (start s [])
  else if 256 ≤ (s.blk g).txns ∧ (s.ent g u.root).txn.isNone then none
  else (s.snoops g p u.root mt own none ts).map (fun x => start x.2 x.1)

/-- The rows of R238, once no cache owns the root. Log 81. Log 141. -/
def State.pubDecide (s : State) (g p : Nat) (u : Pub) : State :=
  let n := u.root / 2 ^ 21
  let (s, wait) := s.askPages p g (n :: u.pages)
  if wait then s
  else
    let known := (s.blk g).roots.contains u.root
    let old := if known then s.lineBytes g p u.root else List.replicate 128 0
    let vc := natAt old 0 8
    let v := u.version.toNat
    let same : Bool := natAt old 8 8 = u.base && natAt old 16 8 = u.length && natAt old 24 8 = u.ctag.toNat
    let tier := match (s.translate p g n).2 with | .ok e => e.tier.toNat + 4 * b1 e.ps | _ => 0
    let pg := (s.part p).page n
    let keys := s.contentKeys p g u.pages
    let split := s.contentPart p g u
    let s := (n :: u.pages).foldl (fun s n => s.xlateUsed p g n) s
    if pg.state = .lostPage ∨ (known ∧ s.lineBad g p u.root) then s.pubEnd g u stPoison
    else if split then s.pubEnd g u stInvalid
    else if v < vc then s.pubEnd g u stStaleVersion
    else if v = vc ∧ known ∧ same then s.pubEnd g u stOk
    else if v = vc then (s.pubConflict g p u old).pubEnd g u stStaleVersion
    else if pg.sealed then s.pubEnd g u stPerm
    else match keys with
      | .error st => s.pubEnd g u st
      | .ok ks =>
        if ¬known ∧ 256 ≤ (s.blk g).rootCount then s.pubEnd g u stBusy
        else
          let placed : Option State := if pg.state = .unplaced then s.placePage p (if 4 ≤ tier then n - n % 64 else n) (tier % 4) (4 ≤ tier) else some s
          match placed with
          | none => (s.noCapacity p n).pubEnd g u stNoTrans
          | some t => ((t.touchPage p n 1).pubAccept g p u ks).getD s

/-- PUBLISH_DECISION: the home takes a PUBLISH in its order. A root that a cache owns is recalled first; the decision comes with the next
command after its data is back. Log 82. -/
def execPublishDecision (g : BlockId) (s : State) : Res :=
  let g := g.toNat
  match (s.blk g).nextPub g, s.partOfBlk g with
  | some u, some p =>
    let x := s.part p
    if x.killed then .next (s.pubEnd g u stTeardown)
    else if x.state = .fenced then .next (s.pubEnd g u stDead)
    else if (tget x.arriving u.root none).isSome then .next s
    else if ¬x.isHome s.now g u.root then
      .next ((s.updBlk g (fun b => { b with pubs := b.pubs.erase u })).updBlk (homeOf x.blocks u.root)
        (fun b => { b with pubs := b.pubs ++ [{ u with ord := b.ordNext }], ordNext := b.ordNext + 1 }))
    else
      match (s.ent g u.root).txn with
      | some t => if t.kind = .publish ∧ t.waits = [] then .next (s.pubDecide g p u) else .next s
      | none =>
        if (s.ent g u.root).due.isSome then .next s
        else
          let s := s.settleOwner g p u.root
          let (_, ts, own) := s.needs g u.root tST 0xFFF 0
          if own = false ∨ ts = [] then .next (s.pubDecide g p u)
          else if 256 ≤ (s.blk g).txns then .next s
          else match s.snoops g p u.root tBackInv own none ts with
            | none => .next s
            | some (ns, s) => .next (s.updEnt g u.root (fun e => { e with txn := some { kind := .publish, waits := ns, fwd := false, keepS := false } }))
  | _, _ => .next s

/-- The root line of a version (R236). -/
def State.rootBytes (s : State) (u : Pub) : List Byte :=
  leBytes 8 u.version.toNat ++ leBytes 8 u.base ++ leBytes 8 u.length ++ leBytes 8 u.ctag.toNat ++ leBytes 8 s.now
    ++ leBytes 2 s.selfEid.toNat ++ leBytes 2 u.ctx ++ List.replicate 84 0

/-- PUBLISH_COMPLETE: the walks have ended and no copy of the root is left: the root is written and registered (R238). Log 82. -/
def execPublishComplete (g : BlockId) (s : State) : Res :=
  let g := g.toNat
  let ready := fun (u : Pub) => u.decided && u.walking = [] && (match (s.ent g u.root).txn with | some t => t.kind = .publish && t.waits = [] | none => true)
  match (s.blk g).pubs.find? ready, s.partOfBlk g with
  | some u, some p =>
    let s := (s.lineWrite g p u.root 0 (s.rootBytes u) false).updBlk g (fun b => { b with roots := setIns b.roots u.root })
    .next ((s.updEnt g u.root (fun e => { e with mode := .none })).pubEnd g u stOk)
  | _, _ => .next s

end Sys2Proof.Machine
end

