-- ==== Sys2Proof/Machine/Mgmt.lean ====
section
/-! DEFINITION. Register accesses of the management interfaces (14 R426; 15 R434, R435, R451; 17 R485; 18 R494 to R502). -/

namespace Sys2Proof.Machine

/-! ### Clearing counts (R502) -/

/-- Whether a written value has every bit of a field set. -/
def ones (v : BitVec 64) (lo n : Nat) : Bool := sbits v lo n = 2 ^ n - 1
/-- A W1C count at bit `lo`: 0 when every bit of its field is written as one. -/
def w1c (v : BitVec 64) (lo : Nat) (x : BitVec n) : BitVec n := if ones v lo n then 0 else x

/-- A health register: writing all ones to LOW sets it to SCORE (16). -/
def Health.clear (h : Health) (v : BitVec 64) : Health := if ones v 8 8 then { h with low := h.score } else h

/-! ### Square registers -/

/-- SQ_SELF: in force only while every fabric port is DISABLED; it sets the device EID's current incarnation (R498, R506). -/
def State.writeSelf (s : State) (v : BitVec 64) : State :=
  if s.ports.any (fun e => e.2.off = 0 && e.2.state ≠ .disabled) then s
  else
    let e : Eid := BitVec.ofNat 12 (sbits v 0 12)
    let i : Inc := BitVec.ofNat 8 (sbits v 12 8)
    let s := { s with selfEid := e, selfInc := i }
    if e = 0xFFF then s else s.setInc e i

/-- CK_PERIPH_EN: SPI stays on during a SAVE, and a tray port's controller until the port is DISABLED (R451). -/
def State.writePeriph (s : State) (v : BitVec 64) : State :=
  let cxl := listMask 16 ((List.range 16).filter (fun k => sbit v (16 + k) || (s.pw.cxl.getLsbD k && (s.tray k).state ≠ .disabled)))
  { s with pw := { s.pw with spi := sbit v 0 || (s.pw.spi && s.save.isSome), i3c := sbit v 1, tickOut := sbit v 2, trace := sbit v 3, cxl := cxl } }

/-- SQ_LED_CTL: the reserved value 3 changes nothing (log 45). -/
def State.writeLed (s : State) (v : BitVec 64) : State :=
  if sbits v 0 2 = 3 then s else { s with mod := { s.mod with locate := BitVec.ofNat 2 (sbits v 0 2) } }

/-- A write to a Square register with a field that takes writes; `none` where there is none. -/
def State.writeSq (s : State) (o : Nat) (v : BitVec 64) : Option State :=
  if o = 0x10 then some (s.writeSelf v)
  else if o = 0x810 then some { s with boot := { s.boot with seen := w1c v 0 s.boot.seen } }
  else if o = 0x1008 then some { s with tb := { s.tb with lossCnt := w1c v 48 s.tb.lossCnt } }
  else if 0x4000 ≤ o ∧ o < 0x4800 ∧ o % 32 = 24 then
    some (s.updPart ((o - 0x4000) / 32) (fun p => { p with
      migDone := w1c v 0 p.migDone, evictN := w1c v 16 p.evictN, noCap := w1c v 32 p.noCap, pubConf := w1c v 48 p.pubConf }))
  else if o = 0x7000 then some { s with sec := { s.sec with wipes := w1c v 16 s.sec.wipes } }
  else if o = 0x8008 then some (s.writePeriph v)
  else if o = 0x9008 then some (s.powerReq v)
  else if o = 0x9010 then some { s with pw := { s.pw with withheld := w1c v 36 s.pw.withheld } }
  else if o = 0xA008 then some { s with sec := { s.sec with evtDrop := w1c v 0 s.sec.evtDrop } }
  else if o = 0xA010 then some { s with sec := { s.sec with fails := w1c v 0 s.sec.fails } }
  else if o = 0xB000 then some (s.writeLed v)
  else if o = 0xB008 then some { s with mod := { s.mod with presses := w1c v 32 s.mod.presses, longPr := w1c v 48 s.mod.longPr } }
  else if 0xB100 ≤ o ∧ o < 0xB258 then
    let i := (o - 0xB100) / 8
    some (if ones v 16 16 then { s with mod := { s.mod with tmax := tset s.mod.tmax i (tget s.mod.temp i 0) 0 } } else s)
  else none

/-! ### Quarter and Block registers -/

/-- A write to a lane's register block. -/
def State.writeLane (s : State) (l o : Nat) (v : BitVec 64) : Option State :=
  if (s.port l).off ≠ 0 then none
  else if o = 0x08 then
    some (s.updPort l (fun p => { p with crcErr := w1c v 0 p.crcErr, replayCnt := w1c v 16 p.replayCnt, retrainCnt := w1c v 32 p.retrainCnt,
                                         fecCorr := w1c v 48 p.fecCorr }))
  else if o = 0x10 then
    some (s.updPort l (fun p => { p with stale := w1c v 0 p.stale, unbound := w1c v 16 p.unbound, rsvdEnc := w1c v 32 p.rsvdEnc,
                                         downDisc := w1c v 48 p.downDisc }))
  else if 0x60 ≤ o ∧ o < 0xA0 then
    let k := (o - 0x60) / 8
    if k = 0 ∨ k = 2 ∨ k = 5 ∨ k = 6 then
      some (s.updPort l (fun p => let x := tget p.pol k {}; { p with pol := tset p.pol k { x with polcnt := w1c v 32 x.polcnt } {} }))
    else none
  else if o = 0xA0 then some (s.updPort l (fun p => { p with health := p.health.clear v }))
  else none

/-- A write to a Block's space. -/
def State.writeBk (s : State) (g o : Nat) (v : BitVec 64) : Option State :=
  let upd := fun (f : Block → Block) => some (s.updBlk g f)
  if o = 0x400 then upd (fun b => { b with peak := w1c v 8 b.peak })
  else if o = 0x500 then upd (fun b => { b with hit := w1c v 0 b.hit, unknown := w1c v 16 b.unknown, full := w1c v 32 b.full, clash := w1c v 48 b.clash })
  else if o = 0x508 then
    upd (fun b => { b with timeout := w1c v 0 b.timeout, lateRsp := w1c v 16 b.lateRsp, staleReq := w1c v 32 b.staleReq, teardown := w1c v 48 b.teardown })
  else if o = 0x608 then
    upd (fun b => { b with backInv := w1c v 0 b.backInv, staleWb := w1c v 16 b.staleWb, hotPin := w1c v 32 b.hotPin, hotFull := w1c v 48 b.hotFull })
  else if o = 0x610 then upd (fun b => { b with lostLog := if ones v 0 13 then [] else b.lostLog, lostOvf := w1c v 16 b.lostOvf })
  else if o = 0x708 then
    upd (fun b => { b with stray := w1c v 0 b.stray, countErr := w1c v 16 b.countErr, lostCnt := w1c v 32 b.lostCnt, overrun := w1c v 48 b.overrun })
  else if o = 0xA00 then upd (fun b => { b with fetch := w1c v 0 b.fetch, fold := w1c v 32 b.fold })
  else if o = 0xA08 then upd (fun b => { b with gFail := w1c v 0 b.gFail, gDeliv := w1c v 16 b.gDeliv })
  else if o = 0xA10 then
    upd (fun b => { b with scanRec := if ones v 0 32 then 0 else b.scanRec, poisRec := w1c v 32 b.poisRec, fullStop := w1c v 48 b.fullStop })
  else if o = 0xA18 then upd (fun b => { b with spill := w1c v 0 b.spill, noPlace := w1c v 32 b.noPlace, omitN := w1c v 48 b.omitN })
  else if o = 0xB00 then upd (fun b => { b with recs := if ones v 0 32 then 0 else b.recs, tiles := w1c v 32 b.tiles })
  else if o = 0xB08 then upd (fun b => { b with kBad := w1c v 0 b.kBad, nanOut := w1c v 16 b.nanOut, sColl := w1c v 32 b.sColl, poisRow := w1c v 48 b.poisRow })
  else if o = 0xC10 then upd (fun b => { b with bankColl := w1c v 0 b.bankColl })
  else if o = 0xC18 then upd (fun b => { b with parks := w1c v 0 b.parks, bringIn := w1c v 16 b.bringIn, hold := w1c v 32 b.hold, abandon := w1c v 48 b.abandon })
  else if o = 0xC20 then upd (fun b => { b with fenceDrop := w1c v 0 b.fenceDrop })
  else if o = 0xD00 then upd (fun b => { b with health := b.health.clear v })
  else none

/-- Whether a Quarter's offset belongs to the CXL controller of a tray port whose clock is gated (R451). -/
def State.gatedCx (s : State) (q o : Nat) : Bool :=
  0x6000 ≤ o && o < 0x6100 && (o % 64 = 0 || o % 64 = 8) && !s.pw.cxl.getLsbD (4 * q + (o - 0x6000) / 64)

/-- A write to a Quarter's space. -/
def State.writeQt (s : State) (q o : Nat) (v : BitVec 64) : Option State :=
  let upd := fun (f : Quarter → Quarter) => some (s.updQtr q f)
  if o = 0x2010 then upd (fun x => { x with unroute := w1c v 0 x.unroute, rsLate := w1c v 16 x.rsLate, rsGap := w1c v 32 x.rsGap, mcDrop := w1c v 48 x.mcDrop })
  else if o = 0x2020 then upd (fun x => if ones v 0 18 then { x with hwmPool := 0, hwmPoolTick := 0 } else x)
  else if o = 0x2028 then upd (fun x => if ones v 0 20 then { x with hwmDelay := 0, hwmQueue := 0, hwmDelayTick := 0 } else x)
  else if o = 0x2030 then upd (fun x => { x with pktUe := w1c v 0 x.pktUe, bufCe := w1c v 16 x.bufCe })
  else if 0x6000 ≤ o ∧ o < 0x6100 ∧ o % 64 = 8 then
    some (s.updTray (4 * q + (o - 0x6000) / 64) (fun t => { t with poisonRx := w1c v 0 t.poisonRx, retrain := w1c v 16 t.retrain, surprise := w1c v 32 t.surprise }))
  else if 0x20000 ≤ o ∧ o < 0x28000 then s.writeLane (128 * q + (o - 0x20000) / 256) (o % 256) v
  else if 0x30000 ≤ o ∧ o < 0x38000 ∧ o % 16 = 8 then
    let n := (o - 0x30000) / 16
    if s.nUsed q n then some (s.updQueue q n (fun u => { u with refused := w1c v 32 u.refused })) else none
  else if 0x60000 ≤ o ∧ o < 0x60A00 ∧ o % 16 = 0 then
    let c := (o - 0x60000) / 16
    upd (fun x => { x with mcHealth := tset x.mcHealth c ((tget x.mcHealth c {}).clear v) {} })
  else if 0x61000 ≤ o ∧ o < 0x61080 ∧ o % 16 = 0 then
    let c := (o - 0x61000) / 16
    upd (fun x => { x with stackHealth := tset x.stackHealth c ((tget x.stackHealth c {}).clear v) {} })
  else if 0x100000 ≤ o ∧ o < 0x300000 then s.writeBk (16 * q + (o - 0x100000) / 0x20000) (o % 0x20000) v
  else none

/-! ### Accesses (R434, R435, R495 to R499) -/

/-- Which interface an offset's control window belongs to, and the offset in it. -/
def windowOf (o : Nat) : Option (Mctp × Nat) :=
  if 0xC000 ≤ o ∧ o < 0xC800 then some (.pcie, o - 0xC000) else if 0xC800 ≤ o ∧ o < 0xD000 then some (.i3c, o - 0xC800) else none

def State.window (s : State) (m : Mctp) : Window := match m with | .pcie => s.winP | .i3c => s.winI
def State.updWindow (s : State) (m : Mctp) (f : Window → Window) : State :=
  match m with
  | .pcie => { s with winP := f s.winP }
  | .i3c => { s with winI := f s.winI }

/-- Whether an interface answers register accesses: from the end of step 1, over I3C unless its target is gated (R434, R451). -/
def State.answers (s : State) (m : Mctp) : Bool := s.alive && 2 ≤ s.boot.step.toNat && (m = .pcie || s.pw.i3c)

/-- Whether Quarter and Block registers are there: from the end of step 2, and while the Quarters are powered (R434; log 46). -/
def State.quarterRegs (s : State) : Bool := 3 ≤ s.boot.step.toNat && s.pw.state ≠ 3

/-- What an interface reads at an offset that is a multiple of 8. -/
def State.mgmtRead (s : State) (m : Mctp) (o : Nat) : BitVec 64 :=
  if s.boot.step = 7 then (if o = 0x800 ∨ o = 0x810 then s.readSq o else 0)
  else match windowOf o with
    | some (w, r) => if w = m then (s.window w).read r else 0
    | none =>
      if o < 0x01000000 then s.readSq o
      else if o < 0x02000000 ∧ s.quarterRegs then
        let q := (o - 0x01000000) / 0x400000
        if s.gatedCx q (o % 0x400000) then 0 else s.readQt q (o % 0x400000)
      else 0

/-- A write to CTLW_GO: the staged instruction and its first ARGLEN slots enter the control queue (R499). -/
def State.go (s : State) (m : Mctp) (v : BitVec 64) : State :=
  let w := s.window m
  if ¬sbit v 0 then s
  else if w.busy then s.updWindow m (fun w => { w with dropGo := satAdd w.dropGo 1 })
  else
    let n := min 63 (sbits w.insn 72 12)
    let args := (List.range n).map (fun i => tget w.args (i + 1) 0)
    { s.updWindow m (fun w => { w with busy := true, done := false }) with ctlq := s.ctlq ++ [(viaOf m, w.insn, args)] }

/-- A slot with one 64-bit half replaced. -/
def putHalf (x : Slot) (hi : Bool) (v : BitVec 64) : Slot :=
  if hi then BitVec.ofNat 128 (sbits x 0 64 + 2 ^ 64 * v.toNat) else BitVec.ofNat 128 (v.toNat + 2 ^ 64 * sbits x 64 64)

/-- A write in a control window by its own interface (R499). -/
def State.writeWindow (s : State) (m : Mctp) (o : Nat) (v : BitVec 64) : State :=
  if o = 0x400 then s.go m v
  else if o = 0x408 then s.updWindow m (fun w => { w with dropGo := w1c v 16 w.dropGo })
  else if o < 0x400 ∧ ¬(s.window m).busy then
    let hi : Bool := o % 16 = 8
    let a := o / 16
    s.updWindow m (fun w => if a = 0 then { w with insn := putHalf w.insn hi v } else { w with args := tset w.args a (putHalf (tget w.args a 0) hi v) 0 })
  else s

/-- The source code of an interface in the journal (R425). -/
def srcOf (m : Mctp) : BitVec 8 := match m with | .pcie => 0 | .i3c => 1

/-- The field that takes writes at an offset acts, if there is one. -/
def State.writeReg (s : State) (o : Nat) (v : BitVec 64) : Option State :=
  if o < 0x01000000 then s.writeSq o v
  else if o < 0x02000000 ∧ s.quarterRegs then s.writeQt ((o - 0x01000000) / 0x400000) (o % 0x400000) v
  else none

/-- A write of 8 bytes by an interface at an offset that is a multiple of 8, journalled where a field takes writes (R426, R451, R495). A
software reset is journalled before it acts. -/
def State.mgmtWrite (s : State) (m : Mctp) (o : Nat) (v : BitVec 64) : State :=
  if ¬s.answers m ∨ s.boot.step = 7 then s
  else match windowOf o with
    | some (w, r) =>
      if w ≠ m then s
      else if r = 0x408 then
        let t := s.writeWindow m r v
        t.journalOne (srcOf m) (BitVec.ofNat 32 o) ((s.window m).read r) ((t.window m).read r)
      else s.writeWindow m r v
    | none =>
      let q := (o - 0x01000000) / 0x400000
      if 0x01000000 ≤ o ∧ o < 0x02000000 ∧ s.quarterRegs ∧ s.gatedCx q (o % 0x400000) ∧ o % 64 = 8 then
        s.journalOne (srcOf m) (BitVec.ofNat 32 o) 0 0
      else match s.writeReg o v with
        | none => s
        | some t =>
          let t := t.journalOne (srcOf m) (BitVec.ofNat 32 o) (s.readReg o) (t.readReg o)
          if t.pw.trans = some 7 then t.warmStart 8 0 else t

end Sys2Proof.Machine
end

