-- ==== Sys2Proof/Machine/RowsReg.lean ====
section
/-! DEFINITION. Meanings of register accesses, control windows, SPDM, JTAG and CALSET (14 R418 to R430; 15 R443 to R446, R451, R454; 18 R495 to
R502). -/

namespace Sys2Proof.Machine

/-! ### Register writes -/

/-- PW_REQ with a given REQ (R454). -/
def State.pwReq (s : State) (m : Mctp) (v : BitVec 64) (req : Nat) : Res := if sbits v 0 3 = req then .next (s.mgmtWrite m 0x9008 v) else .next s

/-- A write to PW_REQ requests P0. -/
def execPwReqP0 (m : Mctp) (v : BitVec 64) (s : State) : Res := s.pwReq m v 0
/-- A write to PW_REQ requests P2. -/
def execPwReqP2 (m : Mctp) (v : BitVec 64) (s : State) : Res := s.pwReq m v 2
/-- A write to PW_REQ requests P3. -/
def execPwReqP3 (m : Mctp) (v : BitVec 64) (s : State) : Res := s.pwReq m v 3
/-- A write to PW_REQ requests P4. -/
def execPwReqP4 (m : Mctp) (v : BitVec 64) (s : State) : Res := s.pwReq m v 4
/-- A write to PW_REQ requests a software reset. -/
def execPwReqSwreset (m : Mctp) (v : BitVec 64) (s : State) : Res := s.pwReq m v 7

/-- A management write (R495, R502): aligned and 8 bytes wide, or refused. Log 24. -/
def execRegisterWrite (m : Mctp) (off : BitVec 32) (width : Nat) (v : BitVec 64) (s : State) : Res :=
  if width = 8 ∧ off.toNat % 8 = 0 then .next (s.mgmtWrite m off.toNat v) else .next s

/-- A write to SQ_SELF (R498). -/
def execSqSelfWrite (m : Mctp) (v : BitVec 64) (s : State) : Res := .next (s.mgmtWrite m 0x10 v)
/-- A write to CK_PERIPH_EN (R451). -/
def execCkPeriphEnWrite (m : Mctp) (v : BitVec 64) (s : State) : Res := .next (s.mgmtWrite m 0x8008 v)
/-- A write to SQ_LED_CTL (R489). -/
def execSqLedCtlWrite (m : Mctp) (v : BitVec 64) (s : State) : Res := .next (s.mgmtWrite m 0xB000 v)

/-- A write to CTLW_GO of the writer's own window (R499). -/
def execCtlwGoWrite (m : Mctp) (v : BitVec 64) (s : State) : Res :=
  .next (s.mgmtWrite m (match m with | .pcie => 0xC400 | .i3c => 0xCC00) v)

/-- A register access over I3C (R496): a message of 16 bytes; one that is neither a read nor a write, or whose bytes 1 to 3 are not zero, has
no effect (log 47). Log 121. -/
def execI3cRegisterAccess (req : List Byte) (s : State) : Res :=
  if req.length ≠ 16 then .fault .malformedCommand
  else
    let op := natAt req 0 1
    let o := natAt req 4 4
    if ¬s.answers .i3c ∨ 1 < op ∨ natAt req 1 3 ≠ 0 then .next s
    else
      let reply := fun (bad : Nat) (v : BitVec 64) => Output.i3cResp (leBytes 8 bad ++ leBytes 8 v.toNat)
      if o % 8 ≠ 0 then .next (s.emit (reply 1 0))
      else if op = 0 then .next (s.emit (reply 0 (s.mgmtRead .i3c o)))
      else .next ((s.mgmtWrite .i3c o (BitVec.ofNat 64 (natAt req 8 8))).emit (reply 0 0))

/-- The staged contents of a control window go; a submission under way completes as before (R461, R500). -/
def Window.reset (w : Window) : Window := { w with insn := 0, args := [], dropGo := 0 }

/-- A reset of the PCIe endpoint (R461, R500). -/
def execPcieHotReset (s : State) : Res := if s.alive then .next { s with winP := s.winP.reset } else .next s
/-- A reset of the I3C target (R500). -/
def execI3cTargetReset (s : State) : Res := if s.alive then .next { s with winI := s.winI.reset } else .next s

/-! ### SPDM (R418 to R424) -/

/-- SPDM answers over a transport: fully, or in recovery mode and in a SCRAPPED module as the ROM alone (R419, R434, R435). -/
def State.spdmUp (s : State) (m : Mctp) : Bool := s.alive && (m = .pcie || s.pw.i3c) && (2 ≤ s.boot.step.toNat || s.sec.lc = .scrapped)
def State.spdmRom (s : State) : Bool := s.boot.step = 7 || s.sec.lc = .scrapped

/-- Runs a request of the full responder. -/
def State.onSpdm (s : State) (m : Mctp) (f : State → State) : Res := if s.spdmUp m ∧ ¬s.spdmRom then .next (f s) else .next s

/-- A response: its code of SPDM 1.2 (PRESUMED, log 48) and what it carries. -/
def State.spdmSay (s : State) (m : Mctp) (code : Nat) (body : List Byte) : State := s.emit (.spdm m code body)
def State.spdmError (s : State) (m : Mctp) (code : Nat) : State := s.spdmSay m 0x7F [BitVec.ofNat 8 code]
abbrev errInvalid : Nat := 0x01
abbrev errUnspecified : Nat := 0x05

/-- Certificate slots that hold a chain (R418, R421). -/
def State.slotHeld (s : State) (i : Nat) : Bool :=
  if i = 0 then s.sec.lc ≠ .scrapped else s.sec.lc = .deployed && s.sec.caskV

/-- GET_VERSION: 1.2, from the ROM too. -/
def execSpdmGetVersion (m : Mctp) (s : State) : Res := if s.spdmUp m then .next (s.spdmSay m 0x04 [0x12]) else .next s

/-- GET_CAPABILITIES: certificates, challenges, signed measurements; no key exchange (R423). -/
def execSpdmGetCapabilities (m : Mctp) (s : State) : Res := s.onSpdm m (fun s => s.spdmSay m 0x61 (leBytes 4 0x16))

/-- NEGOTIATE_ALGORITHMS: ECDSA P-384 and SHA-384 where offered, nothing else (R423). -/
def execSpdmNegotiateAlgorithms (m : Mctp) (p384 sha384 : Bool) (s : State) : Res :=
  s.onSpdm m (fun s => s.spdmSay m 0x63 [BitVec.ofNat 8 (b1 p384), BitVec.ofNat 8 (b1 sha384)])

/-- GET_DIGESTS: the mask of slots, then the digest of each chain. -/
def execSpdmGetDigests (m : Mctp) (s : State) : Res :=
  s.onSpdm m (fun s =>
    let is := (List.range 8).filter s.slotHeld
    s.spdmSay m 0x01 (BitVec.ofNat 8 (listMask 8 is).toNat :: is.flatMap (fun i => sha384 (Config.certChain i))))

/-- GET_CERTIFICATE: a chain, or none (R421). -/
def execSpdmGetCertificate (m : Mctp) (slot : BitVec 3) (s : State) : Res :=
  s.onSpdm m (fun s => s.spdmSay m 0x02 (if s.slotHeld slot.toNat then Config.certChain slot.toNat else []))

/-- CHALLENGE: signed with the alias key, or Unspecified while the cask is wiped (R421). -/
def execSpdmChallenge (m : Mctp) (slot : BitVec 3) (nonce : BitVec 256) (s : State) : Res :=
  s.onSpdm m (fun s =>
    if ¬s.sec.caskV then s.spdmError m errUnspecified
    else if ¬s.slotHeld slot.toNat then s.spdmError m errInvalid
    else
      let body := BitVec.ofNat 8 slot.toNat :: sha384 (Config.certChain slot.toNat)
      s.spdmSay m 0x03 (body ++ Config.sign (leBytes 32 nonce.toNat ++ body)))

/-- An overlay as the 16 bytes of its record (R445). Log 38. -/
def Overlay.bytes (o : Overlay) : List Byte := leBytes 16 (pack [(8, o.param.toNat), (16, o.index.toNat), (8, 0), (24, o.value.toNat)])

/-- The content of a measurement index (R424); `none` for an unused one. Log 38. -/
def State.measure (s : State) (i : Nat) : Option (List Byte) :=
  let v := s.fuse.variant
  match i with
  | 1 | 2 | 3 | 4 | 5 => some (Config.imageDigest s.boot.image i)
  | 6 => some (leBytes 9 (pack [(16, 0x7100), (8, v.code), (16, v.qeng), (16, v.qcore), (16, v.env)]) ++ [BitVec.ofNat 8 (lcCode s.sec.lc)])
  | 7 => some (sha384 (s.calset.flatMap Overlay.bytes))
  | 8 => some Config.trainingDigest
  | 9 => some (bytesAt s.sec.jdig 0 48 ++ leBytes 8 (s.sec.jseq - 1).toNat)
  | 10 => some [BitVec.ofNat 8 (dbgCode s.sec.debug), BitVec.ofNat 8 (lcCode s.sec.lc), BitVec.ofNat 8 (b1 s.sec.caskV)]
  | 11 => some (Config.imageSvn s.boot.image)
  | _ => none

/-- GET_MEASUREMENTS (R421, R424): index 0 asks for their number, 0xFF for all. The ROM alone answers index 6, unsigned. -/
def execSpdmGetMeasurements (m : Mctp) (index : BitVec 8) (signed : Bool) (nonce : BitVec 256) (s : State) : Res :=
  let i := index.toNat
  let blk := fun (k : Nat) => match s.measure k with | some b => BitVec.ofNat 8 k :: b | none => []
  if ¬s.spdmUp m then .next s
  else if s.spdmRom then (if i = 6 ∧ ¬signed then .next (s.spdmSay m 0x60 (blk 6)) else .next s)
  else if signed ∧ ¬s.sec.caskV then .next (s.spdmError m errUnspecified)
  else if i ≠ 0 ∧ i ≠ 0xFF ∧ (s.measure i).isNone then .next (s.spdmError m errInvalid)
  else
    let body := if i = 0 then [11] else if i = 0xFF then (List.range 12).flatMap blk else blk i
    .next (s.spdmSay m 0x60 (if signed then body ++ Config.sign (leBytes 32 nonce.toNat ++ body) else body))

/-- Whether a life-cycle change is an arrow of R418, and whether it needs a token (R419). -/
def lcArrow (old new : LifeCycle) : Option Bool :=
  match old, new with
  | .manufacture, .provisioned => some true
  | .provisioned, .deployed => some false
  | .provisioned, .scrapped => some false
  | .deployed, .returned => some true
  | .deployed, .scrapped => some false
  | .returned, .scrapped => some false
  | _, _ => none

/-- LCSET: the fuses, the cask wiped, a journal entry, LIFECYCLE, and a reset with cause LIFECYCLE (R419, R420). Logs 29, 39. -/
def execSpdmLcset (m : Mctp) (goal : LifeCycle) (token : Bool) (s : State) : Res :=
  s.onSpdm m (fun s =>
    let ok : Bool := match lcArrow s.sec.lc goal with | some t => !t || token | none => false
    if ¬ok ∨ s.parts.any (fun e => e.2.state ≠ .none) then s.spdmError m errUnspecified
    else
      let old := s.sec.lc
      let s := s.wipe 5 (srcOf m)
      let s := s.journalOne (srcOf m) 0x7000 (s.readSq 0x7000) ({ s with sec := { s.sec with lc := goal } }.readSq 0x7000)
      let s := s.raise { code := 0x46, unit := uSquare, d0 := BitVec.ofNat 64 (lcCode old), d1 := BitVec.ofNat 64 (lcCode goal) }
      let s := s.spdmSay m 0x7E []
      { s with fuse := { s.fuse with lc := goal } }.warmStart 5 0)

/-! ### JTAG (R428 to R430) -/

/-- Whether a level may be unlocked (R429). -/
def debugAllowed (lc : LifeCycle) (level : DebugLevel) (token : Bool) : Bool :=
  match lc, level with
  | .scrapped, _ => false
  | .manufacture, .invasive => true
  | .returned, .invasive => token
  | _, .invasive => false
  | _, _ => true

/-- The level changes: journalled with SRC 5, and DEBUG raised. -/
def State.setDebug (s : State) (level : DebugLevel) : State :=
  let old := s.readSq 0x7000
  let s := { s with sec := { s.sec with debug := level } }
  (s.journalOne 5 0x7000 old (s.readSq 0x7000)).raise { code := 0x47, unit := uSquare, d0 := BitVec.ofNat 64 (dbgCode level) }

/-- An unlock request: a higher level, or refused and journalled; invasive debug wipes the cask first (R429, R430). Log 39. -/
def execJtagUnlock (level : DebugLevel) (token : Bool) (s : State) : Res :=
  if ¬s.alive ∨ (s.boot.step = 1 ∧ s.sec.lc ≠ .scrapped) ∨ s.boot.step = 7 ∨ dbgCode level ≤ dbgCode s.sec.debug then .next s
  else if ¬debugAllowed s.sec.lc level token then .next (s.journalOne 5 0x7000 (s.readSq 0x7000) (s.readSq 0x7000))
  else if level = .invasive then .next ((s.wipe 6 5).setDebug level)
  else .next (s.setDebug level)

/-- A lock request: a lower level. Log 39. -/
def execJtagLock (level : DebugLevel) (s : State) : Res :=
  if s.alive ∧ dbgCode level < dbgCode s.sec.debug then .next (s.setDebug level) else .next s

/-! ### CALSET (R443 to R446) -/

/-- Whether PARAM, INDEX and VALUE of an overlay are in range (R445). -/
def overlayOk (p i : Nat) (v : Int) : Bool :=
  let within := fun (n : Int) => -n ≤ v && v ≤ n
  match p with
  | 0x01 => i < 640 && 0 ≤ v && v ≤ 1
  | 0x02 => i < 640 && within 20
  | 0x03 | 0x04 => i < 640 && within 8
  | 0x05 => i < 640 && within 4
  | 0x10 => i < 256 && within 16
  | 0x11 => i < 384 && within 16
  | 0x20 => i < 43 && within 40
  | _ => false

/-- The overlay of an argument slot, if it is legal. -/
def overlayOf (a : Slot) : Option Overlay :=
  if sbits a 24 8 ≠ 0 ∨ sbits a 56 72 ≠ 0 ∨ ¬overlayOk (sbits a 0 8) (sbits a 8 16) (signed 24 (sbits a 32 24)) then none
  else some { param := BitVec.ofNat 8 (sbits a 0 8), index := BitVec.ofNat 16 (sbits a 8 16), value := BitVec.ofNat 24 (sbits a 32 24) }

/-- Overlays by PARAM and INDEX. -/
def Overlay.key (o : Overlay) : Nat := 65536 * o.param.toNat + o.index.toNat

/-- Puts an overlay in force in place of one for the same PARAM and INDEX. -/
def putOverlay (l : List Overlay) (o : Overlay) : List Overlay :=
  match l with
  | [] => [o]
  | x :: r => if o.key < x.key then o :: x :: r else if o.key = x.key then o :: r else x :: putOverlay r o

/-- The overlays in force after APPLY, if its records are legal and at most 256 remain. -/
def CtlInsn.applied (ci : CtlInsn) (l : List Overlay) : Option (List Overlay) :=
  let os := ci.args.map overlayOf
  if os.any (·.isNone) then none
  else
    let t := (os.filterMap id).foldl putOverlay l
    if t.length ≤ 256 then some t else none

/-- CALSET APPLY. -/
def execCalsetApply (via : Via) (ci : CtlInsn) (s : State) : Res :=
  s.runCtl via ci 0x88 0 (looks (fun s => formed (ci.form 0 0 (1 ≤ ·) && (CtlInsn.applied ci s.calset).isSome) stOk))
    (plain (fun s => { s with calset := (CtlInsn.applied ci s.calset).getD s.calset }))

/-- What REMOVE leaves, if it names an overlay in force or all of them. -/
def CtlInsn.removed (ci : CtlInsn) (l : List Overlay) : Option (List Overlay) :=
  if ci.modf = 1 then some []
  else
    let k := 65536 * ci.f 0 8 + ci.f 8 16
    if l.any (fun o => o.key = k) then some (l.filter (fun o => o.key ≠ k)) else none

/-- CALSET REMOVE. Log 37. -/
def execCalsetRemove (via : Via) (ci : CtlInsn) (s : State) : Res :=
  s.runCtl via ci 0x88 1 (looks (fun s => formed (ci.form 24 1 (· = 0) && (CtlInsn.removed ci s.calset).isSome) stOk))
    (plain (fun s => { s with calset := (CtlInsn.removed ci s.calset).getD s.calset }))

/-- CALSET SAVE: the overlays go to the older copy; it completes when the write is done (R443). Log 37. -/
def execCalsetSave (via : Via) (ci : CtlInsn) (s : State) : Res :=
  s.runCtl via ci 0x88 2
    (looks (fun s => if ¬ci.form 0 0 (· = 0) then stInvalid else if s.save.isSome ∨ ¬s.pw.spi then stBusy else stOk))
    (fun s c => ({ s with save := some c, flashOld := s.calset }, none))

/-- CALSET_SAVE_DONE: the copy written is the current one; RESULT counts the units saved (R443). Log 37. -/
def execCalsetSaveDone (memUnits sdsUnits : BitVec 8) (s : State) : Res :=
  match s.save with
  | none => .next s
  | some c =>
    let t := { s with save := none, flash := s.flashOld, flashOld := s.flash }
    .next (t.ctlOk t c 0x88 2 (memUnits.toNat + 256 * sdsUnits.toNat))

end Sys2Proof.Machine
end

