-- ==== Sys2Proof/Machine/Submit.lean ====
section
/-! DEFINITION. Submission of programs (12 R370 to R372). -/

namespace Sys2Proof.Machine

/-! ### The image -/

/-- Fields of an image's header. -/
def imN (v : List Byte) : Nat := natAt v 0 2
def imD (v : List Byte) : Nat := natAt v 2 2
def imS (v : List Byte) : Nat := natAt v 4 1
def imShare (v : List Byte) : Nat := natAt v 5 1
def imProff (v : List Byte) : Nat := natAt v 8 4
def imDtoff (v : List Byte) : Nat := natAt v 12 4

/-- Whether an image's header is well formed. -/
def imHead (v : List Byte) : Bool :=
  1 ≤ imN v && imD v ≤ 256 && imS v ≤ 8 && 1 ≤ imShare v && natAt v 6 2 = 0 && natAt v 16 48 = 0

/-- Bytes of an image. -/
def imLen (v : List Byte) : Nat := 64 + 32 * imS v + 64 * imD v + 16 * imN v

/-- Cuts a run of an image into legal requests. -/
def imCut (addr o n : Nat) : Nat → List (Nat × Nat)
  | 0 => []
  | fuel + 1 => if n = 0 then [] else let k := nextPiece (addr + o) n; (o, k) :: imCut addr (o + k) (n - k) fuel

/-- The reads of an image: its header, and the rest once a well-formed header is known. -/
def Image.pieces (m : Image) : List (Nat × Nat) :=
  (0, 64) :: (match tfind m.got 0 with
    | some v => if imHead v then imCut m.addr 64 (imLen v - 64) (imLen v) else []
    | none => [])
def Image.has (m : Image) (o : Nat) : Bool := (tfind m.got o).isSome || tget m.bst o stOk ≠ stOk

/-- Asks for the pieces of an image that are neither answered nor outstanding. -/
def State.imageAsk (s : State) (c : Nat) : List (Nat × Nat) → State
  | [] => s
  | (o, n) :: r =>
    match (s.ctx c).image with
    | none => s
    | some m =>
      let fail := fun (s : State) st => s.updCtx c (fun x => { x with image := x.image.map (fun m => { m with bst := tset m.bst o st stOk }) })
      if m.has o ∨ (s.ctx c).reqs.any (fun q => !q.aband && q.dest = .image o n) then s.imageAsk c r
      else if 2 ^ 48 < m.addr + o + n then (fail s stNoTrans).imageAsk c r
      else match s.request c eGath 0xFFFF 0 (pktLd (m.addr + o) n) o (.image o n) with
        | (s, .ok _) => s.imageAsk c r
        | (s, .fail st) => (fail s st).imageAsk c r
        | (s, _) => s

/-- Goes on reading an image. Log 74. -/
def State.imageRead (s : State) (c : Nat) : State :=
  match (s.ctx c).image with
  | some m => s.imageAsk c m.pieces
  | none => s

/-- A piece of an image has been read, or its read failed. -/
def State.imageTake (s : State) (c o : Nat) (v : List Byte) (st : Status) : State :=
  (s.updCtx c (fun x => { x with image := x.image.map (fun m =>
    { m with got := if v = [] then m.got else tins (tdel m.got o) o v, bst := tset m.bst o st stOk }) })).imageRead c

/-! ### The checks of R371 -/

/-- Opcodes of a program, by index. Log 73. -/
def opcs (ws : List (BitVec 128)) : List Insn := ws.map insnOf

/-- Pairs of LOOP and ENDLOOP, or `none` when they do not match or nest more than four deep. -/
def loopPairs : List (Nat × Insn) → List Nat → List (Nat × Nat) → Option (List (Nat × Nat))
  | [], st, ps => if st = [] then some ps else none
  | (k, i) :: r, st, ps =>
    if i.opc = 0x28 then (if 4 ≤ st.length then none else loopPairs r (k :: st) ps)
    else if i.opc = 0x29 then (match st with | j :: t => loopPairs r t ((j, k) :: ps) | [] => none)
    else loopPairs r st ps

/-- Whether the SKIP at `k` passes over instructions of the program, and over no half of a loop. -/
def skipOk (n : Nat) (ps : List (Nat × Nat)) (k : Nat) (i : Insn) : Bool :=
  let m := bits i.imm 0 8
  let inside := fun (j : Nat) => k < j && j ≤ k + m
  i.opc ≠ 0x2A || (k + m < n && ps.all (fun p => inside p.1 = inside p.2))

/-- Whether a program may run (R371). -/
def progOk (ws : List (BitVec 128)) : Bool :=
  let is := opcs ws
  let ks := (List.range is.length).zip is
  (match is.getLast? with | some i => i.opc = 0x2E | none => false) && (match loopPairs ks [] [] with
    | some ps => ks.all (fun x => skipOk is.length ps x.1 x.2)
    | none => false)

/-! ### The rows -/

/-- The port that a submission came by, admitted as an endpoint (R370). -/
def State.submitPort (s : State) (m : Msg) : Option Nat :=
  let p := s.port m.lane
  if p.enabled ∧ p.role = 1 ∧ p.peerEid = m.pkt.seid then some m.lane else s.eidPort m.pkt.seid

/-- Why a submission is refused before its image is read (R370, R372). Log 75. -/
def State.submitCheck (s : State) (m : Msg) : Except Status Nat :=
  let k := m.pkt
  let w := (k.data[0]?).getD 0
  let c := sbits w 0 10
  match s.submitPort m with
  | none => .error stPerm
  | some l =>
    let p := s.port l
    if k.job = 0 ∨ p.job ≠ k.job then .error stPerm
    else if p.killed then .error stTeardown
    else match s.partOfBlk (c / 16) with
      | none => .error stPerm
      | some q =>
        let x := s.part q
        if x.job ≠ k.job ∨ x.state ≠ .bound then .error stPerm
        else if x.killed then .error stTeardown
        else if (s.ctx c).holds then .error stBusy
        else if sbits w 16 48 % 64 ≠ 0 then .error stInvalid
        else .ok l

/-- A SUBMIT is checked, and its image read through the port's segments; a refusal is answered at once (R370, R372). Log 74. -/
def execSubmit (q : QId) (s : State) : Res :=
  let s := s.dropSinks q.toNat (s.queue q.toNat nSquare).pkts.length
  match s.takeHead q.toNat nSquare with
  | none => .next s
  | some (h, t) =>
    let k := h.msg.pkt
    if k.mtype ≠ 2 then .next s
    else
      let w := (k.data[0]?).getD 0
      let c := sbits w 0 10
      match t.submitCheck h.msg with
      | .error st => .next (t.sendSq { pkt := t.ctlDone k 3 (packSlot [(16, st.toNat), (16, 0xFFFF), (10, c), (22, 0), (64, t.now)]) })
      | .ok l =>
        let t := t.updCtx c (fun x => { x with segs := (t.port l).segs, srcEid := k.seid, srcInc := k.sinc, srcTag := k.tag,
                                               image := some { addr := sbits w 16 48, lane := l } })
        .next (t.imageRead c)

/-- Writes the rest of a refused submission: SUBDONE, and the slot as it was (R372). Log 75. -/
def State.submitRefuse (s : State) (c : Nat) (st : Status) : State :=
  (s.subdone c st 0xFFFF).updCtx c (fun x => { x with image := none, segs := [], srcEid := 0, srcInc := 0, srcTag := 0 })

/-- The program of an image that passed: descriptors and instructions in the context's banks, and the context READY (R370, R380, R382). Logs 64, 74. -/
def State.startProg (s : State) (c : Nat) (v : List Byte) : State :=
  let x := s.ctx c
  let a := 64 + 32 * imS v
  let descs := bytesAt v a (64 * imD v) ++ List.replicate (64 * (256 - imD v)) 0
  let segs := segsOf ((List.range (imS v)).map (fun i => natAt v (64 + 32 * i) 32))
  let s := (s.bankWrite c (imDtoff v) descs false).bankWrite c (imProff v) (bytesAt v (a + 64 * imD v) (16 * imN v)) false
  let s := s.updBlk (c / 16) (fun b => { b with run := b.run.filter (fun e => match e.2 with | some r => r.ctx ≠ c | none => false) })
  ((s.setCtx c { state := .ready, share := BitVec.ofNat 8 (imShare v), since := BitVec.ofNat 28 s.now, proff := BitVec.ofNat 32 (imProff v),
                 dtoff := BitVec.ofNat 32 (imDtoff v), ninstr := BitVec.ofNat 16 (imN v), segs := segs, reqNext := x.reqNext, srcEid := x.srcEid,
                 srcInc := x.srcInc, srcTag := x.srcTag, ovr := x.ovr }).leaveP1).review

/-- What a whole image says: a status that refuses it (R371, R372). Log 75. -/
def State.imageCheck (s : State) (c : Nat) (v : List Byte) : Status :=
  if imHead v = false then stInvalid
  else
    let segs := (List.range (imS v)).map (fun i => natAt v (64 + 32 * i) 32)
    let o := 64 + 32 * imS v + 64 * imD v
    let ws := (List.range (imN v)).map (fun i => BitVec.ofNat 128 (natAt v (o + 16 * i) 16))
    if segs.any (fun g => !segLegal g) then stInvalid
    else if progOk ws = false then stInvalid
    else if s.owns c (imProff v) (16 * imN v) = false ∨ s.owns c (imDtoff v) 16384 = false then stInvalid
    else stOk

/-- The image has been read: it is checked, copied and started, or the submission is refused; while pieces are missing the reading goes on. Log 74. -/
def execProgramImageLoaded (c : CtxId) (s : State) : Res :=
  let c := c.toNat
  match (s.ctx c).image with
  | none => .next s
  | some m =>
    let ps := m.pieces
    if ps.any (fun p => !m.has p.1) then .next (s.imageRead c)
    else if (s.ctx c).reqs ≠ [] then .next s
    else
      let v := ps.flatMap (fun p => bytesAt (tget m.got p.1 []) 0 p.2)
      let bad := ps.findSome? (fun p => let st := tget m.bst p.1 stOk; if st = stOk then none else some st)
      let st : Status := match bad with
        | some st => if st = stPoison then stPoison else stNoTrans
        | none => s.imageCheck c v
      .next (if st = stOk then s.startProg c v else s.submitRefuse c st)

end Sys2Proof.Machine
end

