-- ==== Sys2Proof/Machine/RowsRsp.lean ====
section
/-! DEFINITION. Answers to this device's requests, resends and timeouts (06 R155, R156, R163 to R167, R178, R180; 12 R362 to R365; 13 R393). -/

namespace Sys2Proof.Machine

/-- An outstanding request of a context. -/
def State.req (s : State) (c id : Nat) : Option Req := (s.ctx c).reqs.find? (fun r => r.id = id)
/-- Changes an outstanding request. -/
def State.updReq (s : State) (c id : Nat) (f : Req → Req) : State :=
  s.updCtx c (fun x => { x with reqs := x.reqs.map (fun r => if r.id = id then f r else r) })

/-- The type of the answer that performs a request (R151, R191). Log 76. -/
def answerOf (k : Pkt) : Nat :=
  match k.mtype.toNat with
  | 0 => rLD
  | 1 => rST
  | 2 => rAT
  | 3 => rPF
  | _ => rWrDone

/-! ### Completing a request -/

/-- A request ends: its instruction, or its image, takes the answer. -/
def State.finishReq (s : State) (c : Nat) (r : Req) (st : Status) (data : List Byte) (eq keepTag : Bool) : State :=
  let s := s.reqDone c r st data eq keepTag
  match r.dest with
  | .image o _ => s.imageTake c o data st
  | _ => s

/-- A request ends without its effect: a prefetch list leaves zero lines (R156, R362), unless it was abandoned (R394). -/
def State.failReq (s : State) (c : Nat) (r : Req) (st : Status) (keepTag : Bool) : State :=
  let s : State := match r.dest with
    | .pf offs => if r.aband then s else offs.foldl (fun s o => s.bankWrite c o (List.replicate 128 0) false) s
    | _ => s
  s.finishReq c r st [] false keepTag

/-- The position of a line of a prefetch list in its region. -/
def State.linePos (s : State) (c : Nat) (r : Req) (o : Nat) : Nat :=
  (o - (match (s.ctx c).op r.eng.toNat with | some o => (Op.rgn o.d).base | none => 0)) / 128

/-- Checks the lines of a prefetch list again before it is resent: those that fail are zero, those of the first device stay in the request, and
the lines of each other device become a request of their own, sent at its next turn (R178, R362, R365, R509). `none`: a table read is awaited;
no request: no line is left. Log 77. -/
def State.relist (s : State) (p c : Nat) (r : Req) (offs : List Nat) : State × Option (Option Req) :=
  let segs := some (s.ctx c).segs
  let as := r.msg.pkt.listAddrs
  let (s, w) := s.askAddrs p (c / 16) segs true false as
  if w then (s, none)
  else
    let (s, cs) := (as.zip offs).foldl (fun (x : State × List (Nat × Nat × Chk)) y =>
      let (s, k) := x.1.checkAddr p (c / 16) segs y.1 128 true false
      (s, x.2 ++ [(y.1, y.2, k)])) (s, [])
    let live := match (s.ctx c).op r.eng.toNat with | some o => decide (o.seq = r.seq) | none => false
    let s := cs.foldl (fun s x => match x.2.2 with
      | .bad st =>
        let s := s.bankWrite c x.2.1 (List.replicate 128 0) false
        if live then s.failAt c r.eng.toNat (s.linePos c r x.2.1) st else s
      | _ => s) s
    let one := fun (l : List (Nat × Nat)) => { r with
      msg := { r.msg with pkt := { pktList (l.map (·.2)) with tag := r.msg.pkt.tag } }, dest := .pf (l.map (·.1)), pos := s.linePos c r (nth (l.map (·.1)) 0) }
    match byDev (cs.filterMap (fun x => match x.2.2 with | .ok _ _ d => some (x.2.1, d, x.1) | _ => none)) with
    | [] => (s, some none)
    | (_, l) :: rest =>
      let s := rest.foldl (fun s x => s.addReq c { one x.2 with id := (s.ctx c).reqNext, retry := true, last := 0 }) s
      (s.updReq c r.id (fun _ => one l), some (some (one l)))

/-- Sends a request again: a remote one as it was, one homed here through its checks, both under the current generation (R167, R178). Log 77. -/
def State.resendOne (s : State) (c : Nat) (r : Req) : State :=
  match s.partOfBlk (c / 16) with
  | none => s
  | some p =>
    let gen := (s.part p).gen
    if r.remote then
      let m := { r.msg with pkt := { r.msg.pkt with gen := gen } }
      (s.updReq c r.id (fun r => { r with msg := m, last := s.now, retry := false })).sendBlk (c / 16) m
    else
      let k := { s.ownPkt p r.msg.pkt with tag := r.msg.pkt.tag }
      let (s, f) := s.forward p (c / 16) { pkt := k, asker := .req c r.id } (some (s.ctx c).segs)
      let sent := fun (s : State) (g : Req → Req) => s.updReq c r.id (fun r => g { r with last := s.now, retry := false })
      match f with
      | .home m => (sent s (fun r => { r with msg := { r.msg with pkt := k } })).sendHomes (c / 16) m (m.lines.map (·.line)) []
      | .nak st => if st = stRetry then s.updReq c r.id (fun r => { r with last := s.now, retry := true }) else s.failReq c r st false
      | .wait => s.updReq c r.id (fun r => { r with retry := true })
      | .remote m =>
        if s.incOf m.pkt.deid = 0 then s.failReq c r stDead false
        else if 1024 ≤ s.entries (c / 16) r.eng.toNat then s.updReq c r.id (fun r => { r with retry := true })
        else match s.tagTake (c / 16) m.pkt.deid (.req c r.id) (k.mtype.toNat = tAT) with
          | none => s.updReq c r.id (fun r => { r with retry := true })
          | some (tag, s) =>
            let s := if r.tagged then s.tagDrop r.msg.pkt.tag r.msg.pkt.deid else s
            let m : Msg := { m with pkt := { m.pkt with tag := tag }, asker := .wire }
            (sent s (fun r => { r with msg := m, remote := true, tagged := true })).sendBlk (c / 16) m
      | _ => s.failReq c r stNoTrans false

/-- The same; a list homed here is checked line by line first. Log 77. -/
def State.resend (s : State) (c : Nat) (r : Req) : State :=
  match r.remote, r.dest, s.partOfBlk (c / 16) with
  | false, .pf offs, some p =>
    match s.relist p c r offs with
    | (s, none) => s.updReq c r.id (fun r => { r with retry := true })
    | (s, some none) => s.finishReq c r stOk [] false false
    | (s, some (some r)) => s.resendOne c r
  | _, _, _ => s.resendOne c r

/-- A negative answer: RETRY_LATER and POLICED wait for the next RTO, the first MAPSTALE is sent again at once, any other status ends the
request (R178, R365). Log 77. -/
def State.refused (s : State) (c : Nat) (r : Req) (st : Status) : State :=
  if r.aband then s.failReq c r st false
  else if st = stRetry ∨ st = stPoliced then s.updReq c r.id (fun r => { r with retry := true })
  else if st = stMapStale ∧ ¬r.stale1 then ((s.updReq c r.id (fun r => { r with stale1 := true })).resend c { r with stale1 := true })
  else s.failReq c r st false

/-! ### Taking an answer -/

/-- What the lines of a PFDATA give: zero or data, with poison, and the first line in list order that failed or is poisoned. Log 79. -/
def State.takeLines (s : State) (c : Nat) (k : Pkt) (offs : List Nat) : State × Option Nat :=
  let v := slotsBytes k.data
  let x := k.memx
  let is := (List.range offs.length).zip offs
  let s := is.foldl (fun s i => s.bankWrite c i.2 (bytesAt v (128 * i.1) 128) (bits x (32 + i.1) 1 = 1)) s
  (s, (is.find? (fun i => bits x i.1 1 = 1 || bits x (32 + i.1) 1 = 1)).map (·.2))

/-- An answer that performs a request: its data goes to its destination, and meets what other engines read or write in the banks (R362 to R364,
R389, R393). A list one of whose lines must be tried again is sent again whole (R365). -/
def State.performed (s : State) (c : Nat) (r : Req) (k : Pkt) : State :=
  let a := r.msg.pkt.addr
  let mask := if k.status = stPoison then bits k.memx 0 32 else 0
  if r.aband then s.finishReq c r k.status [] false false
  else match r.dest with
    | .bank o n => ((s.bankLand c o a (payload k.data a n) mask).clashLand c r o n).finishReq c r k.status [] false false
    | .buf _ n => s.finishReq c r k.status (payload k.data a n ++ leBytes 4 mask) false false
    | .image _ n => s.finishReq c r k.status (payload k.data a n) false false
    | .old o w cmp =>
      let v := bytesAt (slotsBytes k.data) 0 w
      let eq := match cmp with | some x => decide (leNat v = x.toNat) | none => false
      ((s.bankWrite c o v false).clashLand c r o w).finishReq c r k.status [] eq false
    | .pf offs =>
      if k.status = stRetry ∨ k.status = stPoliced ∨ (k.status = stMapStale ∧ ¬r.stale1) then s.refused c r k.status
      else
        let (s, bad) := s.takeLines c k offs
        let s := offs.foldl (fun s o => s.clashLand c r o 128) s
        s.finishReq c { r with pos := match bad with | some o => s.linePos c r o | none => r.pos } k.status [] false false
    | .none => s.finishReq c r k.status [] false false

/-- An answer for a request of a context. -/
def State.takeFor (s : State) (c id : Nat) (k : Pkt) (mt : Nat) (tagged : Bool) : State :=
  match s.req c id with
  | none => if tagged then s.lateRsp k.tag else s
  | some r =>
    if mt = rNAK then s.refused c r k.status
    else if mt = answerOf r.msg.pkt then s.performed c r k
    else if tagged then s.lateRsp k.tag else s

/-- An answer for the page-table reader, by cache key `n` (R221), with the DEID of its tag where it came from another device. One that says to
try again leaves a remote read to its next RTO, a local one to the next asker. Log 78. -/
def State.takePte (s : State) (p n : Nat) (k : Pkt) (mt : Nat) (wire : Option Eid) : State :=
  let a := (s.part p).ptpn.toNat * pgShift + 8 * keyPage n
  if mt = rNAK ∧ (k.status = stRetry ∨ k.status = stPoliced ∨ k.status = stMapStale) then
    (if wire.isSome then s else (s.updPart p (fun x => { x with pteAsk := tset x.pteAsk n none none })).tableRead p)
  else
  let s := match wire with | some d => s.tagDrop k.tag d | none => s
  let s := if mt = rLD then s.pteTake p n (pteOf (leNat (payload k.data a 8))) k.status else s.pteTake p n {} k.status
  (s.tableRead p).review

/-- An answer for a list that left without its failed addresses (R169, R509): its lines join the one response. Log 79. -/
def State.takeProxy (s : State) (g j : Nat) (k : Pkt) (mt : Nat) : State :=
  match tget s.joins j none with
  | none => s
  | some x =>
    let ls := x.msg.lines.map (·.line)
    let v := slotsBytes k.data
    let is := (List.range ls.length).zip ls
    if mt = rPF then
      let bad := is.filterMap (fun i => if bits k.memx i.1 1 = 1 then some (i.2, k.status) else none)
      let pois := is.filterMap (fun i => if bits k.memx (32 + i.1) 1 = 1 then some i.2 else none)
      s.joinPart g j (nth ls 0) stOk (is.map (fun i => (i.2, bytesAt v (128 * i.1) 128))) pois bad
    else s.joinPart g j (nth ls 0) stOk [] [] (ls.map (fun l => (l, k.status)))

/-- The answer at the head of a Block's TC3 queue, when it is of type `mt`: taken by whoever asked, else counted in LATERSP (R163). Log 76. -/
def State.takeAnswer (s : State) (g mt : Nat) : State :=
  match s.takeTc3 g mt with
  | none => s
  | some (m, t) =>
    let k := m.pkt
    (match m.asker with
      | .req c id => t.takeFor c id k mt (k.mtype.toNat = rAT)
      | .coll h n id => t.collStored h n id k.status
      | .pte p n => t.takePte p n k mt none
      | .join j => t.takeProxy g j k mt
      | .wire => match t.answerTo k with
        | some (_, .req c id) => t.takeFor c id k mt true
        | some (_, .coll h n id) => t.collStored h n id k.status
        | some (d, .pte p n) => t.takePte p n k mt (some d)
        | some (d, .join j) => (t.tagDrop k.tag d).takeProxy g j k mt
        | _ => t.lateRsp k.tag).review

/-- A NAK (R155, R178, R365). -/
def execNakResponse (g : BlockId) (s : State) : Res := .next (s.takeAnswer g.toNat rNAK)
/-- LDDATA: load data goes to its destination (R156, R362). Data that no request of this device asks for is discarded (R163). Log 76. -/
def execLddataResponse (g : BlockId) (s : State) : Res :=
  .next ([16, 17, 18, 22, 23].foldl (fun s mt => s.takeAnswer g.toNat mt) (s.takeAnswer g.toNat rLD))
/-- STDONE: a store is visible (R160). -/
def execStdoneResponse (g : BlockId) (s : State) : Res := .next (s.takeAnswer g.toNat rST)
/-- ATDONE: the old value of an atomic (R158, R364). -/
def execAtdoneResponse (g : BlockId) (s : State) : Res := .next (s.takeAnswer g.toNat rAT)
/-- PFDATA: the lines of a list (R156, R362). -/
def execPfdataResponse (g : BlockId) (s : State) : Res := .next (s.takeAnswer g.toNat rPF)
/-- WrDone: a LostClr has completed (R191, R363). -/
def execWrdoneResponse (g : BlockId) (s : State) : Res := .next (s.takeAnswer g.toNat rWrDone)

/-! ### Resends and timeouts -/

/-- RTO and TOUT of the job of a context. -/
def State.times (s : State) (c : Nat) : Nat × Nat :=
  match s.partOfBlk (c / 16) with
  | some p => ((s.part p).rto.toNat, (s.part p).tout.toNat)
  | none => (0x20, 0x7D0)

/-- An unanswered remote request, or one to be tried again, is sent at its RTO (R167, R365). Log 19. -/
def execRequestResend (c : CtxId) (id : Nat) (s : State) : Res :=
  match s.req c.toNat id with
  | none => .next s
  | some r =>
    let (rto, tout) := s.times c.toNat
    if r.last + rto ≤ s.now ∧ s.now < endOf r.first tout ∧ (r.remote ∨ r.retry) then .next ((s.resend c.toNat r).review) else .next s

/-- A request has no answer after TOUT ticks: it ends with TARGET_DEAD, its tag held for 512 ticks (R164, R180). Log 77. -/
def execRequestTimeout (c : CtxId) (id : Nat) (s : State) : Res :=
  let c := c.toNat
  match s.req c id with
  | none => .next s
  | some r =>
    if s.now < endOf r.first (s.times c).2 then .next s
    else
      let s := match s.partOfBlk (c / 16) with
        | some p => s.timedOut (c / 16) p r.msg.pkt (some c)
        | none => s
      .next ((s.failReq c r stDead true).review)

end Sys2Proof.Machine
end

