-- ==== Sys2Proof/Machine/Score.lean ====
section
/-! DEFINITION. What the scoring engine computes: tiles, accumulators, output conversion, pair comparison, kiln weights (11 R315 to R335). -/

namespace Sys2Proof.Machine

/-- `n` codes of `b` bits each, packed from bit 0. -/
def unpackBits (b n : Nat) (v : List Byte) : List Nat := let x := leNat v; (List.range n).map (fun i => bits x (b * i) b)

/-! ### Elements (R319) -/

/-- The integer that a code of format `q` stands for: INT8, INT4, B1. -/
def qInt (q v : Nat) : Int := if q = 1 then signed 4 v else if q = 5 then (if v = 1 then 1 else -1) else signed 8 v
/-- The floating-point format of a code: E4M3, E5M2, BF16. -/
def qFmt (q : Nat) : Fmt := if q = 2 then fmtE4M3 else if q = 3 then fmtE5M2 else fmtBF16

/-! ### Accumulation (R320 to R322, R333) -/

/-- One product added: integer exactly, FP8 in units of 2^−32 with `none` for the NaN of R321, BF16 as an FP32 code. -/
def accStep (l : BitVec 256) (q : Nat) (acc : Option Int) (a w : Nat) : Option Int :=
  if lyInteger l then acc.map (fun s => s + qInt q a * qInt (lyW l) w)
  else if lyW l = 4 then
    acc.map (fun s => ((fmtF32.encode 0 false ((fmtF32.decode s.toNat).add ((fmtBF16.decode a).mul (fmtBF16.decode w))) : Nat) : Int))
  else
    match acc, (qFmt q).decode a, (qFmt (lyW l)).decode w with
    | some s, .fin m e, .fin n g => some (s + m * n * (2 ^ (e + g + 32).toNat : Nat))
    | some s, .zero _, .zero _ => some s
    | some s, .zero _, .fin _ _ => some s
    | some s, .fin _ _, .zero _ => some s
    | _, _, _ => none

def accRun (l : BitVec 256) (q : Nat) (acc : Option Int) (as ws : List Nat) : Option Int :=
  (as.zip ws).foldl (fun s x => accStep l q s x.1 x.2) acc

/-- The codes of a kiln block (R330). -/
def kilnCodes (w : Nat) (blk : List Byte) : List Nat := unpackBits (kilnBits w) 32 (blk.drop 2)

/-- The term of one kiln block in units of 2^−40 (R332, R333). -/
def kilnTerm (w : Nat) (cb blk : List Byte) (as : List Nat) : Int :=
  let x := natAt blk 0 1
  let m := natAt blk 1 1
  if x = 0 then 0
  else
    let p : Int := (as.zip (kilnCodes w blk)).foldl (fun (s : Int) (e : Nat × Nat) => s + signed 8 (natAt cb e.2 1) * signed 8 e.1) 0
    p * ((256 + m : Nat) : Int) * ((2 ^ (x - 95) : Nat) : Int)

/-- Whether a block's exponent, or an entry of the format's codebook, is reserved (R332, R334). -/
def kilnBadBlock (blk : List Byte) : Bool := let x := natAt blk 0 1; (1 ≤ x && x ≤ 94) || 143 ≤ x
def kilnBadBook (w : Nat) (cb : List Byte) : Bool := (cb.take (2 ^ kilnBits w)).any (fun b => b = 0x80)

/-! ### Outputs (R323) -/

/-- `n · 2 ^ e` rounded to an integer, ties to even. -/
def roundInt (n e : Int) : Int :=
  if 0 ≤ e then n * (2 ^ e.toNat : Nat)
  else
    let sh := (-e).toNat
    let a := n.natAbs
    let m := a / 2 ^ sh + (if roundUp 0 false a sh then 1 else 0)
    if n < 0 then -(m : Int) else m

/-- The output code of an accumulator with its bias (4 B). -/
def lyFinish (l : BitVec 256) (acc : Option Int) (bias : Option Nat) : Nat :=
  let q := lyOut l
  if lyInteger l then
    let sc : Nat := if lyKiln l then 40 else 0
    let t : Int := acc.getD 0 + (match bias with | some b => signed 32 b * ((2 ^ sc : Nat) : Int) | none => 0)
    let t : Int := if lyAct l = 1 ∧ t < 0 then 0 else t
    let e : Int := -((sc : Int) + lyShift l)
    if q = 7 then fmtF32.round 0 false t e
    else
      let r := roundInt t e
      if q = 5 then b1 (0 ≤ r) else clampInt (qBits q) r
  else
    let x := match acc with
      | none => fmtF32.nan
      | some s => if lyW l = 4 then s.toNat else fmtF32.round 0 false s (-32)
    let x := match bias with | some b => fmtF32.addNe x b | none => x
    let x := if lyAct l = 1 ∧ fmtF32.decode x ≠ .nan ∧ x / 2 ^ 31 % 2 = 1 then 0 else x
    let v := fmtF32.decode x
    if q = 7 then fmtF32.encode 0 false v else (qFmt q).encode 0 (q ≠ 4) v

/-- What a PAIRB1 layer produces from spans of `n` bits (R328): HAM, DOT or DICE. -/
def pairValue (mode n a b : Nat) : Int :=
  let ones := fun (v : Nat) => ((List.range n).filter (fun i => v.testBit i)).length
  let x := ones (a ^^^ b)
  match mode with
  | 0 => (n : Int) - x
  | 1 => (n : Int) - 2 * x
  | _ => ((2 * ones (a &&& b) * 65536 / (ones a + ones b) : Nat) : Int)

/-! ### Tile passes (R316, R334, R336) -/

/-- A record in the engine: inputs of the current layer, sums of the current output group, outputs so far. -/
structure Lane8 where
  ins  : List Nat
  sums : List (Option Int)
  outs : List Nat
deriving DecidableEq, Repr

/-- What loading a tile finds wrong: reserved kiln data, or a poisoned word. -/
inductive TileBad where
  | none | kiln | poison
deriving DecidableEq, Repr

/-- The tile's outputs, its first input and its count of inputs. -/
def tileOuts (l : BitVec 256) (og : Nat) : List Nat := (List.range (min 128 (lyN l - 128 * og))).map (· + 128 * og)
def tileIns (l : BitVec 256) (ig : Nat) : Nat × Nat := (lyKt l * ig, min (lyKt l) (lyK l - lyKt l * ig))

/-- The bank range of one output's weights in a tile; `blk` is where a kiln layer's blocks begin, read with its record at issue (R331, R336). -/
def tileRange (l : BitVec 256) (blk ig n : Nat) : Nat × Nat :=
  let (k0, kn) := tileIns l ig
  if lyKiln l then
    let bs := kilnBytes (lyW l)
    (blk + (n * cdiv (lyK l) 32 + k0 / 32) * bs, cdiv kn 32 * bs)
  else (lyWoff l + n * cdiv (lyK l * wBits (lyW l)) 8 + k0 * wBits (lyW l) / 8, cdiv (kn * wBits (lyW l)) 8)

/-- The codebook of a kiln layer. -/
def Block.codebook (b : Block) (l : BitVec 256) : List Byte := bytesAt (b.peeks (lyWoff l) 32) 8 16

/-- The bank ranges that a tile pass reads: weights, biases of its outputs, a codebook. -/
def tileReads (l : BitVec 256) (blk og ig : Nat) : List (Nat × Nat) :=
  if lyPair l then []
  else (tileOuts l og).map (tileRange l blk ig) ++ (if lyBias l then [(lyBoff l + 512 * og, 4 * (tileOuts l og).length)] else [])
    ++ (if lyKiln l then [(lyWoff l, 32)] else [])

/-- Checks a tile as it is loaded. Log 84. -/
def Block.tileCheck (b : Block) (l : BitVec 256) (blk og ig : Nat) : TileBad :=
  if lyPair l then .none
  else
    let rs := (tileOuts l og).map (tileRange l blk ig)
    let bias := lyBias l && b.bad (lyBoff l + 512 * og) (4 * (tileOuts l og).length)
    if rs.any (fun r => b.bad r.1 r.2) ∨ bias ∨ (lyKiln l ∧ b.bad (lyWoff l) 32) then .poison
    else if lyKiln l ∧ (kilnBadBook (lyW l) (b.codebook l) ∨ rs.any (fun r =>
        (List.range (r.2 / kilnBytes (lyW l))).any (fun j => kilnBadBlock (b.peeks (r.1 + j * kilnBytes (lyW l)) 2)))) then .kiln
    else .none

/-- One output's sum over a tile, for inputs of format `q`. -/
def Block.tileSum (b : Block) (l : BitVec 256) (blk q ig n : Nat) (ins : List Nat) (acc : Option Int) : Option Int :=
  let (k0, kn) := tileIns l ig
  let as := (ins.drop k0).take kn
  let (o, len) := tileRange l blk ig n
  if lyKiln l then
    let bs := kilnBytes (lyW l)
    let cb := b.codebook l
    acc.map (fun s => (List.range (cdiv kn 32)).foldl (fun s j =>
      s + kilnTerm (lyW l) cb (b.peeks (o + j * bs) bs) ((as.drop (32 * j)).take 32)) s)
  else accRun l q acc as (unpackBits (wBits (lyW l)) kn (b.peeks o len))

/-- One record through one tile pass. -/
def Block.tilePass (b : Block) (l : BitVec 256) (blk q og ig : Nat) (r : Lane8) : Lane8 :=
  if lyPair l then
    { r with outs := [lyFinish l (some (pairValue (lyW l) (lyK l) (nth r.ins 0) (nth r.ins 1))) none] }
  else
    let ns := tileOuts l og
    let s0 := if ig = 0 then ns.map (fun _ => some 0) else r.sums
    let sums := (ns.zip s0).map (fun x => b.tileSum l blk q ig x.1 r.ins x.2)
    if ig + 1 < (lyTiles l).1 then { r with sums := sums }
    else
      let bias := fun (n : Nat) => if lyBias l then some (leNat (b.peeks (lyBoff l + 4 * n) 4)) else none
      { r with sums := [], outs := r.outs ++ (ns.zip sums).map (fun x => lyFinish l x.2 (bias x.1)) }

/-- The inputs of layer 0 that a record's spans give (R325, R328). -/
def modelInputs (d : BitVec 512) (l : BitVec 256) (rec : List Byte) : List Nat :=
  let s := fun k => bytesAt rec (mdSpan d k).1 (mdSpan d k).2
  if lyPair l then [leNat (s 0), leNat (s 1)] else unpackBits (qBits (mdInt d)) (lyK l) (s 0)

/-- The format of the inputs of layer `i`. -/
def layerIn (d : BitVec 512) (ls : List (BitVec 256)) (i : Nat) : Nat :=
  if i = 0 then mdInt d else match ls[i - 1]? with | some l => lyOut l | none => 0

end Sys2Proof.Machine
end

