-- ==== Sys2Proof/Machine/Batch.lean ====
section
/-! DEFINITION. Batches in the scoring engine, tile pass by tile pass (11 R316 to R318, R334, R336, R342, R343). -/

namespace Sys2Proof.Machine

/-- The next tile pass of a batch: layer number, layer, output group, input group. -/
def Op.tile (o : Op) : Option (Nat × BitVec 256 × Nat × Nat) := tileAt o.layers 0 o.delivs
/-- Cycles of the next tile pass of a batch. Log 60. -/
def Op.tileCost (o : Op) : Nat :=
  match o.tile with
  | some (_, l, og, ig) => passCost l o.rows.length (og = 0 && ig = 0)
  | none => 0

/-- Loads a batch: the rows or records it holds and the inputs that each gives. -/
def Op.loadBatch (o : Op) (rows : List Nat) (ins : List (List Nat)) : Op :=
  { o with rows := rows, delivs := 0, sums := [], acts := ((List.range ins.length).zip ins).map (fun x => (2 * x.1, x.2)) }

/-- The record at place `k` of a batch. -/
def Op.lane (o : Op) (k : Nat) : Lane8 := { ins := tget o.acts (2 * k) [], sums := tget o.sums k [], outs := tget o.acts (2 * k + 1) [] }
def Op.setLane (o : Op) (k : Nat) (x : Lane8) (next : Bool) : Op :=
  let (i, u) := if next then (x.outs, []) else (x.ins, x.outs)
  { o with acts := tset (tset o.acts (2 * k) i []) (2 * k + 1) u [], sums := tset o.sums k x.sums [] }

/-- One tile pass over a batch: what its load finds wrong, or the operation after it, and whether the batch is complete. -/
def Block.runTile (b : Block) (o : Op) : TileBad × Op × Bool :=
  match o.tile with
  | none => (.none, o, true)
  | some (i, l, og, ig) =>
    let blk := nth o.heads i
    match b.tileCheck l blk og ig with
    | .none =>
      let q := layerIn o.z o.layers i
      let (k, n) := lyTiles l
      let done : Bool := og + 1 = n && ig + 1 = k
      let o' := (List.range o.rows.length).foldl (fun (a : Op) r => a.setLane r (b.tilePass l blk q og ig (o.lane r)) done) o
      let o' : Op := { o' with delivs := o.delivs + 1 }
      (.none, o', o'.tile.isNone)
    | x => (x, o, false)

/-- The scores of a complete batch, in order. -/
def Op.batchScores (o : Op) : List Nat := (List.range o.rows.length).map (fun k => nth (tget o.acts (2 * k) []) 0)

/-- Whether a model's score is FP32. -/
def Op.floatScore (o : Op) : Bool := match o.layers.getLast? with | some l => lyOut l = 7 | none => false
def nanCode (v : Nat) : Bool := fmtF32.decode v = .nan

/-- Notes what a tile pass reads of the context's banks (R338). -/
def State.noteTile (s : State) (c : Nat) (o : Op) : State :=
  match o.tile with
  | some (i, l, og, ig) => s.noteRead c eScor true (tileReads l (nth o.heads i) og ig)
  | none => s
/-- Counts a tile loaded. A PAIRB1 layer loads none (log 60). -/
def State.countTile (s : State) (c : Nat) (o : Op) : State :=
  match o.tile with
  | some (_, l, _, _) => if lyPair l then s else s.updBlk (c / 16) (fun b => { b with tiles := satAdd b.tiles 1 })
  | none => s
/-- Counts scores: records, rows or pairs, and those that are NaN. -/
def State.countScores (s : State) (c : Nat) (n nan : Nat) : State :=
  s.updBlk (c / 16) (fun b => { b with recs := b.recs + n, nanOut := satAdd b.nanOut nan })

/-- Clears what a batch held. -/
def Op.endBatch (o : Op) : Op := { o with rows := [], acts := [], sums := [], delivs := 0 }

/-! ### SCORE (R318, R339, R341) -/

/-- Rows of the next batch of a SCORE. -/
def Op.scoreRows (o : Op) : List Nat :=
  let n := (Op.tns o.b).nrow - o.next
  (List.range (batchMax o.layers ((insnOf o.word).c - 8) (min 256 n))).map (· + o.next)

/-- Takes the rows of the next batch: those before the first whose read failed. -/
def State.scoreLoad (s : State) (c : Nat) (o : Op) : State :=
  let b := Op.tns o.b
  let data := fun r => s.data c o b.bank (b.row r) b.rowBytes
  let rows := o.scoreRows.takeWhile (fun r => (data r).st = stOk)
  match rows with
  | [] => s.setOp c eScor (some { o.fail 0 (data o.next).st with phase := 4 })
  | _ =>
    let l := (o.layers[0]?).getD 0
    let o := o.loadBatch rows (rows.map (fun r => modelInputs o.z l (data r).bytes))
    s.setOp c eScor (some { o with phase := 1, pend := rows.map (fun r => (r, if (data r).bad then 2 else 1)) })

/-- A tile pass of a SCORE; the last of a batch gives its scores. -/
def State.scoreTile (s : State) (c : Nat) (o : Op) : State :=
  let s := (s.countTile c o).noteTile c o
  match (s.blk (c / 16)).runTile o with
  | (.poison, _, _) => s.setOp c eScor (some { (o.endBatch.fail 0 stPoison) with phase := 4 })
  | (.kiln, _, _) =>
    (s.updBlk (c / 16) (fun b => { b with kBad := satAdd b.kBad 1 })).setOp c eScor
      (some { (o.endBatch.fail 0 stInvalid) with phase := 5, scores := o.scores ++ o.rows.map (fun r => (r, 0)) })
  | (.none, o, false) => s.setOp c eScor (some o)
  | (.none, o, true) =>
    let vs := o.batchScores
    let bad := (o.pend.filter (fun x => x.2 = 2)).map (·.1)
    let mark := if o.floatScore then fmtF32.nan else 0x80000000
    let s := s.countScores c vs.length (if o.floatScore then (vs.filter nanCode).length else 0)
    let s := s.updBlk (c / 16) (fun b => { b with poisRow := satAdd b.poisRow bad.length })
    let new := (o.rows.zip vs).map (fun x => (x.1, if bad.contains x.1 then mark else x.2))
    let o := if bad = [] then o else o.fail 1 stPoison
    s.setOp c eScor (some { o.endBatch with phase := 0, pend := [], buf := [], bst := [], next := o.next + o.rows.length, scores := o.scores ++ new })

/-- The scores of a slice go out; after reserved kiln data they, and those of the batch in progress, are undefined (R334). -/
def State.scoreOut (s : State) (c : Nat) (o : Op) : State :=
  let d := Op.tns o.d
  let s := s.updOp c eScor (fun o => { o with scores := [] })
  o.scores.foldl (fun s x =>
    let (v, s) := if o.phase = 5 then s.free else (x.2, s)
    s.put c eScor (2 + x.1) d.bank (d.at x.1) (Data.clean (leBytes 4 v))) s

def taskScore (c : Nat) : Task where
  past := 8
  step := fun _ o _ =>
    match o.phase with
    | 0 => if o.next < (Op.tns o.b).nrow then some (0, 0) else none
    | 1 => some (o.tileCost, 0)
    | _ => none
  needs := fun _ o _ => if o.phase = 0 then (let b := Op.tns o.b; o.scoreRows.flatMap (fun r => needOf b.bank (b.row r) b.rowBytes)) else []
  banks := fun _ o _ => let b := Op.tns o.b; if o.phase = 0 ∧ b.bank then o.scoreRows.map (fun r => (b.row r, b.rowBytes)) else []
  apply := fun s o _ => (if o.phase = 0 then s.scoreLoad c o else s.scoreTile c o, .ok 0)
  close := fun s last =>
    match (s.ctx c).op eScor with
    | none => s
    | some o =>
      let s := if o.scores = [] then s else s.scoreOut c o
      if last then s.doneIf c eScor true else s

/-! ### SIMB (R340, R341) -/

/-- Rows of A and B that pair `k` compares. -/
def simbRows (o : Op) (k : Nat) : Nat × Nat := if 4 ≤ (insnOf o.word).mod then (k / (Op.tns o.b).nrow, k % (Op.tns o.b).nrow) else (k, k)
def simbCount (o : Op) : Nat := simbPairs (4 ≤ (insnOf o.word).mod) (Op.tns o.a) (Op.tns o.b)
def simbUnit (o : Op) (u : Nat) : List Nat := (List.range (min 128 (simbCount o - 128 * u))).map (· + 128 * u)

/-- One pair, unless a row has failed. A row with poison is counted once, however many pairs it is in (R341): `failed` holds 2i for row i of A,
2j + 1 for row j of B. -/
def State.simbPair (c : Nat) (o : Op) (s : State) (k : Nat) : State :=
  let a := Op.tns o.a
  let b := Op.tns o.b
  let d := Op.tns o.d
  let (i, j) := simbRows o k
  match (s.ctx c).op eScor with
  | none => s
  | some cur =>
    if cur.phase ≠ 0 then s
    else
      let x := s.data c o a.bank (a.row i) a.rowBytes
      let y := s.data c o b.bank (b.row j) b.rowBytes
      let st := if x.st ≠ stOk then x.st else y.st
      if st ≠ stOk then s.setOp c eScor (some { cur.fail 0 st with phase := 4 })
      else
        let rows := ((if x.bad then [2 * i] else []) ++ (if y.bad then [2 * j + 1] else [])).filter (fun r => !cur.failed.contains r)
        let bad := x.bad || y.bad
        let v := if bad then 0x80000000 else sfield 32 (pairValue ((insnOf o.word).mod % 4) a.ncol (leNat x.bytes) (leNat y.bytes))
        let s := if bad then ((s.setOp c eScor (some { cur with failed := rows.foldl setIns cur.failed })).failAt c eScor 1 stPoison).updBlk (c / 16)
            (fun b => { b with poisRow := satAdd b.poisRow rows.length }) else s
        (s.countScores c 1 0).put c eScor (2 + k) d.bank (d.at k) (Data.clean (leBytes 4 v))

def taskSimb (c : Nat) : Task where
  past := 8
  step := fun _ o u => if o.phase = 0 ∧ 128 * u < simbCount o then some (1 + cdiv (Op.tns o.a).ncol 72, u + 1) else none
  needs := fun _ o u =>
    let a := Op.tns o.a
    let b := Op.tns o.b
    (simbUnit o u).flatMap (fun k => let (i, j) := simbRows o k; needOf a.bank (a.row i) a.rowBytes ++ needOf b.bank (b.row j) b.rowBytes)
  banks := fun _ o u =>
    let a := Op.tns o.a
    let b := Op.tns o.b
    (simbUnit o u).flatMap (fun k => let (i, j) := simbRows o k
      (if a.bank then [(a.row i, a.rowBytes)] else []) ++ (if b.bank then [(b.row j, b.rowBytes)] else []))
  apply := fun s o u => ((simbUnit o u).foldl (fun s k => s.simbPair c o k) s, .ok 0)
  close := State.closeWith c eScor stOk

end Sys2Proof.Machine
end

