-- ==== Sys2Proof/Machine/Scan.lean ====
section
/-! DEFINITION. Units of work of the filter and tally units: FSCAN and the forms of TALLY (10 R294 to R314; 11 R342, R343; 12 R351, R360, R367). -/

namespace Sys2Proof.Machine

/-! ### What a scan does

Phases of a scan: 0 not started; 1 a batch closed for the scoring engine; 2 scanning; 3 a stream's stores awaited before PROD and the header;
4 at its end, 10 there with the header of its last slice written; 6 survivors of a scored batch going out; 5 and 7 reading CONS in 2 and 6; 8 the last header on its way; 9 as 3, in 6. `pend` holds the records from the first that awaits a score on. Positions of failures:
0 what stopped the scan, 1 poison, 2 stores. `tab` holds at 0 the tick, plus 1, of the last read of CONS, and at 1 the PROD last written. -/

def Op.isScan (o : Op) : Bool := sbits o.word 120 8 = 0x18
def Op.isMerge (o : Op) : Bool := sbits o.word 120 8 = 0x19 && sbits o.word 112 3 = 2
def Op.stream (o : Op) : Bool := o.isScan && sbit o.word 112
def Op.resume (o : Op) : Bool := if o.isScan then sbit o.word 113 else sbit o.word 115
/-- Whether survivors are written, scored, tallied. -/
def Op.writesOut (o : Op) : Bool := o.isScan && !scNoOut o.a
def Op.scores? (o : Op) : Bool := o.isScan && scScoreOn o.a
def Op.tallies (o : Op) : Bool := !o.isScan || scTallyOn o.a

/-- BASE, LENGTH and CTRL of a stream. -/
def stBase (d : BitVec 512) : Nat := dfld d 0 8
def stLen (d : BitVec 512) : Nat := dfld d 16 8
def stCtrl (d : BitVec 512) : Nat := dfld d 24 8

/-- Where the header lies, if the output has room for one. -/
def Op.headerAt (o : Op) : Option (Bool × Nat) :=
  if o.stream then some (false, stCtrl o.d + 64)
  else let r := Op.rgn o.d; if 64 ≤ r.len then some (r.bank, r.base) else none

/-- One past the last record, and where record or image `i` lies. -/
def Op.lastRec (o : Op) : Nat := if o.isMerge then (Op.rgn o.a).len / 64 else scEnd o.a
def Op.recAt (o : Op) (i : Nat) : Bool × Nat × Nat :=
  if o.isMerge then ((Op.rgn o.a).bank, (Op.rgn o.a).base + 64 * i, 64) else (false, scRbase o.a + i * scRecb o.a, scRecb o.a)
def Op.recNeeds (o : Op) (i : Nat) : List (Nat × Nat) := let (b, a, n) := o.recAt i; needOf b a n
def State.recData (s : State) (c : Nat) (o : Op) (i : Nat) : Data := let (b, a, n) := o.recAt i; s.data c o b a n
/-- Cycles of a record or image. -/
def Op.recCost (o : Op) : Nat := if o.isMerge then 2 else cdiv (scRecb o.a) 256

/-- Drops the reads of a record that is settled. -/
def Op.dropRec (o : Op) (i : Nat) : Op :=
  let ks := (o.recNeeds i).map rdKey
  { o with buf := o.buf.filter (fun x => !ks.contains x.1), bst := o.bst.filter (fun x => !ks.contains x.1) }

/-- Stops a scan before its next record, with a status or with OK. Log 88. -/
def Op.stop (o : Op) (st : Status) : Op := { (if st = stOk then o else o.fail 0 st) with phase := 4 }

/-- Passes over an excluded record (R303). -/
def State.skipPoison (s : State) (c : Nat) (o : Op) (i : Nat) : State :=
  let o := ({ o.fail 1 stPoison with poisoned := o.poisoned + 1, firstPois := if o.poisoned = 0 then BitVec.ofNat 64 i else o.firstPois, next := i + 1 } : Op).dropRec i
  if o.isMerge then s.setOp c eFilt (some o)
  else (s.setOp c eFilt (some o)).updBlk (c / 16) (fun b => { b with poisRec := satAdd b.poisRec 1 })

/-- Counts a record evaluated; images are none. -/
def State.countRec (s : State) (c : Nat) (o : Op) : State :=
  if o.isMerge then s else s.updBlk (c / 16) (fun b => { b with scanRec := b.scanRec + 1 })

/-- Passes over a record that does not survive. -/
def State.skipRec (s : State) (c : Nat) (o : Op) (i : Nat) (passed : Bool) : State :=
  (s.countRec c o).setOp c eFilt (some (({ o with scanned := o.scanned + 1, passed := o.passed + b1 passed, next := i + 1 } : Op).dropRec i))

/-! ### Tallying a record or image (R308, R310) -/

/-- What became of a contribution: placed, or spilled at an offset of the spill region; not placed; a poisoned cell. -/
inductive Tallied where
  | ok (s : State) (spilled : Bool)
  | full
  | poison

def State.tallyPut (s : State) (c : Nat) (o : Op) (img : List Byte) : Tallied :=
  match (s.blk (c / 16)).place o.x img with
  | .ok b => .ok (s.setBlk (c / 16) b) false
  | .poison => .poison
  | .full =>
    let r := Op.rgn o.y
    if tdSpillOn o.x ∧ o.spillAt + 64 ≤ r.len then
      let s := s.put c eFilt 2 r.bank (r.base + o.spillAt) (Data.clean (cellOf img))
      .ok ((s.updOp c eFilt (fun o => { o with spillAt := o.spillAt + 64, full := o.full ||| fullSpilled })).updBlk (c / 16)
        (fun b => { b with spill := satAdd b.spill 1 })) true
    else .full

/-- Stops for a key that cannot be placed (R302, R310). -/
def State.noPlace (s : State) (c : Nat) (o : Op) : State :=
  (s.setOp c eFilt (some { o.stop stOk with full := o.full ||| fullKey })).updBlk (c / 16) (fun b => { b with noPlace := satAdd b.noPlace 1 })

/-! ### Survivors (R299 to R302, R351) -/

/-- Free bytes of a stream's ring. -/
def Op.ringFree (o : Op) : Nat := stLen o.d - (o.prod - o.cons).toNat

/-- Reads CONS now, unless it was read in this tick: then the context waits for the next boundary (R351, R381). -/
def State.pollCons (s : State) (c : Nat) : State :=
  match (s.ctx c).op eFilt with
  | none => s
  | some o =>
    if tget o.tab 0 0 = s.now + 1 then s.updCtx c (fun x => x.block { src := eFilt, why := 5 })
    else
      let r := (stCtrl o.d, 16)
      let k := rdKey r
      let s := s.setOp c eFilt (some { o with tab := tset o.tab 0 (s.now + 1) 0, buf := tdel o.buf k, bst := tdel o.bst k, phase := if o.phase = 2 then 5 else 7 })
      let (s, w) := s.askReads c eFilt [r]
      s.blockReads c eFilt [r] w

/-- Whether a stream's PROD has been written since its last survivor. -/
def Op.published (o : Op) : Bool := o.prod = BitVec.ofNat 64 (tget o.tab 1 0)

/-- Writes a survivor and tallies it; or the scan stops before it, or waits for its ring: what the ring holds is published first. -/
def State.survive (s : State) (c : Nat) (o : Op) (i score : Nat) : State :=
  let rec' := (s.recData c o i).bytes
  let n := scOutb o.a
  let r := Op.rgn o.d
  if o.writesOut ∧ ¬o.stream ∧ r.len < 64 + (o.surv + 1) * n then
    (s.setOp c eFilt (some { o.stop stOk with full := o.full ||| fullOut })).updBlk (c / 16) (fun b => { b with fullStop := satAdd b.fullStop 1 })
  else if o.stream ∧ o.ringFree < n then (if o.published then s.pollCons c else s)
  else
    match (if o.tallies then s.tallyPut c o (recordCell o.x rec') else .ok s false) with
    | .full => s.noPlace c o
    | .poison => s.setOp c eFilt (some (o.stop stPoison))
    | .ok s _ =>
      let v := survivor o.a rec' i score
      let s : State :=
        if o.writesOut = false then s
        else if o.stream then
          let at' := o.prod.toNat % stLen o.d
          let k := min n (stLen o.d - at')
          (s.put c eFilt 2 false (stBase o.d + at') (Data.clean (v.take k))).put c eFilt 2 false (stBase o.d) (Data.clean (v.drop k))
        else s.put c eFilt 2 r.bank (r.base + 64 + o.surv * n) (Data.clean v)
      (s.countRec c o).updOp c eFilt (fun o => ({ o with
        scanned := o.scanned + 1, passed := o.passed + 1, surv := o.surv + 1, next := i + 1
        prod := if o.stream then o.prod + BitVec.ofNat 64 n else o.prod, pend := o.pend.drop 1 } : Op).dropRec i)

/-- Whether a score survives (R299). -/
def scorePass (float : Bool) (v thresh : Nat) : Bool :=
  if float then (match ftKey 8 v, ftKey 8 thresh with | some a, some b => decide (b ≤ a) | _, _ => false)
  else decide (signed 32 thresh ≤ signed 32 v)

/-- Settles the first pending record of a scored batch. -/
def State.commitOne (s : State) (c : Nat) (o : Op) : State :=
  match o.pend with
  | [] => s
  | (i, k) :: r =>
    let o' := { o with pend := r }
    if k = 2 then s.skipPoison c o' i
    else if k = 0 then s.skipRec c o' i false
    else match o.scores.find? (fun x => x.1 = i) with
      | some (_, v) => if scorePass o.floatScore v (scThresh o.a) then s.survive c o i v else s.skipRec c o' i true
      | none => s.skipRec c o' i true

/-! ### One record -/

/-- Whether a predicate term of a record would read a poisoned word of its bitmap. -/
def State.bitmapBad (s : State) (c : Nat) (o : Op) (rec : List Byte) : Bool :=
  o.terms.any (fun w =>
    let t := termOf w
    let f := natAt rec t.off (ftWidth t.ft)
    t.op = 8 && f < bits t.k 32 32 && s.bankBad c (bits t.k 0 32 + f / 8) 1)

/-- Reads bit `f` of a bitmap. Log 90. -/
def State.bitOf (s : State) (c o f : Nat) : Bool := ((s.blk (c / 16)).peek (o + f / 8)).getLsbD (f % 8)

/-- Records of a batch that a scan may hold (R318). -/
def State.scanBatch (s : State) (o : Op) : Nat := batchMax o.layers s.budgetMax 256
def Op.pendPassed (o : Op) : Nat := (o.pend.filter (fun x => x.2 = 1)).length

/-- The record or image at `i`: excluded, passed over, kept for scoring, or settled. A record that stops the scan waits for those before it. -/
def State.scanRecord (s : State) (c : Nat) (o : Op) (i : Nat) : State × Sent :=
  let d := s.recData c o i
  let hold := fun (k : Nat) => (s.setOp c eFilt (some { o with pend := o.pend ++ [(i, k)] }), Sent.ok 0)
  let stopAt := fun st => if o.pend = [] then (s.setOp c eFilt (some (o.stop st)), Sent.ok 0) else (s, Sent.fail stOk)
  if d.st ≠ stOk then stopAt d.st
  else if d.bad then (if o.pend = [] then (s.skipPoison c o i, .ok 0) else hold 2)
  else if o.isMerge then
    if ¬cellUsed d.bytes then (s.skipRec c o i false, .ok 0)
    else match s.tallyPut c o d.bytes with
      | .ok s _ => (match (s.ctx c).op eFilt with | some o => (s.skipRec c o i true, .ok 0) | none => (s, .ok 0))
      | .full => (s.noPlace c o, .ok 0)
      | .poison => (s.setOp c eFilt (some (o.stop stPoison)), .ok 0)
  else if s.bitmapBad c o d.bytes then stopAt stPoison
  else if ¬passes d.bytes (o.terms.map termOf) (fun b f => s.bitOf c b f) then (if o.pend = [] then (s.skipRec c o i false, .ok 0) else hold 0)
  else if o.scores? then
    let o' := { o with pend := o.pend ++ [(i, 1)] }
    (s.setOp c eFilt (some (if s.scanBatch o ≤ o'.pendPassed then { o' with phase := 1 } else o')), .ok 0)
  else
    let t := s.survive c o i 0
    match (t.ctx c).op eFilt with
    | some o' => if o'.phase ≠ 2 ∨ o'.next = i then (t, .fail stOk) else (t, .ok 0)
    | none => (t, .ok 0)

/-! ### Starting, waiting, ending -/

/-- The reads before a scan starts: the header to resume from, PROD and CONS of a stream. -/
def Op.startNeeds (o : Op) : List (Nat × Nat) :=
  (if o.resume then (match o.headerAt with | some (b, a) => needOf b a 64 | none => []) else []) ++ (if o.stream then rdPieces (stCtrl o.d) 16 else [])

/-- Takes the header's NEXT and the stream's PROD and CONS (R351, R367). Log 85. -/
def State.scanStart (s : State) (c : Nat) (o : Op) : State × Sent :=
  let bad := fun st => (s.setOp c eFilt (some { o with done := some st, outc := false }), Sent.fail stOk)
  let h : Data := match o.headerAt with | some (b, a) => s.data c o b a 64 | none => { bytes := [], pois := [], st := stInvalid }
  let p := if o.stream then o.got (stCtrl o.d) 16 else Data.clean []
  if o.resume ∧ h.why ≠ stOk then bad h.why
  else if o.resume ∧ bits (natAt h.bytes 49 1) 0 5 ≠ 0 then bad stInvalid
  else if p.why ≠ stOk then bad p.why
  else
    let n := if o.resume then natAt h.bytes 24 8 else o.next
    (s.setOp c eFilt (some { o with phase := 2, first := n, next := n, buf := [], bst := [], prod := BitVec.ofNat 64 (natAt p.bytes 0 8),
                                    tab := tset (tset [] 0 (s.now + 1) 0) 1 (natAt p.bytes 0 8) 0, cons := BitVec.ofNat 64 (natAt p.bytes 8 8) }), .ok 0)

/-- CONS has been read. -/
def State.tookCons (s : State) (c : Nat) (o : Op) : State :=
  let r := (stCtrl o.d, 16)
  let d := o.got r.1 r.2
  let o : Op := { o with buf := tdel o.buf (rdKey r), bst := tdel o.bst (rdKey r), phase := if o.phase = 5 then 2 else 6 }
  s.setOp c eFilt (some (if d.why ≠ stOk then { o.stop d.why with pend := [] } else { o with cons := BitVec.ofNat 64 (natAt d.bytes 8 8) }))

/-- Puts the header, and PROD before it for a stream (R304, R351). Log 89. -/
def State.putHeader (s : State) (c : Nat) (o : Op) (st : Status) : State :=
  let s := if o.stream then s.put c eFilt 2 false (stCtrl o.d) (Data.clean (leBytes 8 o.prod.toNat)) else s
  match o.headerAt with
  | some (b, a) => s.put c eFilt 2 b a (Data.clean (o.header st))
  | none => s

/-- Publishes a stream's survivors once their stores are answered: PROD, then the header (R351). Log 89. -/
def State.publishRing (s : State) (c : Nat) (o : Op) : State × Sent :=
  match (s.ctx c).stores o with
  | [] => if o.stq = [] then
      ((s.putHeader c o stOk).updOp c eFilt (fun o => { o with phase := if o.phase = 3 then 2 else 6, tab := tset o.tab 1 o.prod.toNat 0 }), .ok 0)
    else (s, .fail stOk)
  | ids => (s.updCtx c (fun x => x.block { src := eFilt, why := 1, ids := ids }), .fail stOk)

/-- The status a scan would complete with now. Log 88. -/
def Op.status (o : Op) : Status := match o.bad with | some (_, b) => b | none => stOk

/-- The end of a slice, or of a batch: a batch closes, the header is rewritten, a finished scan awaits its stores (R302 to R304, R317, R351). Log 89. -/
def State.scanClose (s : State) (c : Nat) : State :=
  match (s.ctx c).op eFilt with
  | none => s
  | some o =>
    if o.done.isSome ∨ o.phase = 0 ∨ o.phase = 5 ∨ o.phase = 7 then s
    else if o.phase = 6 ∧ o.pend ≠ [] then (if o.published then s else let o := { o with phase := 9 }; ((s.setOp c eFilt (some o)).publishRing c o).1)
    else
      let o : Op := if o.phase = 6 then { o with phase := 2, scores := [] } else o
      let o : Op := if o.phase = 2 ∧ o.pend ≠ [] then { o with phase := 1 }
                    else if o.phase = 2 ∧ o.lastRec ≤ o.next then { o with phase := 4 }
                    else if o.phase = 2 ∧ o.stream then { o with phase := 3 } else o
      let o : Op := if o.phase = 1 ∧ o.rows = [] then
          let rs := (o.pend.filter (fun x => x.2 = 1)).map (·.1)
          let l := (o.layers[0]?).getD 0
          o.loadBatch rs (rs.map (fun i => modelInputs o.z l (s.recData c o i).bytes))
        else o
      let s := s.setOp c eFilt (some o)
      match o.phase with
      | 1 => if o.stream then s else s.putHeader c o stOk
      | 2 => s.putHeader c o stOk
      | 3 | 9 => (s.publishRing c o).1
      | 8 => s.doneIf c eFilt (o.isMerge || decide (o.next = o.lastRec))
      | _ =>
        let (s, o) := if o.phase = 4 ∧ ¬o.stream ∧ (o.stq ≠ [] ∨ (s.ctx c).openReqs o ≠ []) then
            (let o := { o with phase := 10 }; (((s.setOp c eFilt (some o)).putHeader c o stOk).flushAll c eFilt).1, o) else (s, o)
        if ((s.ctx c).op eFilt).any (fun o => o.stq ≠ []) then s else match (s.ctx c).openReqs o with
        | [] => ((s.setOp c eFilt (some { o with phase := 8 })).putHeader c o o.status).doneIf c eFilt (o.isMerge || decide (o.next = o.lastRec))
        | ids => s.updCtx c (fun x => x.block { src := eFilt, why := 1, ids := ids })

def taskScan (c : Nat) : Task where
  past := 12
  step := fun _ o u =>
    match o.phase with
    | 2 => if o.first + u < o.lastRec then some (o.recCost, u + 1) else none
    | 0 | 3 | 5 | 7 | 9 => some (0, u)
    | 6 => if o.pend = [] then none else some (0, u)
    | _ => none
  needs := fun _ o u =>
    match o.phase with
    | 0 => o.startNeeds
    | 2 => o.recNeeds (o.first + u)
    | 5 | 7 => [(stCtrl o.d, 16)]
    | 3 | 9 => []
    | _ => match o.pend with | (i, 1) :: _ => o.recNeeds i | _ => []
  apply := fun s o u =>
    match o.phase with
    | 0 => s.scanStart c o
    | 2 => s.scanRecord c o (o.first + u)
    | 5 | 7 => (s.tookCons c o, .ok 0)
    | 3 | 9 => s.publishRing c o
    | _ =>
      let t := s.commitOne c o
      match (t.ctx c).op eFilt with
      | some o' => if o'.phase = 4 then (t.setOp c eFilt (some { o' with pend := [], scores := [] }), .ok 0)
                   else if o'.pend = o.pend then (t, .fail stOk) else (t, .ok 0)
      | none => (t, .ok 0)
  close := fun s _ => s.scanClose c
  banks := fun s o u =>
    let table := if o.tallies then [(tdTboff o.x, 64 * tdCells o.x)] else []
    match o.phase with
    | 0 => match o.headerAt with | some (true, a) => if o.resume then [(a, 64)] else [] | _ => []
    | 2 =>
      let (b, a, n) := o.recAt (o.first + u)
      if b then (a, n) :: table
      else
        let v := (s.recData c o (o.first + u)).bytes
        table ++ o.terms.filterMap (fun w =>
          let t := termOf w
          let f := natAt v t.off (ftWidth t.ft)
          if t.op = 8 ∧ f < bits t.k 32 32 then some (bits t.k 0 32 + f / 8, 1) else none)
    | 6 => table
    | _ => []

/-! ### A scan's batch in the scoring engine (R318, R342) -/

/-- Survivors that the reserved data of a tile left undefined (R334): bytes of the slots that the batch could have filled. Log 84. -/
def State.undefinedOut (s : State) (c : Nat) (o : Op) : State :=
  let n := scOutb o.a
  let r := Op.rgn o.d
  (List.range o.pendPassed).foldl (fun s k =>
    let (v, s) := s.free
    let v := leBytes n v
    if o.writesOut = false then s
    else if o.stream then
      let at' := (o.prod.toNat + k * n) % stLen o.d
      let m := min n (stLen o.d - at')
      if o.ringFree < (k + 1) * n then s
      else (s.put c eFilt 2 false (stBase o.d + at') (Data.clean (v.take m))).put c eFilt 2 false (stBase o.d) (Data.clean (v.drop m))
    else if r.len < 64 + (o.surv + k + 1) * n then s
    else s.put c eFilt 2 r.bank (r.base + 64 + (o.surv + k) * n) (Data.clean v)) s

/-- One tile pass of a scan's batch; after the last, its survivors go out. -/
def State.scanTile (s : State) (c : Nat) (o : Op) : State :=
  let s := (s.countTile c o).noteTile c o
  match (s.blk (c / 16)).runTile o with
  | (.poison, _, _) => (s.setOp c eFilt (some { (o.endBatch.stop stPoison) with pend := [] })).scanClose c
  | (.kiln, _, _) =>
    let s := s.undefinedOut c o
    ((s.updBlk (c / 16) (fun b => { b with kBad := satAdd b.kBad 1 })).updOp c eFilt (fun o => { (o.endBatch.stop stInvalid) with pend := [] })).scanClose c
  | (.none, o, false) => (s.setOp c eFilt (some o)).clashRun (c / 16) eScor
  | (.none, o, true) =>
    let vs := o.batchScores
    let s := s.countScores c vs.length (if o.floatScore then (vs.filter nanCode).length else 0)
    let s := s.setOp c eFilt (some { o.endBatch with phase := 6, scores := o.rows.zip vs })
    let (s, stop) := State.applyUnits (taskScan c) c eFilt (o.pend.length + 2) 0 s
    let s := s.scanClose c
    let (s, f) := s.flushAll c eFilt
    let s := (s.clashRun (c / 16) eScor).checkDone c eFilt
    match f, stop with
    | .ok _, .sent x => s.blockFor c eFilt x
    | .ok _, _ => s
    | x, _ => s.blockFor c eFilt x

/-! ### TALLY CLEAR, IMAGE, FINAL (R311 to R313) -/

def taskClear (c : Nat) : Task where
  past := 8
  step := fun _ o u => if 64 * u < tdCells o.x then some (16, u + 1) else none
  needs := noReads
  apply := fun s o u => (s.bankPut c eFilt (tdTboff o.x + 4096 * u) (Data.clean (List.replicate 4096 0)), .ok 0)
  close := State.closeWith c eFilt stOk

/-- IMAGE and FINAL write: the header, then the cells or final rows; nothing from poisoned cells or past the region. -/
def State.tallyEmit (s : State) (c : Nat) (o : Op) : State :=
  let b := s.blk (c / 16)
  let r := Op.rgn o.d
  let final : Bool := sbits o.word 112 3 = 4
  let cells := b.cells o.x
  let rows := if final then cells.filterMap (b.finalRow o.x) else cells
  if b.bad (tdTboff o.x) (64 * tdCells o.x) ∨ (final ∧ tdPerturbs o.x ∧ b.bad (tdPtoff o.x) 8192) then s.setOp c eFilt (some (o.stop stPoison))
  else if r.len < 64 + 64 * cells.length then s.setOp c eFilt (some (o.stop stInvalid))
  else
    let o : Op := { o with scanned := cells.length, surv := rows.length, phase := 4 }
    let s := s.setOp c eFilt (some o)
    let s := if final then s.updBlk (c / 16) (fun b => { b with omitN := satAdd b.omitN (cells.length - rows.length) }) else s
    s.put c eFilt 2 r.bank r.base (Data.clean (o.header stOk ++ rows.flatten))

def taskEmit (c : Nat) : Task where
  past := 12
  step := fun _ o u => if 64 * u < tdCells o.x * (tdLog o.x + 2) then some (64, u + 1) else none
  needs := noReads
  apply := fun s _ _ => (s, .ok 0)
  banks := fun _ o u => [(tdTboff o.x + 4096 * (u % (cdiv (tdCells o.x) 64)), 4096)]
  close := fun s last =>
    match (s.ctx c).op eFilt with
    | none => s
    | some o => if ¬last ∨ o.done.isSome then s else (if o.phase = 0 then s.tallyEmit c o else s).doneIf c eFilt true

end Sys2Proof.Machine
end

