-- ==== Sys2Proof/Machine/Slice.lean ====
section
/-! DEFINITION. SLICE_START, SLICE_OVERRUN, SLICE_ABORT, STREAM_CONS_POLL (02 R46 to R51; 10 R351; 11 R318; 13 R382 to R384). -/

namespace Sys2Proof.Machine

/-- The work of an engine instruction. -/
def taskOf (c : Nat) (i : Insn) : Task :=
  match i.opc with
  | 0x01 => taskLd c
  | 0x02 => if i.mod % 2 = 1 then taskLostClr c else taskSt c
  | 0x03 => taskMove c
  | 0x04 => taskFill c
  | 0x05 => taskPrefetch c
  | 0x08 | 0x09 | 0x0A | 0x0B => taskAtomic c
  | 0x10 => taskRjoin c
  | 0x11 => taskRcontrib c
  | 0x12 => taskRwait c
  | 0x13 => taskGather c
  | 0x14 => taskScatter c
  | 0x15 => taskMcast c
  | 0x18 => taskScan c
  | 0x19 => match i.mod % 8 with
    | 0 => taskClear c
    | 1 | 2 => taskScan c
    | _ => taskEmit c
  | 0x1C => taskScore c
  | 0x1D => taskSimb c
  | 0x20 => taskPublish c
  | _ => taskPages c

/-- Whether an engine's work is the batch of a scan (R318). -/
def Op.ofScan (o : Op) (e : Nat) : Bool := e = eScor && engineOf (sbits o.word 120 8) = eFilt

/-- Cycles of a context's next slice on an engine: C, or for a scan's batch the tile pass (R46, R342). -/
def Op.sliceCost (o : Op) (e : Nat) : Nat := if o.ofScan e then o.tileCost else (insnOf o.word).c

/-- Whether a context has a batch that the scoring engine has begun: the engine takes no other before it completes (R317). -/
def Ctx.begun (x : Ctx) : Bool := x.inFlight.any (fun o => o.phase = 1 && o.delivs ≠ 0 && (engineOf (sbits o.word 120 8) = eFilt || engineOf (sbits o.word 120 8) = eScor))

/-- The candidate that a free engine starts: the smallest pass value among those whose slice fits the budget left, then the lowest slot (R383). -/
def State.choose (s : State) (g e : Nat) : Option (Nat × Op × Nat) :=
  let cs := (s.cands g e).filter (fun c => (s.ctx c).state = .ready && !(s.ctx c).parked)
  let begun := (s.ctxs.filter (fun x => x.1 / 16 = g && x.2.begun)).map (·.1)
  let cs := if e = eScor ∧ begun ≠ [] then cs.filter (fun c => begun.contains c) else cs
  let ls := cs.filterMap (fun c => match (s.ctx c).work e with
    | some o => if (o.sliceCost e : Int) ≤ s.budgetOf g e then some (c, o, o.sliceCost e) else none
    | none => none)
  match ls with
  | [] => none
  | a :: r => some (r.foldl (fun (b : Nat × Op × Nat) x => if (s.ctx x.1).pass e < (s.ctx b.1).pass e then x else b) a)

/-- A slice of a context on an engine. -/
def State.runSlice (s : State) (g e c : Nat) (o : Op) (n : Nat) : State :=
  let s := s.charge c e n
  let head : Option (Bool × Nat × List Byte) := if (o.isScan ∨ o.isMerge) ∧ o.phase ≠ 0 then o.headerAt.map (fun h => (h.1, h.2, o.header stOk)) else none
  let r : Slice := { ctx := c, cost := n, idx := o.idx, pred := sbits o.word 84 4, wrote := [], wroteP := [], past := 0, seq := o.seq, tick := s.now, hdr := head }
  let s := s.updBlk g (fun b => { b with run := tset (b.run.filter (fun x => match x.2 with | some y => !(y.ctx = c && y.seq = o.seq) | none => true)) e (some r) none })
  (if o.ofScan e then s.scanTile c o else s.slice (taskOf c (insnOf o.word)) c e n).review

/-- An instruction of a FAULTED context stops once its slice is finished (R398). -/
def State.stopFaulted (s : State) (c e : Nat) : State :=
  if (s.ctx c).state = .faulted ∧ ¬s.sliceRuns c e then s.setOp c e none else s

/-- The slice that an engine runs is cut off: it goes on no more, nor does its instruction (R51). -/
def State.cutSlice (s : State) (g e : Nat) (r : Slice) : State :=
  let s := s.updBlk g (fun b => { b with run := b.run.map (fun x =>
    if x.1 = e then (x.1, x.2.map (fun (r : Slice) => { r with wait := none })) else x) })
  match (s.ctx r.ctx).op e with
  | some o => if o.seq = r.seq then s.setOp r.ctx e none else s
  | none => s

/-- A waiting slice goes on, with no further charge (R48, R49). Log 62. -/
def State.resumeSlice (s : State) (g e c : Nat) (o : Op) (n : Nat) : State :=
  let s := s.updBlk g (fun b => { b with run := b.run.map (fun x =>
    if x.1 = e then (x.1, x.2.map (fun (r : Slice) => { r with wait := none, tick := s.now })) else x) })
  let t := taskOf c (insnOf o.word)
  ((s.slice t c e (t.past + n)).stopFaulted c e).review

/-- An engine starts a slice (R48, R383): charged C, or for a scan's batch what it uses. A slice that waits for data of this device's own pool
holds the engine, and goes on (R49). Root work of the reduce unit that comes first takes the turn (R275). With no candidate that fits nothing
happens. Logs 62, 111. -/
def execSliceStart (g : BlockId) (e : Eng) (s : State) : Res :=
  match s.waiting g.toNat e.toNat with
  | some (c, o, n) => .next (s.resumeSlice g.toNat e.toNat c o n)
  | none =>
    match s.choose g.toNat e.toNat with
    | some (c, o, n) =>
      if e.toNat = eRed ∧ s.redBeaten g.toNat c (s.collWork g.toNat) then .next (s.rootWork g.toNat).review
      else .next (s.runSlice g.toNat e.toNat c o n)
    | none => .next (if e.toNat = eRed then (s.rootWork g.toNat).review else s)

/-! ### Overruns (R50, R51) -/

/-- Cycles beyond C: charged to the context, taken from the engine's budget in the next tick. Log 71. -/
def State.chargeOver (s : State) (g e c n : Nat) : State :=
  (s.chargeCtx c e n).updBlk g (fun b => { b with debt := tset b.debt e (tget b.debt e 0 + n) 0, run := b.run.map (fun x =>
    if x.1 = e then (x.1, x.2.map (fun r => { r with past := r.past + n })) else x) })

/-- What an overrun leaves: its counts, its event, the instruction's completion with TICK_OVERRUN, the fault. A program that its last slice
has ended stays ended, with that status in its slot. Log 71. -/
def State.overrun (s : State) (g c used : Nat) (r : Slice) : State :=
  let s := (s.updBlk g (fun b => { b with health := b.health.add 64 })).updCtx c (fun x => { x with ovr := satAdd x.ovr 1 })
  let ev : Event := { code := 0x38, unit := uBlk g, d0 := r.idx.zeroExtend 64, d1 := BitVec.ofNat 64 used }
  let ev := match s.partOfBlk g with | some p => ev.inPart p (s.part p) | none => ev
  let s := s.raise (ev.inCtx c)
  if (s.ctx c).state = .empty then s.updCtx c (fun x => { x with status := stOverrun, index := r.idx })
  else (s.outcome c r.idx r.pred stOverrun false).review

/-- The slice of an engine runs `extra` cycles beyond C before it finishes (R50). Log 71. -/
def execSliceOverrun (g : BlockId) (e : Eng) (extra : BitVec 16) (s : State) : Res :=
  match tget (s.blk g.toNat).run e.toNat none with
  | some r =>
    if r.past ≠ 0 ∨ extra = 0 ∨ s.budgetMax < extra.toNat then .next s
    else .next ((s.chargeOver g.toNat e.toNat r.ctx extra.toNat).overrun g.toNat r.ctx (r.cost + extra.toNat) r)
  | none => .next s

/-- The slice of an engine reaches C plus the budget: it is aborted, and what it wrote is undefined, but for a scan's header (R50, R51, R304).
Log 72. -/
def execSliceAbort (g : BlockId) (e : Eng) (s : State) : Res :=
  let g := g.toNat
  let e := e.toNat
  match tget (s.blk g).run e none with
  | some r =>
    if s.budgetMax ≤ r.past ∧ r.past ≠ 0 then .next s
    else
      let c := r.ctx
      let s := ((s.spoilSlice e r).cutSlice g e r).chargeOver g e c (s.budgetMax - r.past)
      .next (if r.past = 0 then s.overrun g c (r.cost + s.budgetMax) r else s)
  | none => .next s

/-- At the boundary a scan blocked on a full ring reads CONS again; that of a parked context when it is next in (R351, R381). -/
def execStreamConsPoll (c : CtxId) (s : State) : Res :=
  let c := c.toNat
  let x := s.ctx c
  if ¬(x.causes.any (fun k => k.src = eFilt && k.why = 5)) then .next s
  else if x.parked then
    .next (match x.op eFilt with
      | some o => if tget o.tab 0 0 = s.now + 1 then s else s.updCtx c (fun x => x.unblock eFilt)
      | none => s)
  else match x.op eFilt with
    | some o => if tget o.tab 0 0 = s.now + 1 then .next s else .next (((s.updCtx c (fun x => x.unblock eFilt)).pollCons c).review)
    | none => .next s

end Sys2Proof.Machine
end

