-- ==== Sys2Proof/Machine/Dispatch.lean ====
section
/-! DEFINITION. The dispatch of a command to its meaning: one arm per row of the opcode table. -/

namespace Sys2Proof.Machine

/-- The effect of a command on everything but the queue of waiting commands. -/
def exec (i : Instr) (s : State) : Host.Outcome State Fault Refusal :=
  match i with
  | .mapsetBind via ci => Sys2Proof.Machine.execMapsetBind via ci s
  | .mapsetRoute via ci => Sys2Proof.Machine.execMapsetRoute via ci s
  | .mapsetGroup via ci => Sys2Proof.Machine.execMapsetGroup via ci s
  | .mapsetCommit via ci => Sys2Proof.Machine.execMapsetCommit via ci s
  | .mapsetUnbind via ci => Sys2Proof.Machine.execMapsetUnbind via ci s
  | .partsetCreate via ci => Sys2Proof.Machine.execPartsetCreate via ci s
  | .partsetResize via ci => Sys2Proof.Machine.execPartsetResize via ci s
  | .partsetRelease via ci => Sys2Proof.Machine.execPartsetRelease via ci s
  | .partsetTray via ci => Sys2Proof.Machine.execPartsetTray via ci s
  | .bankgive via ci => Sys2Proof.Machine.execBankgive via ci s
  | .bankHandover g => Sys2Proof.Machine.execBankHandover g s
  | .scrub via ci => Sys2Proof.Machine.execScrub via ci s
  | .jobkill via ci => Sys2Proof.Machine.execJobkill via ci s
  | .ctxparkPark via ci => Sys2Proof.Machine.execCtxparkPark via ci s
  | .ctxparkResume via ci => Sys2Proof.Machine.execCtxparkResume via ci s
  | .tiermoveMove via ci => Sys2Proof.Machine.execTiermoveMove via ci s
  | .tiermoveRelease via ci => Sys2Proof.Machine.execTiermoveRelease via ci s
  | .tiermoveEvacuate via ci => Sys2Proof.Machine.execTiermoveEvacuate via ci s
  | .tiermoveConfig via ci => Sys2Proof.Machine.execTiermoveConfig via ci s
  | .linkctlPortcfg via ci => Sys2Proof.Machine.execLinkctlPortcfg via ci s
  | .linkctlRestart via ci => Sys2Proof.Machine.execLinkctlRestart via ci s
  | .linkctlCredit via ci => Sys2Proof.Machine.execLinkctlCredit via ci s
  | .linkctlAdmit via ci => Sys2Proof.Machine.execLinkctlAdmit via ci s
  | .linkctlTrunkent via ci => Sys2Proof.Machine.execLinkctlTrunkent via ci s
  | .linkctlDead via ci => Sys2Proof.Machine.execLinkctlDead via ci s
  | .linkctlTicksrc via ci => Sys2Proof.Machine.execLinkctlTicksrc via ci s
  | .linkctlQcfg via ci => Sys2Proof.Machine.execLinkctlQcfg via ci s
  | .linkctlBufcfg via ci => Sys2Proof.Machine.execLinkctlBufcfg via ci s
  | .linkctlOrder via ci => Sys2Proof.Machine.execLinkctlOrder via ci s
  | .linkctlTrunk via ci => Sys2Proof.Machine.execLinkctlTrunk via ci s
  | .linkctlShaper via ci => Sys2Proof.Machine.execLinkctlShaper via ci s
  | .linkctlPolicer via ci => Sys2Proof.Machine.execLinkctlPolicer via ci s
  | .linkctlLoadcfg via ci => Sys2Proof.Machine.execLinkctlLoadcfg via ci s
  | .linkctlEgress via ci => Sys2Proof.Machine.execLinkctlEgress via ci s
  | .linkctlManager via ci => Sys2Proof.Machine.execLinkctlManager via ci s
  | .linkctlTraycfg via ci => Sys2Proof.Machine.execLinkctlTraycfg via ci s
  | .linkctlRemote via ci => Sys2Proof.Machine.execLinkctlRemote via ci s
  | .calsetApply via ci => Sys2Proof.Machine.execCalsetApply via ci s
  | .calsetRemove via ci => Sys2Proof.Machine.execCalsetRemove via ci s
  | .calsetSave via ci => Sys2Proof.Machine.execCalsetSave via ci s
  | .calsetSaveDone memUnits sdsUnits => Sys2Proof.Machine.execCalsetSaveDone memUnits sdsUnits s
  | .submit q => Sys2Proof.Machine.execSubmit q s
  | .programImageLoaded c => Sys2Proof.Machine.execProgramImageLoaded c s
  | .ld c => Sys2Proof.Machine.execLd c s
  | .st c => Sys2Proof.Machine.execSt c s
  | .stLostclr c => Sys2Proof.Machine.execStLostclr c s
  | .move c => Sys2Proof.Machine.execMove c s
  | .fill c => Sys2Proof.Machine.execFill c s
  | .prefetch c => Sys2Proof.Machine.execPrefetch c s
  | .aadd c => Sys2Proof.Machine.execAadd c s
  | .amin c => Sys2Proof.Machine.execAmin c s
  | .amax c => Sys2Proof.Machine.execAmax c s
  | .acas c => Sys2Proof.Machine.execAcas c s
  | .rjoin c => Sys2Proof.Machine.execRjoin c s
  | .rcontrib c => Sys2Proof.Machine.execRcontrib c s
  | .rwait c => Sys2Proof.Machine.execRwait c s
  | .gather c => Sys2Proof.Machine.execGather c s
  | .scatter c => Sys2Proof.Machine.execScatter c s
  | .mcast c => Sys2Proof.Machine.execMcast c s
  | .fscan c => Sys2Proof.Machine.execFscan c s
  | .tallyClear c => Sys2Proof.Machine.execTallyClear c s
  | .tallyAccum c => Sys2Proof.Machine.execTallyAccum c s
  | .tallyMerge c => Sys2Proof.Machine.execTallyMerge c s
  | .tallyImage c => Sys2Proof.Machine.execTallyImage c s
  | .tallyFinal c => Sys2Proof.Machine.execTallyFinal c s
  | .score c => Sys2Proof.Machine.execScore c s
  | .simb c => Sys2Proof.Machine.execSimb c s
  | .publish c => Sys2Proof.Machine.execPublish c s
  | .publishDecision g => Sys2Proof.Machine.execPublishDecision g s
  | .publishComplete g => Sys2Proof.Machine.execPublishComplete g s
  | .hint c => Sys2Proof.Machine.execHint c s
  | .pin c => Sys2Proof.Machine.execPin c s
  | .loop c => Sys2Proof.Machine.execLoop c s
  | .endloop c => Sys2Proof.Machine.execEndloop c s
  | .skip c => Sys2Proof.Machine.execSkip c s
  | .waitt c => Sys2Proof.Machine.execWaitt c s
  | .waittExpiry c => Sys2Proof.Machine.execWaittExpiry c s
  | .fence c => Sys2Proof.Machine.execFence c s
  | .yield c => Sys2Proof.Machine.execYield c s
  | .endProg c => Sys2Proof.Machine.execEndProg c s
  | .sliceStart g e => Sys2Proof.Machine.execSliceStart g e s
  | .sliceOverrun g e extra => Sys2Proof.Machine.execSliceOverrun g e extra s
  | .sliceAbort g e => Sys2Proof.Machine.execSliceAbort g e s
  | .contextSettled c => Sys2Proof.Machine.execContextSettled c s
  | .contextPark g => Sys2Proof.Machine.execContextPark g s
  | .contextBringIn g => Sys2Proof.Machine.execContextBringIn g s
  | .streamConsPoll c => Sys2Proof.Machine.execStreamConsPoll c s
  | .dataFlit lane f => Sys2Proof.Machine.execDataFlit lane f s
  | .idleFlit lane f => Sys2Proof.Machine.execIdleFlit lane f s
  | .alignDone lane => Sys2Proof.Machine.execAlignDone lane s
  | .replayTimeout lane => Sys2Proof.Machine.execReplayTimeout lane s
  | .lanesLocked lane trained => Sys2Proof.Machine.execLanesLocked lane trained s
  | .trainTimeout lane => Sys2Proof.Machine.execTrainTimeout lane s
  | .alignTimeout lane => Sys2Proof.Machine.execAlignTimeout lane s
  | .retrainSuccess lane => Sys2Proof.Machine.execRetrainSuccess lane s
  | .retrainTimeout lane => Sys2Proof.Machine.execRetrainTimeout lane s
  | .lossOfSignal lane => Sys2Proof.Machine.execLossOfSignal lane s
  | .jreq lane f => Sys2Proof.Machine.execJreq lane f s
  | .jconfirm lane f => Sys2Proof.Machine.execJconfirm lane f s
  | .jconfirmTimeout lane => Sys2Proof.Machine.execJconfirmTimeout lane s
  | .joinDecisionTimeout lane => Sys2Proof.Machine.execJoinDecisionTimeout lane s
  | .jreqResend lane ns => Sys2Proof.Machine.execJreqResend lane ns s
  | .probeSend lane ns => Sys2Proof.Machine.execProbeSend lane ns s
  | .probe lane m ns turn => Sys2Proof.Machine.execProbe lane m ns turn s
  | .echo lane m ns => Sys2Proof.Machine.execEcho lane m ns s
  | .notice lane f => Sys2Proof.Machine.execNotice lane f s
  | .cableIn group => Sys2Proof.Machine.execCableIn group s
  | .cableOut group => Sys2Proof.Machine.execCableOut group s
  | .packetIngress lane tc => Sys2Proof.Machine.execPacketIngress lane tc s
  | .queueAdmissionRetry p => Sys2Proof.Machine.execQueueAdmissionRetry p s
  | .reseqGapTimeout trunk tc => Sys2Proof.Machine.execReseqGapTimeout trunk tc s
  | .packetEgress lane ns => Sys2Proof.Machine.execPacketEgress lane ns s
  | .ldRequest g => Sys2Proof.Machine.execLdRequest g s
  | .stRequest g => Sys2Proof.Machine.execStRequest g s
  | .atRequest g => Sys2Proof.Machine.execAtRequest g s
  | .pflistRequest g => Sys2Proof.Machine.execPflistRequest g s
  | .rdshared g => Sys2Proof.Machine.execRdshared g s
  | .rdown g => Sys2Proof.Machine.execRdown g s
  | .wrinv g => Sys2Proof.Machine.execWrinv g s
  | .wrback g => Sys2Proof.Machine.execWrback g s
  | .evict g => Sys2Proof.Machine.execEvict g s
  | .lostclr g => Sys2Proof.Machine.execLostclr g s
  | .snpresp g => Sys2Proof.Machine.execSnpresp g s
  | .snprespd g => Sys2Proof.Machine.execSnprespd g s
  | .conflictTableServe g => Sys2Proof.Machine.execConflictTableServe g s
  | .hotPinEnd g slot => Sys2Proof.Machine.execHotPinEnd g slot s
  | .snoopSlow g line => Sys2Proof.Machine.execSnoopSlow g line s
  | .deathWalkDone eid inc => Sys2Proof.Machine.execDeathWalkDone eid inc s
  | .nakResponse g => Sys2Proof.Machine.execNakResponse g s
  | .lddataResponse g => Sys2Proof.Machine.execLddataResponse g s
  | .stdoneResponse g => Sys2Proof.Machine.execStdoneResponse g s
  | .atdoneResponse g => Sys2Proof.Machine.execAtdoneResponse g s
  | .pfdataResponse g => Sys2Proof.Machine.execPfdataResponse g s
  | .requestResend c id => Sys2Proof.Machine.execRequestResend c id s
  | .requestTimeout c id => Sys2Proof.Machine.execRequestTimeout c id s
  | .tagHoldEnd q deid tag => Sys2Proof.Machine.execTagHoldEnd q deid tag s
  | .replayCacheExpiry g => Sys2Proof.Machine.execReplayCacheExpiry g s
  | .drainWindowEnd p => Sys2Proof.Machine.execDrainWindowEnd p s
  | .homeEntryArrival g line => Sys2Proof.Machine.execHomeEntryArrival g line s
  | .contrib g => Sys2Proof.Machine.execContrib g s
  | .partialSum g => Sys2Proof.Machine.execPartialSum g s
  | .slicego g => Sys2Proof.Machine.execSlicego g s
  | .sliceOpen g n => Sys2Proof.Machine.execSliceOpen g n s
  | .sliceDeliveryDone g n => Sys2Proof.Machine.execSliceDeliveryDone g n s
  | .collEnd g => Sys2Proof.Machine.execCollEnd g s
  | .collectiveDeadline g n => Sys2Proof.Machine.execCollectiveDeadline g n s
  | .endWaitTimeout g n => Sys2Proof.Machine.execEndWaitTimeout g n s
  | .collReservationRelease g n => Sys2Proof.Machine.execCollReservationRelease g n s
  | .tickBoundary watts => Sys2Proof.Machine.execTickBoundary watts s
  | .healthSubwindowDrop => Sys2Proof.Machine.execHealthSubwindowDrop s
  | .accAging p => Sys2Proof.Machine.execAccAging p s
  | .tickMarker lane m ns => Sys2Proof.Machine.execTickMarker lane m ns s
  | .tickInEdge offset => Sys2Proof.Machine.execTickInEdge offset s
  | .markerLossTimeout => Sys2Proof.Machine.execMarkerLossTimeout s
  | .holdoverExpiry => Sys2Proof.Machine.execHoldoverExpiry s
  | .migrationChunkCopy p page ueLines => Sys2Proof.Machine.execMigrationChunkCopy p page ueLines s
  | .pageEviction p near => Sys2Proof.Machine.execPageEviction p near s
  | .pagePromotion p page => Sys2Proof.Machine.execPagePromotion p page s
  | .recallWalkDone g => Sys2Proof.Machine.execRecallWalkDone g s
  | .frameScrubbed p tier => Sys2Proof.Machine.execFrameScrubbed p tier s
  | .blockScrubDone g => Sys2Proof.Machine.execBlockScrubDone g s
  | .trayScrubDone t => Sys2Proof.Machine.execTrayScrubDone t s
  | .trayCableIn t => Sys2Proof.Machine.execTrayCableIn t s
  | .trayCableOut t => Sys2Proof.Machine.execTrayCableOut t s
  | .trayReady t frames rate32 => Sys2Proof.Machine.execTrayReady t frames rate32 s
  | .trayRetrainFail t => Sys2Proof.Machine.execTrayRetrainFail t s
  | .attnPressBegin ms => Sys2Proof.Machine.execAttnPressBegin ms s
  | .attnPressEnd ms => Sys2Proof.Machine.execAttnPressEnd ms s
  | .attnLongPress ms => Sys2Proof.Machine.execAttnLongPress ms s
  | .latchOpen => Sys2Proof.Machine.execLatchOpen s
  | .latchClose => Sys2Proof.Machine.execLatchClose s
  | .caseOpen => Sys2Proof.Machine.execCaseOpen s
  | .voltageGlitch => Sys2Proof.Machine.execVoltageGlitch s
  | .temperatureGlitch => Sys2Proof.Machine.execTemperatureGlitch s
  | .pwReqP0 m v => Sys2Proof.Machine.execPwReqP0 m v s
  | .pwReqP2 m v => Sys2Proof.Machine.execPwReqP2 m v s
  | .pwReqP3 m v => Sys2Proof.Machine.execPwReqP3 m v s
  | .pwReqP4 m v => Sys2Proof.Machine.execPwReqP4 m v s
  | .pwReqSwreset m v => Sys2Proof.Machine.execPwReqSwreset m v s
  | .powerTransitionDone => Sys2Proof.Machine.execPowerTransitionDone s
  | .p1IdleEntry => Sys2Proof.Machine.execP1IdleEntry s
  | .thermalWarning die temp => Sys2Proof.Machine.execThermalWarning die temp s
  | .thermalRecovery die temp => Sys2Proof.Machine.execThermalRecovery die temp s
  | .thermalShutdown sensor temp => Sys2Proof.Machine.execThermalShutdown sensor temp s
  | .stackThrottle stack temp => Sys2Proof.Machine.execStackThrottle stack temp s
  | .throttleExit stack temp => Sys2Proof.Machine.execThrottleExit stack temp s
  | .sensorWarning sensor temp => Sys2Proof.Machine.execSensorWarning sensor temp s
  | .pwrGoodAssert => Sys2Proof.Machine.execPwrGoodAssert s
  | .pwrGoodDeassert => Sys2Proof.Machine.execPwrGoodDeassert s
  | .squarePowerLoss => Sys2Proof.Machine.execSquarePowerLoss s
  | .modResetAssert => Sys2Proof.Machine.execModResetAssert s
  | .modResetRelease => Sys2Proof.Machine.execModResetRelease s
  | .watchdog => Sys2Proof.Machine.execWatchdog s
  | .startupStepDone r ms => Sys2Proof.Machine.execStartupStepDone r ms s
  | .stackTrainingDone stack full failed => Sys2Proof.Machine.execStackTrainingDone stack full failed s
  | .crystalStable => Sys2Proof.Machine.execCrystalStable s
  | .crystalRetry => Sys2Proof.Machine.execCrystalRetry s
  | .clockSourceLoss src => Sys2Proof.Machine.execClockSourceLoss src s
  | .pcieHotReset => Sys2Proof.Machine.execPcieHotReset s
  | .i3cTargetReset => Sys2Proof.Machine.execI3cTargetReset s
  | .i3cRegisterAccess req => Sys2Proof.Machine.execI3cRegisterAccess req s
  | .registerWrite m off width v => Sys2Proof.Machine.execRegisterWrite m off width v s
  | .sqSelfWrite m v => Sys2Proof.Machine.execSqSelfWrite m v s
  | .ckPeriphEnWrite m v => Sys2Proof.Machine.execCkPeriphEnWrite m v s
  | .sqLedCtlWrite m v => Sys2Proof.Machine.execSqLedCtlWrite m v s
  | .spdmGetVersion m => Sys2Proof.Machine.execSpdmGetVersion m s
  | .spdmGetCapabilities m => Sys2Proof.Machine.execSpdmGetCapabilities m s
  | .spdmNegotiateAlgorithms m p384 sha384 => Sys2Proof.Machine.execSpdmNegotiateAlgorithms m p384 sha384 s
  | .spdmGetDigests m => Sys2Proof.Machine.execSpdmGetDigests m s
  | .spdmGetCertificate m slot => Sys2Proof.Machine.execSpdmGetCertificate m slot s
  | .spdmChallenge m slot nonce => Sys2Proof.Machine.execSpdmChallenge m slot nonce s
  | .spdmGetMeasurements m index signed nonce => Sys2Proof.Machine.execSpdmGetMeasurements m index signed nonce s
  | .spdmLcset m goal token => Sys2Proof.Machine.execSpdmLcset m goal token s
  | .jtagUnlock level token => Sys2Proof.Machine.execJtagUnlock level token s
  | .jtagLock level => Sys2Proof.Machine.execJtagLock level s
  | .uncorrectableError site => Sys2Proof.Machine.execUncorrectableError site s
  | .correctedError site n => Sys2Proof.Machine.execCorrectedError site n s
  | .engineUnresponsive g e => Sys2Proof.Machine.execEngineUnresponsive g e s
  | .tagPoolRebuild q deid => Sys2Proof.Machine.execTagPoolRebuild q deid s
  | .reservedOpcode c => Sys2Proof.Machine.execReservedOpcode c s
  | .joinReply lane f => Sys2Proof.Machine.execJoinReply lane f s
  | .wrdoneResponse g => Sys2Proof.Machine.execWrdoneResponse g s
  | .ctlwGoWrite m v => Sys2Proof.Machine.execCtlwGoWrite m v s
  | .trayTrainFail t => Sys2Proof.Machine.execTrayTrainFail t s
  | .trayLinkLoss t => Sys2Proof.Machine.execTrayLinkLoss t s
  | .sensorWarningClear sensor temp => Sys2Proof.Machine.execSensorWarningClear sensor temp s
  | .dividerRampDone domain => Sys2Proof.Machine.execDividerRampDone domain s

end Sys2Proof.Machine
end

