-- ==== Sys2Proof/Safety.lean ====
section
/-! DEFINITION. What a safe run is, and the terms in which statements speak of commands: a control instruction that is ready to run and how it
completes, an instruction of a program that issues, a message at the head of a queue. -/

namespace Sys2Proof
open Sys2Proof.Machine

/-- A run of `n` steps that meets no fault and no refusal. -/
def SafeRun (n : Nat) (s : State) : Prop := ∃ t, core.run n s = .next t

/-- The invariant of every step: pool memory is in its canonical form. -/
def Sound (s : State) : Prop := Memory.wf s.mem = true

/-! ### Control instructions -/

/-- The instruction `ci` is at the head of the control queue of `via`, after the messages that end at the Square, and no BANKGIVE holds the queue. -/
def CtlHead (s : State) (via : Via) (ci : CtlInsn) (opc sub : Nat) (c : Caller) : Prop :=
  (s.sinks via).blks.any (fun e => e.2.give.isSome) = false ∧ (s.sinks via).peekCtl via ci opc sub = some (c, opc, sub)

/-- … and no gate turns it away: its source is a manager, start-up is over, the device is not halted, its power state serves it. -/
def CtlReady (s : State) (via : Via) (ci : CtlInsn) (opc sub : Nat) (c : Caller) : Prop :=
  CtlHead s via ci opc sub c ∧ (s.sinks via).ctlGate c opc = none

/-- The control instructions: command, OPC and SUB (R376). -/
def ctlRows : List ((Via → CtlInsn → Instr) × Nat × Nat) :=
  [(.mapsetBind, 0x80, 0), (.mapsetRoute, 0x80, 1), (.mapsetGroup, 0x80, 2), (.mapsetCommit, 0x80, 3), (.mapsetUnbind, 0x80, 4),
   (.partsetCreate, 0x81, 0), (.partsetResize, 0x81, 1), (.partsetRelease, 0x81, 2), (.partsetTray, 0x81, 3), (.bankgive, 0x82, 0),
   (.scrub, 0x83, 0), (.jobkill, 0x84, 0), (.ctxparkPark, 0x85, 0), (.ctxparkResume, 0x85, 1), (.tiermoveMove, 0x86, 0),
   (.tiermoveRelease, 0x86, 1), (.tiermoveEvacuate, 0x86, 2), (.tiermoveConfig, 0x86, 3), (.linkctlPortcfg, 0x87, 0),
   (.linkctlRestart, 0x87, 1), (.linkctlCredit, 0x87, 2), (.linkctlAdmit, 0x87, 3), (.linkctlTrunkent, 0x87, 4), (.linkctlDead, 0x87, 5),
   (.linkctlTicksrc, 0x87, 6), (.linkctlQcfg, 0x87, 7), (.linkctlBufcfg, 0x87, 8), (.linkctlOrder, 0x87, 9), (.linkctlTrunk, 0x87, 10),
   (.linkctlShaper, 0x87, 11), (.linkctlPolicer, 0x87, 12), (.linkctlLoadcfg, 0x87, 13), (.linkctlEgress, 0x87, 14),
   (.linkctlManager, 0x87, 15), (.linkctlTraycfg, 0x87, 16), (.linkctlRemote, 0x87, 17), (.calsetApply, 0x88, 0), (.calsetRemove, 0x88, 1),
   (.calsetSave, 0x88, 2)]

/-! ### Programs -/

/-- The next instruction of a context may issue, and is the legal instruction `i` with clean descriptors, whose reads meet no write of an engine in this
tick; `o` is its operation as issued. -/
def Issues (s : State) (c : Nat) (i : Insn) (o : Op) : Prop :=
  s.canIssue c = true ∧ s.fetch c = .insn o.word ∧ i = insnOf o.word ∧ i.legal = true ∧ (s.names c i).any (fun k => (s.desc c k).2) = false
  ∧ s.fetchWritten c (s.names c i) = false
  ∧ o = { seq := (s.ctx c).seq, idx := BitVec.ofNat 16 (s.ctx c).pcx, word := o.word, writes := s.writesOf c i }

/-- The engine instructions: command, the words that are its row's, and the checks that plan it (R362 to R368). -/
def engRows : List ((CtxId → Instr) × (Insn → Bool) × (State → Nat → Insn → Op → Except Status Plan)) :=
  [(.ld, fun i => i.opc = 0x01, State.planLd), (.st, fun i => i.opc = 0x02 ∧ i.mod % 2 = 0, State.planSt),
   (.stLostclr, fun i => i.opc = 0x02 ∧ i.mod % 2 = 1, State.planLostClr), (.move, fun i => i.opc = 0x03, State.planMove),
   (.fill, fun i => i.opc = 0x04, State.planFill), (.prefetch, fun i => i.opc = 0x05, State.planPrefetch),
   (.aadd, fun i => i.opc = 0x08, State.planAtomic), (.amin, fun i => i.opc = 0x09, State.planAtomic),
   (.amax, fun i => i.opc = 0x0A, State.planAtomic), (.acas, fun i => i.opc = 0x0B, State.planAtomic),
   (.rjoin, fun i => i.opc = 0x10, State.planRjoin), (.rcontrib, fun i => i.opc = 0x11, State.planRcontrib),
   (.rwait, fun i => i.opc = 0x12, State.planRwait), (.gather, fun i => i.opc = 0x13, State.planGather),
   (.scatter, fun i => i.opc = 0x14, State.planScatter), (.mcast, fun i => i.opc = 0x15, State.planMcast),
   (.fscan, fun i => i.opc = 0x18, State.planFscan), (.tallyClear, fun i => i.opc = 0x19 ∧ i.mod % 8 = 0, State.planClear),
   (.tallyAccum, fun i => i.opc = 0x19 ∧ i.mod % 8 = 1, State.planAccum), (.tallyMerge, fun i => i.opc = 0x19 ∧ i.mod % 8 = 2, State.planMerge),
   (.tallyImage, fun i => i.opc = 0x19 ∧ i.mod % 8 = 3, State.planEmit), (.tallyFinal, fun i => i.opc = 0x19 ∧ i.mod % 8 = 4, State.planEmit),
   (.score, fun i => i.opc = 0x1C, State.planScore), (.simb, fun i => i.opc = 0x1D, State.planSimb),
   (.publish, fun i => i.opc = 0x20, State.planPublish), (.hint, fun i => i.opc = 0x21, State.planPages), (.pin, fun i => i.opc = 0x22, State.planPages)]

/-! ### Links -/

/-- A JOIN flit that a port acts on: fifteen slots, a good CRC and legal encodings. -/
def JoinFlit (f : Flit) : Prop := f.slots.length = 15 ∧ f.good = true ∧ f.headOk = true ∧ f.ftype = 2 ∧ f.joinOk = true

/-- The flit that carries a join message under a link header (R59, R73). -/
def joinFlitOf (h : BitVec 64) (m : JoinMsg) : Flit := Machine.mkFlit h [m.s0, m.s1, m.s2]

/-- The state in which a port acts on a join message: an ACTIVE port has acted on the flit's link header first. -/
def Machine.State.joinBase (s : State) (l : Nat) (f : Flit) : State := if (s.port l).state = .active then s.linkHeader l f.hdr else s

/-! ### Messages -/

/-- What a message or an event of this device may touch on its way out: queues and their counts, the ring of events, the output list. Memory, tables,
partitions, contexts, trays, power, start-up and the timebase stay as they were. -/
def RestAlone (s t : State) : Prop :=
  t = { s with sec := t.sec, out := t.out, freeCtr := t.freeCtr, qs := t.qs, blks := t.blks, ports := t.ports, trunks := t.trunks, sqOut := t.sqOut, ctlq := t.ctlq }

/-- The request `m` of kind `k` is at the head of the TC2 queue of Block `g` of partition `p`, and no gate of the home turns it away (R170, R177,
R417); `t` is the state with it taken. -/
def HomeGets (s t : State) (g p k : Nat) (m : Msg) : Prop :=
  ∃ h, s.takeHead (qOfBlk g) (nBlk g 2) = some (h, t) ∧ h.msg = m ∧ s.partOfBlk g = some p ∧ m.pkt.mtype.toNat = k ∧ t.homeGate g p m = none

/-- The request is for one line at this home, nothing waits before it, its page is placed and open to writes, no cache holds the line, and its answer goes
to its sender alone. -/
def Lone (t : State) (g p : Nat) (m : Msg) (r : LineRef) : Prop :=
  m.linesAt g = [r] ∧ behind (t.blk g).conf g m = false ∧ t.pubBehind g m (t.blk g).ordNext = false ∧ t.lineHeld g r.line = false
  ∧ ((t.part p).page (r.line / 2 ^ 21)).state = .placed ∧ ((t.part p).page (r.line / 2 ^ 21)).sealed = false ∧ (t.blk g).roots.contains r.line = false
  ∧ (t.ent g r.line).mode = .none ∧ (t.ent g r.line).hot = none ∧ ∀ j, m.asker ≠ .join j

end Sys2Proof
end

