-- ==== Sys2Proof/Certificates/Slice0/Obligations.lean ====
section
/-! DEFINITION. The statements about the model. Each definition's docstring says what it states and which rules of spec/ it follows. -/

open Sys2Proof Sys2Proof.Machine

/-! ### The queue of commands, reset, memory -/

/-- A step takes the command at the front of the queue and runs it on the state with the queue's rest. -/
def Obligations.StepRunsFrontCommand : Prop :=
  ∀ (s : State) (c : Instr) (rest : List Instr), s.pending = c :: rest → step s = exec c { s with pending := rest }

/-- With nothing waiting the block idles. The model's choice (log 7): the spec gives the block no queue of commands. -/
def Obligations.StepIdlesOnEmptyQueue : Prop := ∀ s : State, s.pending = [] → step s = .next s

/-- What the spec says of the machine right after reset: start-up step 1 runs (R433), every Block is SCRUBBING and no partition exists (R413),
every port is DISABLED (R439), SQ_SELF holds no EID (R498), the timebase is UNALIGNED at tick 0 and its source is the default (R39),
spraying is off and RSTO is 16, no EID is a manager, no control instruction waits. Where it rests on the model's own readings: logs 3, 4 and 14. -/
def Obligations.ResetState : Prop :=
  let s := State.reset
  s.boot.step = 1 ∧ (∀ g, (s.blk g).state = .scrubbing) ∧ (∀ p, (s.part p).state = .none) ∧ (∀ l, (s.port l).state = .disabled)
  ∧ s.selfEid = 0xFFF ∧ s.selfInc = 0 ∧ s.tb.state = .unaligned ∧ s.tb.tick = 0 ∧ s.spray = 0 ∧ s.rsto = 0x10 ∧ s.mgrs = [] ∧ s.ctlq = []
  ∧ (∀ c, (s.ctx c).state = .empty) ∧ s.pending = []

/-- Memory has its canonical form at reset. -/
def Obligations.ResetIsSound : Prop := Sound State.reset

/-- Every step, of every command, keeps the canonical form of memory. -/
def Obligations.StepKeepsMemoryForm : Prop := ∀ s t : State, Sound s → step s = .next t → Sound t

/-- A byte of pool memory reads what was last written to it, and a run of bytes changes no byte outside its range. -/
def Obligations.PoolBytesReadBack : Prop :=
  ∀ (s : State) (p a : Nat) (v : List Byte), a + v.length ≤ 2 ^ 52 →
    (∀ i, i < v.length → (s.pokes p a v).peek p (a + i) = (v[i]?).getD 0)
    ∧ (∀ p' a', a' < 2 ^ 52 → (p' ≠ p ∨ a' < a ∨ a + v.length ≤ a') → (s.pokes p a v).peek p' a' = s.peek p' a')

/-- Bytes written to a bank read back, a clean write clears the poison bits of the words it touches and a poisoned one sets them (R465), and no
byte or poison bit outside is changed. Where it rests on the model's own readings: log 5. -/
def Obligations.BankBytesReadBack : Prop :=
  ∀ (b : Block) (o : Nat) (v : List Byte) (pois : Bool),
    (∀ i, i < v.length → (b.write o v pois).peek (o + i) = (v[i]?).getD 0)
    ∧ (∀ a, (a < o ∨ o + v.length ≤ a) → (b.write o v pois).peek a = b.peek a)
    ∧ (∀ w, w ∈ wordsOf o v.length → (w ∈ (b.write o v pois).bpois ↔ pois = true))
    ∧ (∀ w, w ∉ wordsOf o v.length → (w ∈ (b.write o v pois).bpois ↔ w ∈ b.bpois))

/-- A packet's slots spell the packet again: every field of the common header, the extension slots and the payload come back, for every packet whose
number of extension slots is the one its header names. -/
def Obligations.PacketRoundTrip : Prop := ∀ p : Pkt, p.x.length = p.xslots.toNat → Pkt.ofSlots p.toSlots = p

/-- A control instruction word spells its own fields (R373): IMM, ARGLEN, the reserved bits, SUB, MOD and OPC each lie where the layout puts them, and
two instructions that share OPC and SUB have the same word only when they agree in every field. -/
def Obligations.ControlWordFields : Prop :=
  (∀ (c : CtlInsn) (opc sub : Nat), opc < 256 → sub < 256 →
    let w := c.word opc sub
    sbits w 0 72 = c.imm.toNat ∧ sbits w 72 12 = c.arglen.toNat ∧ sbits w 84 20 = c.rsv.toNat ∧ sbits w 104 8 = sub ∧ sbits w 112 8 = c.modf.toNat
    ∧ sbits w 120 8 = opc)
  ∧ (∀ (c d : CtlInsn) (opc sub : Nat), c.word opc sub = d.word opc sub → c.args = d.args → c = d)

/-- The home of a line is a Block of the mask, whatever the line: the one at position (L xor (L >> 7) xor … xor (L >> 42)) mod n of its Blocks in
ascending order (R28). -/
def Obligations.HomeIsAMember : Prop :=
  ∀ (blocks : BitVec 64) (line : Nat), blocks ≠ 0 →
    let l := maskList 64 blocks
    homeOf blocks line ∈ l ∧ (∀ g, g ∈ l ↔ g < 64 ∧ blocks.getLsbD g = true) ∧ l.Pairwise (· < ·)
    ∧ l[(line ^^^ (line >>> 7) ^^^ (line >>> 14) ^^^ (line >>> 21) ^^^ (line >>> 28) ^^^ (line >>> 35) ^^^ (line >>> 42)) % l.length]? = some (homeOf blocks line)

/-! ### Control instructions -/

/-- A gate turns a control instruction away before its own checks: PERMISSION where the source of a CTLI is no manager (R374), RETRY_LATER before
start-up step 5 completes (R434) and while the device is halted (R463). It is not executed and nothing is journalled: the only effect is the
completion record. A CTLI whose source is no manager changes nothing but its queue: no entry of the journal is written, no register of a partition, a port's
settings, a tray or a Block changes. -/
def Obligations.ControlGates : Prop :=
  (∀ (s : State) (via : Via) (ci : CtlInsn) (c : Caller) (mk : Via → CtlInsn → Instr) (opc sub : Nat) (st : Status),
    (mk, opc, sub) ∈ ctlRows → CtlHead s via ci opc sub c → (s.sinks via).ctlGate c opc = some st →
      exec (mk via ci) s = .next (((s.sinks via).dropCtl via).ctlAnswer c (ctlRecord st opc sub none 0))
      ∧ (st = stPerm ↔ ∃ q, via = .tc0 q ∧ c.pkt.seid.toNat ∉ (s.sinks via).mgrs)
      ∧ ((s.sinks via).boot.step ≠ 6 → st = stPerm ∨ st = stRetry))
  ∧ (∀ (s : State) (q : QId) (ci : CtlInsn) (c : Caller) (mk : Via → CtlInsn → Instr) (opc sub : Nat),
    (mk, opc, sub) ∈ ctlRows → CtlHead s (.tc0 q) ci opc sub c → c.via = .tc0 q → c.pkt.seid.toNat ∉ (s.sinks (.tc0 q)).mgrs →
      ∃ t, exec (mk (.tc0 q) ci) s = .next t ∧ t = ((s.sinks (.tc0 q)).dropCtl (.tc0 q)).ctlAnswer c (ctlRecord stPerm opc sub none 0)
        ∧ t.sec.jrnl = s.sec.jrnl ∧ t.sec.jseq = s.sec.jseq ∧ t.parts = s.parts ∧ t.trays = s.trays ∧ t.mgrs = s.mgrs ∧ t.mem = s.mem)

/-- The completion record has STATUS, OPC, SUB, JIDX, JV and RESULT where R375 lays them out, and zero elsewhere. -/
def Obligations.CompletionRecordFields : Prop :=
  ∀ (st : Status) (opc sub result : Nat) (j : Option Nat), opc < 256 → sub < 256 → result < 2 ^ 64 → (∀ k ∈ j, k < 65536) →
    let w := ctlRecord st opc sub j result
    sbits w 0 5 = st.toNat ∧ sbits w 5 3 = 0 ∧ sbits w 8 8 = opc ∧ sbits w 16 8 = sub ∧ sbits w 24 16 = j.getD 0 ∧ sbits w 40 1 = b1 j.isSome
    ∧ sbits w 41 23 = 0 ∧ sbits w 64 64 = result

/-- An instruction that completes OK through a control window leaves its record there, DONE set and BUSY clear (R375, R499), JV set and JIDX the low 16
bits of the first entry's SEQ; no port, queue, trunk, partition, tray, Block, context or byte of memory changes beyond the instruction's own effect. -/
def Obligations.WindowCompletion : Prop :=
  ∀ (u s0 : State) (c : Caller) (opc sub r : Nat), c.via = .pcie ∨ c.via = .i3c →
    let t := u.ctlOk s0 c opc sub r
    let w := if c.via = .pcie then t.winP else t.winI
    w.recd = ctlRecord stOk opc sub (some (u.sec.jseq.toNat % 65536)) r ∧ w.done = true ∧ w.busy = false
    ∧ t.ports = u.ports ∧ t.qs = u.qs ∧ t.trunks = u.trunks ∧ t.parts = u.parts ∧ t.trays = u.trays ∧ t.blks = u.blks ∧ t.ctxs = u.ctxs ∧ t.mem = u.mem

/-- A journal entry goes to ring slot SEQ mod 65,536 with the next SEQ and the current tick, and once entry 0 is written the running digest is SHA-384
of the previous one and the entry (R427); nothing but the journal changes. Where it rests on the model's own readings: log 12. -/
def Obligations.JournalEntryWritten : Prop :=
  ∀ (s : State) (e : JEntry),
    let t := s.journal e
    let f : JEntry := { e with seq := s.sec.jseq, tick := s.tb.tick }
    tget t.sec.jrnl (s.sec.jseq.toNat % 65536) {} = f ∧ t.sec.jseq = s.sec.jseq + 1
    ∧ (s.sec.jopen = true → t.sec.jdig = sha384 (bytesAt s.sec.jdig 0 48 ++ f.bytes))
    ∧ t = { s with sec := { s.sec with jrnl := t.sec.jrnl, jseq := t.sec.jseq, jdig := t.sec.jdig } }

/-- MAPSET: BIND makes the partition BOUND to the job under G with an empty map, and places and pins a page-table page of this device in the near tier
where it has a free frame (R219, R503); ROUTE and GROUP change the staged map alone; COMMIT installs it as G + 1 and starts the drain window (R175 to
R177); UNBIND leaves the partition READY without job, map or pages (R411). Each completes OK whenever its checks pass. Where it rests on the model's own readings: logs 49 and 50. -/
def Obligations.MapsetCompletes : Prop :=
  ∀ (s : State) (via : Via) (ci : CtlInsn) (c : Caller),
    let b := s.sinks via
    let a := ci.arg 1
    (CtlReady s via ci 0x80 0 c → bindCheck ci b = stOk →
      ∃ u : State, exec (.mapsetBind via ci) s = .next (u.ctlOk (b.dropCtl via) c 0x80 0 (sbits a 48 16)) ∧ (let x := u.part (ci.f 0 6)
        x.state = .bound ∧ x.job = BitVec.ofNat 16 (ci.f 6 16) ∧ x.gen = BitVec.ofNat 16 (sbits a 48 16) ∧ x.ptdev = BitVec.ofNat 12 (ci.f 22 12)
        ∧ x.ptpn = BitVec.ofNat 24 (ci.f 34 24) ∧ x.tout.toNat = sbits a 0 16 ∧ x.rto.toNat = sbits a 16 8 ∧ x.drainw.toNat = sbits a 24 10
        ∧ x.map = {} ∧ x.smap = {} ∧ x.killed = false
        ∧ (ci.f 22 12 = b.selfEid.toNat →
            let g := tget x.pages (ci.f 34 24) {}
            g.state = .placed ∧ g.tier = 1 ∧ g.pin = true)))
    ∧ (CtlReady s via ci 0x80 1 c → routeCheck ci b = stOk →
      ∃ u : State, exec (.mapsetRoute via ci) s = .next (u.ctlOk (b.dropCtl via) c 0x80 1 0) ∧ (∃ p, b.partOfJob ci.job = some p ∧
        u.parts = (b.updPart p (fun x => { x with smap := { x.smap with ents := (u.part p).smap.ents } })).parts ∧
        ∀ d, tfind (u.part p).smap.ents d = match ((CtlInsn.routes ci).filter (fun e => bits e 0 12 = d)).getLast? with
          | none => tfind (b.part p).smap.ents d
          | some e => if ci.modf = 1 then none else some (routeTarget e)))
    ∧ (CtlReady s via ci 0x80 2 c → groupCheck ci b = stOk →
      ∃ u : State, exec (.mapsetGroup via ci) s = .next (u.ctlOk (b.dropCtl via) c 0x80 2 0) ∧ (∃ p, b.partOfJob ci.job = some p ∧
        u.parts = (b.updPart p (fun x => { x with smap := { x.smap with groups := (u.part p).smap.groups } })).parts ∧
        ∀ d, tfind (u.part p).smap.groups d =
          if d = ci.f 16 12 then some (BitVec.ofNat 64 (sbits a 0 64), lanesOf (ci.args.drop 1)) else tfind (b.part p).smap.groups d))
    ∧ (∀ p, CtlReady s via ci 0x80 3 c → b.partOfJob ci.job = some p → commitCheck ci b = stOk →
      ∃ u : State, exec (.mapsetCommit via ci) s = .next (u.ctlOk (b.dropCtl via) c 0x80 3 ((b.part p).gen + 1).toNat) ∧ (let x := u.part p
        let dw := if ci.args = [] then (b.part p).drainw.toNat else sbits a 24 10
        x.gen = (b.part p).gen + 1 ∧ x.prev = (b.part p).gen ∧ x.map = (b.part p).smap ∧ x.pmap = (b.part p).map ∧ x.drainEnd = some (endOf b.now dw)
        ∧ (∀ new, (b.part p).staged = some new → x.blocks = new ∧ x.staged = none)))
    ∧ (∀ p, CtlReady s via ci 0x80 4 c → b.partOfJob ci.job = some p → unbindCheck ci b = stOk →
      ∃ u : State, exec (.mapsetUnbind via ci) s = .next (u.ctlOk (b.dropCtl via) c 0x80 4 0) ∧ (let x := u.part p
        x.state = .ready ∧ x.job = 0 ∧ x.map = {} ∧ x.smap = {} ∧ x.pages = []))

/-- PARTSET and SCRUB: CREATE makes the partition READY over its Blocks, each MEMBER with its horizon at the current tick and nothing of a former
partition (R404); RESIZE gives a READY partition its new Blocks and stages them for a BOUND one (R405); RELEASE empties the partition and every Block
of it becomes SCRUBBING (R407); TRAY assigns or returns a tray port (R243); SCRUB starts zeroing (R410). Where it rests on the model's own readings: logs 56 and 57. -/
def Obligations.PartsetCompletes : Prop :=
  ∀ (s : State) (via : Via) (ci : CtlInsn) (c : Caller),
    let b := s.sinks via
    let p := ci.f 0 6
    (CtlReady s via ci 0x81 0 c → createRow ci b = stOk →
      ∃ u : State, exec (.partsetCreate via ci) s = .next (u.ctlOk (b.dropCtl via) c 0x81 0 0) ∧ ((u.part p).state = .ready ∧ (u.part p).blocks = CtlInsn.blocks ci ∧ (u.part p).area.toNat = CtlInsn.area ci ∧ (u.part p).job = 0
        ∧ (u.part p).pages = []
        ∧ ∀ g, g ∈ maskList 64 (CtlInsn.blocks ci) → (u.blk g).state = .member ∧ (u.blk g).hz = b.tb.tick ∧ (u.blk g).dir = [] ∧ (u.blk g).replay = []
            ∧ (u.blk g).bank = []))
    ∧ (CtlReady s via ci 0x81 1 c → resizeRow ci b = stOk →
      ∃ u : State, exec (.partsetResize via ci) s = .next (u.ctlOk (b.dropCtl via) c 0x81 1 0) ∧ (if (b.part p).state = .bound then u.parts = (b.updPart p (fun x => { x with staged := some (CtlInsn.blocks ci) })).parts
        else (u.part p).blocks = CtlInsn.blocks ci ∧ (u.part p).staged = none ∧ (u.part p).state = .ready))
    ∧ (CtlReady s via ci 0x81 2 c → formed (ci.form 6 0 (· = 0)) (b.clearCheck p) = stOk →
      ∃ u : State, exec (.partsetRelease via ci) s = .next (u.ctlOk (b.dropCtl via) c 0x81 2 0) ∧ (((u.part p).state = .releasing ∨ (u.part p).state = .none) ∧ (u.part p).blocks = 0 ∧ (u.part p).pages = []
        ∧ ∀ g, g ∈ maskList 64 (b.part p).blocks → (u.blk g).state = .scrubbing ∧ (u.blk g).dir = [] ∧ (u.blk g).replay = [] ∧ (u.blk g).bank = []))
    ∧ (CtlReady s via ci 0x81 3 c → formed (ci.form 11 0 (· = 0)) (b.trayCheck p (ci.f 6 4) (ci.f 10 1 = 1)) = stOk →
      ∃ u : State, exec (.partsetTray via ci) s = .next (u.ctlOk (b.dropCtl via) c 0x81 3 0) ∧ (let y := u.tray (ci.f 6 4)
        if ci.f 10 1 = 1 then y.state = .assigned ∧ y.part.toNat = p ∧ (u.part p).trays.getLsbD (ci.f 6 4) = true
        else y.state = .ready ∧ (u.part p).trays.getLsbD (ci.f 6 4) = false))
    ∧ (CtlReady s via ci 0x83 0 c → formed (ci.form 6 0 (· = 0)) (b.clearCheck p) = stOk →
      ∃ u : State, exec (.scrub via ci) s = .next (u.ctlOk (b.dropCtl via) c 0x83 0 0) ∧ (((u.part p).state = .scrubbing ∨ (u.part p).state = .ready) ∧ (u.part p).pages = [] ∧ (u.part p).blocks = (b.part p).blocks))

/-- BANKGIVE moves ownership at once where the giver's conditions hold, else it waits and holds the control queue; BANK_HANDOVER moves it and completes
the waiting instruction once they do (R387). Each bank of the mask then belongs to the receiver, every other bank to its owner before, and no byte of the
banks changes. Where it rests on the model's own readings: log 80. -/
def Obligations.BanksChangeHands : Prop :=
  let given := fun (b u : State) (g : Nat) (m : BitVec 16) (to' : Option Nat) =>
    (∀ i, i < 16 → (u.blk g).bankOf i = if m.getLsbD i then to' else (b.blk g).bankOf i) ∧ (u.blk g).bank = (b.blk g).bank ∧ (u.blk g).bpois = (b.blk g).bpois
      ∧ (u.blk g).give = none
  (∀ (s : State) (via : Via) (ci : CtlInsn) (c : Caller), CtlReady s via ci 0x82 0 c → bankCheck ci (s.sinks via) = stOk →
    let b := s.sinks via
    if (b.dropCtl via).mayGive (bgBlk ci) (bgMask ci) (bgFrom ci) then
      ∃ u : State, exec (.bankgive via ci) s = .next (u.ctlOk (b.dropCtl via) c 0x82 0 0) ∧ (given b u (bgBlk ci) (bgMask ci) (bgTo ci))
    else ∃ t, exec (.bankgive via ci) s = .next t ∧ (t.blk (bgBlk ci)).give = some { by' := c, mask := bgMask ci, giver := bgFrom ci, taker := bgTo ci }
      ∧ ∀ i, (t.blk (bgBlk ci)).bankOf i = (b.blk (bgBlk ci)).bankOf i)
  ∧ (∀ (s : State) (g : BlockId) (v : Give), (s.blk g.toNat).give = some v → s.mayGive g.toNat v.mask v.giver = true → (∀ k ∈ v.taker, k < 16) →
      ∃ u, exec (.bankHandover g) s = .next (u.ctlOk s v.by' 0x82 0 0) ∧ given s u g.toNat v.mask v.taker)

/-- JOBKILL marks every port of the job killed, then kills the partition bound to it (R182); CTXPARK PARK makes a resident or SWAPPED context HELD, and RESUME a
HELD one SWAPPED (R395). Where it rests on the model's own readings: log 40. -/
def Obligations.KillAndParkComplete : Prop :=
  ∀ (s : State) (via : Via) (ci : CtlInsn) (c : Caller),
    let b := s.sinks via
    (CtlReady s via ci 0x84 0 c → killCheck ci b = stOk →
      ∃ u : State, exec (.jobkill via ci) s = .next (u.ctlOk (b.dropCtl via) c 0x84 0 0) ∧ (∃ v : State, (∀ l, (v.port l) = { b.port l with killed := (v.port l).killed } ∧
            (v.port l).killed = ((b.port l).killed || b.ports.any (fun e => e.1 = l && e.2.job = ci.job)))
          ∧ v = { b.dropCtl via with ports := v.ports }
          ∧ match b.partOfJob ci.job with
            | some p => u = v.killPart p
            | none => u = v.raise { code := 0x19, unit := uSquare, job := ci.job }))
    ∧ (CtlReady s via ci 0x85 0 c → parkCheck ci b = (b, .st stOk) →
      ∃ u : State, exec (.ctxparkPark via ci) s = .next (u.ctlOk (b.dropCtl via) c 0x85 0 0) ∧ ((u.ctx (ci.f 0 10)).state = .held ∧ ((b.ctx (ci.f 0 10)).state ≠ .held → (u.ctx (ci.f 0 10)).since = BitVec.ofNat 28 b.now)
        ∧ (u.ctx (ci.f 0 10)).pcx = (b.ctx (ci.f 0 10)).pcx))
    ∧ (CtlReady s via ci 0x85 1 c → resumeCheck ci b = stOk →
      ∃ u : State, exec (.ctxparkResume via ci) s = .next (u.ctlOk (b.dropCtl via) c 0x85 1 0) ∧ (u.ctxs = (b.updCtx (ci.f 0 10) (fun x => { x with state := .swapped, since := BitVec.ofNat 28 b.now })).ctxs))

/-- TIERMOVE: MOVE starts the migration of a page to the tier, or finds it there; RELEASE frees the page, or starts the recall after which it is freed;
EVACUATE puts the tray into EVAC, and EMPTY if nothing lies on it; CONFIG sets AGEW, PROMOTE, MIGSHARE, NRESV and BRESV and nothing else (R228, R244). Where it rests on the model's own readings: logs 57 and 58. -/
def Obligations.TiermoveCompletes : Prop :=
  ∀ (s : State) (via : Via) (ci : CtlInsn) (c : Caller),
    let b := s.sinks via
    let n := ci.f 16 24
    (∀ p w, CtlReady s via ci 0x86 0 c → b.partOfJob ci.job = some p → moveCheck ci b = (w, .st stOk) →
      ∃ u : State, exec (.tiermoveMove via ci) s = .next (u.ctlOk (w.dropCtl via) c 0x86 0 0) ∧ (let g := (w.part p).page n
        if g.tier.toNat = ci.f 40 2 then u.parts = w.parts
        else (tget (u.part p).pages ((w.part p).pageKey n) {}).state = .migrating
          ∧ (tget (u.part p).pages ((w.part p).pageKey n) {}).dst.toNat = ci.f 40 2 ∧ (tget (u.part p).pages ((w.part p).pageKey n) {}).tier = g.tier))
    ∧ (∀ p w, CtlReady s via ci 0x86 1 c → b.partOfJob ci.job = some p → pageFreeCheck ci b = (w, .st stOk) →
      ∃ u : State, exec (.tiermoveRelease via ci) s = .next (u.ctlOk (w.dropCtl via) c 0x86 1 0) ∧ (tget (u.part p).pages ((w.part p).pageKey n) {} = {} ∨ (tfind (u.part p).recalling ((w.part p).pageKey n)).isSome = true))
    ∧ (CtlReady s via ci 0x86 2 c → evacCheck ci b = stOk →
      ∃ u : State, exec (.tiermoveEvacuate via ci) s = .next (u.ctlOk (b.dropCtl via) c 0x86 2 0) ∧ ((u.tray (ci.f 0 4)).state = .evac ∨ (u.tray (ci.f 0 4)).state = .empty))
    ∧ (CtlReady s via ci 0x86 3 c → poolCheck ci b = stOk →
      ∃ u : State, exec (.tiermoveConfig via ci) s = .next (u.ctlOk (b.dropCtl via) c 0x86 3 0) ∧ (let a := ci.arg 1
        let x := u.part (ci.f 0 6)
        x.agew.toNat = sbits a 0 16 ∧ x.promote.toNat = sbits a 16 16 ∧ x.migshare.toNat = sbits a 32 4 ∧ x.nresv.toNat = sbits a 36 8
        ∧ x.bresv.toNat = sbits a 44 8 ∧ x = { b.part (ci.f 0 6) with agew := x.agew, promote := x.promote, migshare := x.migshare, nresv := x.nresv, bresv := x.bresv }))

/-- LINKCTL over ports: PORTCFG gives the lanes their width, rate and downshift and switches the port on or off; RESTART sends an enabled port into
TRAIN; CREDIT sets the advertised credits; ADMIT grants the pending JREQ or denies it and returns the port to HELLO; TRUNKENT sets the trunk entry; DEAD
clears the incarnation and fences the ports that hold it; TRUNK sets the members; REMOTE sets or clears an incarnation (R55 to R83, R109, R506). Where it rests on the model's own readings: logs 53 and 55. -/
def Obligations.LinkctlPortsComplete : Prop :=
  ∀ (s : State) (via : Via) (ci : CtlInsn) (c : Caller),
    let b := s.sinks via
    let l := ci.f 0 9
    let k := portCfgOf ci
    (CtlReady s via ci 0x87 0 c → portcfgCheck ci b = stOk →
      ∃ u : State, exec (.linkctlPortcfg via ci) s = .next (u.ctlOk (b.dropCtl via) c 0x87 0 0) ∧ ((k.on = false → (u.port k.lane).state = .disabled) ∧ (k.on = true → (b.port k.lane).state = .disabled → (u.port k.lane).state = .train)
        ∧ (b.cfgChanges k = true → (u.port k.lane).off = 0 ∧ (u.port k.lane).width.toNat = k.width ∧ (u.port k.lane).rate = k.rate ∧ (u.port k.lane).dshen = k.down)))
    ∧ (CtlReady s via ci 0x87 1 c → restartCheck ci b = stOk →
      ∃ u : State, exec (.linkctlRestart via ci) s = .next (u.ctlOk (b.dropCtl via) c 0x87 1 0) ∧ ((u.port l).state = .train ∧ (u.port l).jreq = none ∧ (u.port l).grant = none))
    ∧ (CtlReady s via ci 0x87 2 c → creditCheck ci b = stOk →
      ∃ u : State, exec (.linkctlCredit via ci) s = .next (u.ctlOk (b.dropCtl via) c 0x87 2 0) ∧ ((∀ j, j < 8 → (tget (u.port l).adv j 0).toNat = sbits (ci.arg 1) (16 * j) 16)
        ∧ u.port l = { b.port l with adv := (u.port l).adv } ∧ ∀ m, m ≠ l → u.port m = b.port m))
    ∧ (∀ j, CtlReady s via ci 0x87 3 c → (b.port l).jreq = some j → admitCheck ci b = stOk →
      ∃ u : State, exec (.linkctlAdmit via ci) s = .next (u.ctlOk (b.dropCtl via) c 0x87 3 0) ∧ (if ci.f 45 1 = 0 then (u.port l).state = .hello ∧ (u.port l).jreq = none ∧ (u.port l).grant = none
        else (u.port l).job = BitVec.ofNat 16 (ci.f 29 16) ∧ (u.port l).segs = segsOf (CtlInsn.descs ci)
          ∧ (u.port l).grant = some (BitVec.ofNat 12 (ci.f 9 12), BitVec.ofNat 8 (ci.f 21 8), BitVec.ofNat 16 (ci.f 29 16))))
    ∧ (CtlReady s via ci 0x87 4 c → formed (ci.form 29 0 (· = 0) && b.lowest l) stOk = stOk →
      ∃ u : State, exec (.linkctlTrunkent via ci) s = .next (u.ctlOk (b.dropCtl via) c 0x87 4 0) ∧ ((u.port l).teid.toNat = ci.f 9 12 ∧ (u.port l).tinc.toNat = ci.f 21 8))
    ∧ (CtlReady s via ci 0x87 5 c → formed (ci.form 20 0 (· = 0) && ci.f 0 12 ≠ 0xFFF) stOk = stOk →
      ∃ u : State, exec (.linkctlDead via ci) s = .next (u.ctlOk (b.dropCtl via) c 0x87 5 0) ∧ (let e : Eid := BitVec.ofNat 12 (ci.f 0 12)
        u.incOf e = 0 ∧ ∀ k, (b.port k).enabled = true → (b.port k).role ≠ 0 → (b.port k).peerEid = e → (u.port k).state = .fenced))
    ∧ (CtlReady s via ci 0x87 10 c → trunkCheck ci b = stOk →
      ∃ u : State, exec (.linkctlTrunk via ci) s = .next (u.ctlOk (b.dropCtl via) c 0x87 10 0) ∧ ((u.trunk (ci.f 0 5)).members = lanesOf ci.args ∧ ∀ t, t ≠ ci.f 0 5 → u.trunk t = b.trunk t))
    ∧ (CtlReady s via ci 0x87 17 c → remoteCheck ci b = stOk →
      ∃ u : State, exec (.linkctlRemote via ci) s = .next (u.ctlOk (b.dropCtl via) c 0x87 17 0) ∧ ((u.incOf (BitVec.ofNat 12 (ci.f 0 12))).toNat = if ci.f 20 1 = 1 then ci.f 12 8 else 0))

/-- LINKCTL over settings: each sets its own fields, and the rest of what it names stays: QCFG MIN and the threshold code (R96), BUFCFG MCRES (R101),
ORDER the mode of each class and RSTO (R109 to R114), SHAPER what its queue has from the next step 6 (R130), POLICER PRATE, PBURST and a bucket clipped to
PBURST (R134), LOADCFG LSTEP and DSTEP (R143), EGRESS the weights (R115), MANAGER the mark (R374), TRAYCFG the port and the selection (R243, R245), TICKSRC
the source, and with LOAD the counter (R39). Where it rests on the model's own readings: logs 53 and 54. -/
def Obligations.LinkctlSettingsComplete : Prop :=
  ∀ (s : State) (via : Via) (ci : CtlInsn) (c : Caller),
    let b := s.sinks via
    let q := ci.f 0 2
    let n := ci.f 2 11
    let l := ci.f 0 9
    let w := b.dropCtl via
    (CtlReady s via ci 0x87 6 c → ticksrcCheck ci b = stOk →
      ∃ u : State, exec (.linkctlTicksrc via ci) s = .next (u.ctlOk (b.dropCtl via) c 0x87 6 0) ∧ (u.tb.src.toNat = ci.f 0 2 ∧ u.tb.tick = (if ci.f 2 1 = 1 then BitVec.ofNat 64 (sbits (ci.arg 1) 0 64) else b.tb.tick)
        ∧ (u.tb.state = .source → ci.f 0 2 = 3) ∧ (ci.f 0 2 = 3 → b.tb.mismatch = false ∨ ci.f 2 1 = 1 → u.tb.state = .source)
        ∧ (ci.f 0 2 ≠ 3 → b.tb.state = .source ∨ ci.f 2 1 = 1 → u.tb.state = .unaligned)))
    ∧ (CtlReady s via ci 0x87 7 c → qcfgCheck ci b = stOk →
      ∃ u : State, exec (.linkctlQcfg via ci) s = .next (u.ctlOk (b.dropCtl via) c 0x87 7 0) ∧ (u = (w.updQueue q n (fun x => { x with min := (u.queue q n).min, alpha := (u.queue q n).alpha, pkts := (u.queue q n).pkts })).updQtr q
          (fun x => { x with poolTop := (u.qtr q).poolTop })
        ∧ (u.queue q n).min.toNat = ci.f 13 18 ∧ (u.queue q n).alpha.toNat = ci.f 31 3))
    ∧ (CtlReady s via ci 0x87 8 c → bufcfgCheck ci b = stOk →
      ∃ u : State, exec (.linkctlBufcfg via ci) s = .next (u.ctlOk (b.dropCtl via) c 0x87 8 0) ∧ (u = w.updQtr q (fun x => { x with mcres := (u.qtr q).mcres, mcs := (u.qtr q).mcs, poolTop := (u.qtr q).poolTop }) ∧ (u.qtr q).mcres.toNat = ci.f 2 18))
    ∧ (CtlReady s via ci 0x87 9 c → orderCheck ci b = stOk →
      ∃ u : State, exec (.linkctlOrder via ci) s = .next (u.ctlOk (b.dropCtl via) c 0x87 9 0) ∧ (u = { w with spray := BitVec.ofNat 7 (ci.f 0 7), rsto := BitVec.ofNat 8 (ci.f 7 8), trunks := u.trunks }
        ∧ ∀ t, (u.trunk t).members = (b.trunk t).members))
    ∧ (CtlReady s via ci 0x87 11 c → shaperCheck ci b = stOk →
      ∃ u : State, exec (.linkctlShaper via ci) s = .next (u.ctlOk (b.dropCtl via) c 0x87 11 0) ∧ (u = w.updQueue q n (fun x => { x with newShape := some (BitVec.ofNat 16 (ci.f 13 16), BitVec.ofNat 16 (ci.f 29 16)) })))
    ∧ (CtlReady s via ci 0x87 12 c → policerCheck ci b = stOk →
      ∃ u : State, exec (.linkctlPolicer via ci) s = .next (u.ctlOk (b.dropCtl via) c 0x87 12 0) ∧ (let x := tget (u.port l).pol (ci.f 9 3) {}
        x.prate.toNat = ci.f 12 16 ∧ x.pburst.toNat = ci.f 28 16 ∧ x.bucket = min (tget (b.port l).pol (ci.f 9 3) {}).bucket (ci.f 28 16)
        ∧ u = w.updPort l (fun p => { p with pol := (u.port l).pol }) ∧ ∀ k, k ≠ ci.f 9 3 → tget (u.port l).pol k {} = tget (b.port l).pol k {}))
    ∧ (CtlReady s via ci 0x87 13 c → formed (ci.form 28 0 (· = 0) && ci.f 2 10 ≠ 0 && ci.f 12 16 ≠ 0) stOk = stOk →
      ∃ u : State, exec (.linkctlLoadcfg via ci) s = .next (u.ctlOk (b.dropCtl via) c 0x87 13 0) ∧ (u = w.updQtr q (fun x => { x with lstep := BitVec.ofNat 10 (ci.f 2 10), dstep := BitVec.ofNat 16 (ci.f 12 16) })))
    ∧ (CtlReady s via ci 0x87 14 c → formed (ci.form 29 0 (· = 0) && b.lowest l && (List.range 5).all (fun i => ci.f (9 + 4 * i) 4 ≠ 0)) stOk = stOk →
      ∃ u : State, exec (.linkctlEgress via ci) s = .next (u.ctlOk (b.dropCtl via) c 0x87 14 0) ∧ (u = w.updPort l (fun p => { p with egw := BitVec.ofNat 20 (ci.f 9 20) })))
    ∧ (CtlReady s via ci 0x87 15 c → formed (ci.form 13 0 (· = 0) && ci.f 0 12 ≠ 0xFFF) stOk = stOk →
      ∃ u : State, exec (.linkctlManager via ci) s = .next (u.ctlOk (b.dropCtl via) c 0x87 15 0) ∧ (u = { w with mgrs := u.mgrs } ∧ (ci.f 0 12 ∈ u.mgrs ↔ ci.f 12 1 = 1) ∧ ∀ e, e ≠ ci.f 0 12 → (e ∈ u.mgrs ↔ e ∈ b.mgrs)))
    ∧ (CtlReady s via ci 0x87 16 c → traycfgCheck ci b = stOk →
      ∃ u : State, exec (.linkctlTraycfg via ci) s = .next (u.ctlOk (b.dropCtl via) c 0x87 16 0) ∧ (let t := ci.f 0 4
        u = { w with trays := u.trays } ∧ (u.tray t).sel = decide (ci.f 5 1 = 1) ∧ (ci.f 5 1 = 1 → ∀ k, k < 16 → k ≠ t → (u.tray k).sel = false)
        ∧ (ci.f 4 1 = 0 → (u.tray t).state = .disabled)
        ∧ (ci.f 4 1 = 1 → (b.tray t).state = .disabled → (u.tray t).state = if (b.tray t).prsnt then .train else .down)
        ∧ (ci.f 4 1 = 1 → (b.tray t).state ≠ .disabled → (u.tray t).state = (b.tray t).state)))

/-- CALSET: APPLY and REMOVE change the overlays in force and nothing else; SAVE starts writing them to the older flash copy and waits; CALSET_SAVE_DONE
makes that copy the current one and completes SAVE with the counts of units (R440 to R443). Where it rests on the model's own readings: log 37. -/
def Obligations.CalsetCompletes : Prop :=
  (∀ (s : State) (via : Via) (ci : CtlInsn) (c : Caller),
    let b := s.sinks via
    let w := b.dropCtl via
    (∀ l, CtlReady s via ci 0x88 0 c → ci.form 0 0 (1 ≤ ·) = true → CtlInsn.applied ci b.calset = some l →
      ∃ u : State, exec (.calsetApply via ci) s = .next (u.ctlOk (b.dropCtl via) c 0x88 0 0) ∧ (u = { w with calset := l }))
    ∧ (∀ l, CtlReady s via ci 0x88 1 c → ci.form 24 1 (· = 0) = true → CtlInsn.removed ci b.calset = some l →
      ∃ u : State, exec (.calsetRemove via ci) s = .next (u.ctlOk (b.dropCtl via) c 0x88 1 0) ∧ (u = { w with calset := l }))
    ∧ (CtlReady s via ci 0x88 2 c → ci.form 0 0 (· = 0) = true → b.save = none → b.pw.spi = true →
      exec (.calsetSave via ci) s = .next { w with save := some c, flashOld := w.calset }))
  ∧ (∀ (s : State) (m d : BitVec 8) (c : Caller), s.save = some c →
      let t := { s with save := none, flash := s.flashOld, flashOld := s.flash }
      exec (.calsetSaveDone m d) s = .next (t.ctlOk t c 0x88 2 (m.toNat + 256 * d.toNat)))

/-! ### Programs -/

/-- An engine instruction that may issue, whose word is legal, whose descriptors are clean, whose own checks pass, whose slices fit C and the engine's
budget, and whose banks are the context's own, takes its engine: its operation is in flight there and the program goes on behind it (R46, R350, R355,
R379, R362 to R368). Nothing else of the machine changes: no register of another part, no bank and no byte of pool memory. RCONTRIB also puts its operation
to wait where its slice is not open (R261). Where it rests on the model's own readings: log 83. -/
def Obligations.EngineInstructionIssues : Prop :=
  ∀ (s : State) (c : CtxId) (i : Insn) (o : Op) (p : Plan), Issues s c.toNat i o → p.past + p.top ≤ i.c → i.c ≤ s.budgetMax → p.owned = true →
    let a := s.advance c.toNat i
    let entered := fun (t : State) =>
      (t.ctx c.toNat).op (engineOf i.opc) = some p.op ∧ (t.ctx c.toNat).pcx = (s.ctx c.toNat).pcx + 1
        ∧ (t.ctx c.toNat).seq = (s.ctx c.toNat).seq + 1 ∧ (∀ e, e ≠ engineOf i.opc → (t.ctx c.toNat).op e = (s.ctx c.toNat).op e)
        ∧ t = { s with ctxs := t.ctxs }
    (i.opc = 0x01 → a.planLd c.toNat i o = .ok p → ∃ t, exec (.ld c) s = .next t ∧ entered t) ∧
    (i.opc = 0x02 → i.mod % 2 = 0 → a.planSt c.toNat i o = .ok p → ∃ t, exec (.st c) s = .next t ∧ entered t) ∧
    (i.opc = 0x02 → i.mod % 2 = 1 → a.planLostClr c.toNat i o = .ok p → ∃ t, exec (.stLostclr c) s = .next t ∧ entered t) ∧
    (i.opc = 0x03 → a.planMove c.toNat i o = .ok p → ∃ t, exec (.move c) s = .next t ∧ entered t) ∧
    (i.opc = 0x04 → a.planFill c.toNat i o = .ok p → ∃ t, exec (.fill c) s = .next t ∧ entered t) ∧
    (i.opc = 0x05 → a.planPrefetch c.toNat i o = .ok p → ∃ t, exec (.prefetch c) s = .next t ∧ entered t) ∧
    (i.opc = 0x08 → a.planAtomic c.toNat i o = .ok p → ∃ t, exec (.aadd c) s = .next t ∧ entered t) ∧
    (i.opc = 0x09 → a.planAtomic c.toNat i o = .ok p → ∃ t, exec (.amin c) s = .next t ∧ entered t) ∧
    (i.opc = 0x0A → a.planAtomic c.toNat i o = .ok p → ∃ t, exec (.amax c) s = .next t ∧ entered t) ∧
    (i.opc = 0x0B → a.planAtomic c.toNat i o = .ok p → ∃ t, exec (.acas c) s = .next t ∧ entered t) ∧
    (i.opc = 0x10 → a.planRjoin c.toNat i o = .ok p → ∃ t, exec (.rjoin c) s = .next t ∧ entered t) ∧
    (i.opc = 0x11 → a.planRcontrib c.toNat i o = .ok p → ∃ t, exec (.rcontrib c) s = .next t ∧ entered t) ∧
    (i.opc = 0x12 → a.planRwait c.toNat i o = .ok p → ∃ t, exec (.rwait c) s = .next t ∧ entered t) ∧
    (i.opc = 0x13 → a.planGather c.toNat i o = .ok p → ∃ t, exec (.gather c) s = .next t ∧ entered t) ∧
    (i.opc = 0x14 → a.planScatter c.toNat i o = .ok p → ∃ t, exec (.scatter c) s = .next t ∧ entered t) ∧
    (i.opc = 0x15 → a.planMcast c.toNat i o = .ok p → ∃ t, exec (.mcast c) s = .next t ∧ entered t) ∧
    (i.opc = 0x18 → a.planFscan c.toNat i o = .ok p → ∃ t, exec (.fscan c) s = .next t ∧ entered t) ∧
    (i.opc = 0x19 → i.mod % 8 = 0 → a.planClear c.toNat i o = .ok p → ∃ t, exec (.tallyClear c) s = .next t ∧ entered t) ∧
    (i.opc = 0x19 → i.mod % 8 = 1 → a.planAccum c.toNat i o = .ok p → ∃ t, exec (.tallyAccum c) s = .next t ∧ entered t) ∧
    (i.opc = 0x19 → i.mod % 8 = 2 → a.planMerge c.toNat i o = .ok p → ∃ t, exec (.tallyMerge c) s = .next t ∧ entered t) ∧
    (i.opc = 0x19 → i.mod % 8 = 3 → a.planEmit c.toNat i o = .ok p → ∃ t, exec (.tallyImage c) s = .next t ∧ entered t) ∧
    (i.opc = 0x19 → i.mod % 8 = 4 → a.planEmit c.toNat i o = .ok p → ∃ t, exec (.tallyFinal c) s = .next t ∧ entered t) ∧
    (i.opc = 0x1C → a.planScore c.toNat i o = .ok p → ∃ t, exec (.score c) s = .next t ∧ entered t) ∧
    (i.opc = 0x1D → a.planSimb c.toNat i o = .ok p → ∃ t, exec (.simb c) s = .next t ∧ entered t) ∧
    (i.opc = 0x20 → a.planPublish c.toNat i o = .ok p → ∃ t, exec (.publish c) s = .next t ∧ entered t) ∧
    (i.opc = 0x21 → a.planPages c.toNat i o = .ok p → ∃ t, exec (.hint c) s = .next t ∧ entered t) ∧
    (i.opc = 0x22 → a.planPages c.toNat i o = .ok p → ∃ t, exec (.pin c) s = .next t ∧ entered t)

/-- An engine instruction whose own checks fail completes with their status and takes no engine; INVALID_INSTRUCTION faults the context, as does any
other status of an instruction that names no predicate (R353, R354). One whose word or descriptor is read in the cycle in which an engine writes it faults the
context with BUSY, and the collisions are counted (R389); in how many cycles they meet is a free value. Where it rests on the model's own readings: log 92. -/
def Obligations.FailedCheckCompletes : Prop :=
  ∀ (s : State) (c : CtxId) (mk : CtxId → Instr) (row : Insn → Bool) (plan : State → Nat → Insn → Op → Except Status Plan), (mk, row, plan) ∈ engRows →
    (∀ (i : Insn) (o : Op) (st : Status), Issues s c.toNat i o → row i = true → plan (s.advance c.toNat i) c.toNat i o = .error st →
      (st = stInvalid ∨ (st ≠ stOk ∧ i.pred = 0)) →
        ∃ t, exec (mk c) s = .next t ∧ (t.ctx c.toNat).state = .faulted ∧ (t.ctx c.toNat).status = st ∧ (t.ctx c.toNat).index = BitVec.ofNat 16 (s.ctx c.toNat).pcx
          ∧ (t.ctx c.toNat).ops = [] ∧ t = { s with ctxs := t.ctxs })
    ∧ (∀ w : BitVec 128, s.canIssue c.toNat = true → s.fetch c.toNat = .insn w → row (insnOf w) = true →
      s.fetchWritten c.toNat (s.names c.toNat (insnOf w)) = true →
        ∃ u : State, (u.blk (c.toNat / 16)).bankColl = satAdd (s.blk (c.toNat / 16)).bankColl s.free.1 ∧ u = { s.free.2 with blks := u.blks }
          ∧ (s.free.1 ≠ 0 → ∃ t, exec (mk c) s = .next t ∧ (t.ctx c.toNat).state = .faulted ∧ (t.ctx c.toNat).status = stBusy
              ∧ (t.ctx c.toNat).index = BitVec.ofNat 16 (s.ctx c.toNat).pcx ∧ t = { u with ctxs := t.ctxs }))

/-- The sequencer's instructions: LOOP opens a loop; ENDLOOP goes back while iterations are left, or leaves the loop; SKIP passes over instructions when the
predicate has the sense; WAITT and YIELD hold issue until a boundary, and the boundary lets it go on and sets WAITT's predicate; FENCE and END hold issue
until what is before them has completed, and with nothing before them complete at once; a reserved opcode faults the context with INVALID_INSTRUCTION
(R345, R346, R356 to R359). Where it rests on the model's own readings: log 126. -/
def Obligations.SequencerInstructions : Prop :=
  ∀ (s : State) (c : CtxId),
    let x := s.ctx c.toNat
    (∀ i o, Issues s c.toNat i o →
      (i.opc = 0x28 → (s.names c.toNat i).all ((s.advance c.toNat i).steppable c.toNat) = true → x.loops.length < 4 →
        ∃ t, exec (.loop c) s = .next t ∧ (t.ctx c.toNat).loops = { start := x.pcx + 1, last := i.imm, iter := 0, steps := s.names c.toNat i } :: x.loops
          ∧ (t.ctx c.toNat).pcx = x.pcx + 1)
      ∧ (∀ f r, i.opc = 0x29 → x.loops = f :: r →
        ∃ t, exec (.endloop c) s = .next t ∧
          if (i.mod = 1 ∧ x.pred i.pred = decide (i.imm = 1)) ∨ f.last = 0 then (t.ctx c.toNat).loops = r ∧ (t.ctx c.toNat).pcx = x.pcx + 1
          else (t.ctx c.toNat).loops = { f with last := f.last - 1, iter := f.iter + 1 } :: r ∧ (t.ctx c.toNat).pcx = f.start)
      ∧ (i.opc = 0x2A →
        ∃ t, exec (.skip c) s = .next t ∧ (t.ctx c.toNat).pcx = x.pcx + 1 + (if x.pred i.pred = decide (bits i.imm 8 1 = 1) then bits i.imm 0 8 else 0))
      ∧ (i.opc = 0x2B →
        ∃ t, exec (.waitt c) s = .next t ∧ (t.ctx c.toNat).pcx = x.pcx + 1 ∧
          (i.mod = 0 → (t.ctx c.toNat).hold = some (s.now + i.imm)) ∧ (i.mod = 1 → s.now < i.imm → (t.ctx c.toNat).hold = some i.imm)
          ∧ (i.mod = 1 → i.imm ≤ s.now → (t.ctx c.toNat).hold = none ∧ (0 < i.pred → (t.ctx c.toNat).preds.getLsbD i.pred = false)))
      ∧ (i.opc = 0x2C →
        ∃ t, exec (.fence c) s = .next t ∧ (t.ctx c.toNat).pcx = x.pcx + 1 ∧
          ((t.ctx c.toNat).fence = none ↔ x.inFlight = [] ∧ x.reqs = [])
          ∧ ((t.ctx c.toNat).fence = none → 0 < i.pred → (t.ctx c.toNat).preds.getLsbD i.pred = true))
      ∧ (i.opc = 0x2D → ∃ t, exec (.yield c) s = .next t ∧ (t.ctx c.toNat).pcx = x.pcx + 1 ∧ (t.ctx c.toNat).hold = some (s.now + 1))
      ∧ (i.opc = 0x2E →
        ∃ t, exec (.endProg c) s = .next t ∧
          (x.inFlight ≠ [] → (t.ctx c.toNat).ending = true ∧ (t.ctx c.toNat).state ≠ .empty)
          ∧ (x.inFlight = [] → (t.ctx c.toNat).state = .empty ∧ (t.ctx c.toNat).status = stOk ∧ (t.ctx c.toNat).index = 0xFFFF)))
    ∧ (∀ h, x.hold = some h → h ≤ s.now →
      ∃ t, exec (.waittExpiry c) s = .next t ∧ (t.ctx c.toNat).hold = none ∧ (0 < x.holdPred.toNat → (t.ctx c.toNat).preds.getLsbD x.holdPred.toNat = true))
    ∧ (∀ w, s.canIssue c.toNat = true → s.fetch c.toNat = .insn w → (insnOf w).form = none →
      s.fetchWritten c.toNat (s.names c.toNat (insnOf w)) = false →
      ∃ t, exec (.reservedOpcode c) s = .next t ∧ (t.ctx c.toNat).state = .faulted ∧ (t.ctx c.toNat).status = stInvalid
        ∧ (t.ctx c.toNat).index = BitVec.ofNat 16 x.pcx ∧ t = { s with ctxs := t.ctxs })

/-- SUBMIT takes the submission at the head of a Square queue: one that is refused is answered at once with its status, one that is accepted records its
source and where its image lies, and its image is read through the port's segments (R370, R372). PROGRAM_IMAGE_LOADED checks the whole image: a sound one is
copied to the context's banks and the context is READY at instruction 0; any other is refused and leaves the slot as it was (R371, R380). Where it rests on the model's own readings: logs 74 and 75. -/
def Obligations.ProgramsAreSubmitted : Prop :=
  (∀ (s : State) (q : QId) (h : QPkt) (t : State) (l : Nat),
    (s.dropSinks q.toNat (s.queue q.toNat nSquare).pkts.length).takeHead q.toNat nSquare = some (h, t) → h.msg.pkt.mtype = 2 → t.submitCheck h.msg = .ok l →
      let w := (h.msg.pkt.data[0]?).getD 0
      let c := sbits w 0 10
      ∃ u : State, exec (.submit q) s = .next (u.imageRead c) ∧ (u.ctx c).srcEid = h.msg.pkt.seid ∧ (u.ctx c).srcTag = h.msg.pkt.tag ∧ (u.ctx c).segs = (t.port l).segs
        ∧ (u.ctx c).image = some { addr := sbits w 16 48, lane := l } ∧ u = { t with ctxs := u.ctxs } ∧ ∀ k, k ≠ c → u.ctx k = t.ctx k)
  ∧ (∀ (s : State) (q : QId) (h : QPkt) (t : State) (st : Status),
    (s.dropSinks q.toNat (s.queue q.toNat nSquare).pkts.length).takeHead q.toNat nSquare = some (h, t) → h.msg.pkt.mtype = 2 → t.submitCheck h.msg = .error st →
      let rcd := packSlot [(16, st.toNat), (16, 0xFFFF), (10, sbits ((h.msg.pkt.data[0]?).getD 0) 0 10), (22, 0), (64, t.now)]
      exec (.submit q) s = .next (t.sendSq { pkt := t.ctlDone h.msg.pkt 3 rcd }))
  ∧ (∀ (s : State) (c : CtxId) (m : Image),
    (s.ctx c.toNat).image = some m → m.pieces.any (fun p => !m.has p.1) = false → (s.ctx c.toNat).reqs = [] → m.pieces.all (fun p => tget m.bst p.1 stOk = stOk) = true →
      let v := m.pieces.flatMap (fun p => bytesAt (tget m.got p.1 []) 0 p.2)
      let st := s.imageCheck c.toNat v
      ∃ t, exec (.programImageLoaded c) s = .next t ∧
        (st = stOk → (t.ctx c.toNat).state = .ready ∧ (t.ctx c.toNat).pcx = 0 ∧ (t.ctx c.toNat).proff.toNat = imProff v % 2 ^ 32
          ∧ (t.ctx c.toNat).ninstr.toNat = imN v % 2 ^ 16 ∧ (t.ctx c.toNat).image = none)
        ∧ (st ≠ stOk → (t.ctx c.toNat).state = (s.ctx c.toNat).state ∧ (t.ctx c.toNat).image = none))

/-- SLICE_START charges the chosen context's C against the engine's budget and its pass value, records the slice, and runs its work; a slice that waited for
data of this device's own pool goes on with no further charge, and ends the instruction of a FAULTED context (R398); with no candidate nothing happens, but on the reduce unit root work takes the turn, as it does
when it comes before the chosen context (R46, R48, R49, R275, R383). SLICE_OVERRUN takes the cycles beyond C from the engine's next budget, charges the context,
counts the overrun and completes the instruction with TICK_OVERRUN, which faults the context; where its last slice has ended the program, the status stands in
the slot (R50, R51). SLICE_ABORT charges what is left up to the budget beyond C, after what the slice wrote has become undefined. STREAM_CONS_POLL asks again
for CONS, or lets a parked context ask when it is next in (R351, R381). Where it rests on the model's own readings: logs 62, 71, 72 and 111. -/
def Obligations.SlicesRun : Prop :=
  (∀ (s : State) (g : BlockId) (e : Eng) (c : Nat) (o : Op) (n : Nat), s.waiting g.toNat e.toNat = none → s.choose g.toNat e.toNat = some (c, o, n) →
    c / 16 = g.toNat → ¬(e.toNat = eRed ∧ s.redBeaten g.toNat c (s.collWork g.toNat) = true) →
      ∃ u : State, exec (.sliceStart g e) s = .next ((if o.ofScan e.toNat then u.scanTile c o else u.slice (taskOf c (insnOf o.word)) c e.toNat n).review)
        ∧ u.budgetOf g.toNat e.toNat = s.budgetOf g.toNat e.toNat - n
        ∧ (u.ctx c).pass e.toNat = ((s.ctx c).pass e.toNat + n * (s.ctx c).stride) % 2 ^ 64
        ∧ (∃ r : Slice, tget (u.blk g.toNat).run e.toNat none = some r ∧ r.ctx = c ∧ r.cost = n ∧ r.idx = o.idx ∧ r.seq = o.seq ∧ r.tick = s.now)
        ∧ u.mem = s.mem ∧ u.parts = s.parts)
  ∧ (∀ (s : State) (g : BlockId) (e : Eng), s.waiting g.toNat e.toNat = none →
      (s.choose g.toNat e.toNat = none → exec (.sliceStart g e) s = .next (if e.toNat = eRed then (s.rootWork g.toNat).review else s))
      ∧ (∀ c o n, s.choose g.toNat e.toNat = some (c, o, n) → e.toNat = eRed → s.redBeaten g.toNat c (s.collWork g.toNat) = true →
          exec (.sliceStart g e) s = .next (s.rootWork g.toNat).review))
  ∧ (∀ (s : State) (g : BlockId) (e : Eng) (c : Nat) (o : Op) (n : Nat), s.waiting g.toNat e.toNat = some (c, o, n) →
      ∃ u : State, exec (.sliceStart g e) s = .next (((u.slice (taskOf c (insnOf o.word)) c e.toNat ((taskOf c (insnOf o.word)).past + n)).stopFaulted c e.toNat).review)
        ∧ u.budgetOf g.toNat e.toNat = s.budgetOf g.toNat e.toNat ∧ u.ctxs = s.ctxs ∧ u.mem = s.mem)
  ∧ (∀ (s : State) (g : BlockId) (e : Eng) (extra : BitVec 16) (r : Slice), tget (s.blk g.toNat).run e.toNat none = some r → r.past = 0 → 0 < extra.toNat →
    extra.toNat ≤ s.budgetMax →
      ((s.ctx r.ctx).state = .ready ∨ (s.ctx r.ctx).state = .blocked →
        ∃ t, exec (.sliceOverrun g e extra) s = .next t ∧ tget (t.blk g.toNat).debt e.toNat 0 = tget (s.blk g.toNat).debt e.toNat 0 + extra.toNat
          ∧ (t.ctx r.ctx).state = .faulted ∧ (t.ctx r.ctx).status = stOverrun ∧ (t.ctx r.ctx).index = r.idx ∧ t.mem = s.mem)
      ∧ ((s.ctx r.ctx).state = .empty →
        ∃ t, exec (.sliceOverrun g e extra) s = .next t ∧ tget (t.blk g.toNat).debt e.toNat 0 = tget (s.blk g.toNat).debt e.toNat 0 + extra.toNat
          ∧ (t.ctx r.ctx).state = .empty ∧ (t.ctx r.ctx).status = stOverrun ∧ (t.ctx r.ctx).index = r.idx ∧ (t.ctx r.ctx).ovr = satAdd (s.ctx r.ctx).ovr 1
          ∧ (t.ctx r.ctx).pass e.toNat = ((s.ctx r.ctx).pass e.toNat + extra.toNat * (s.ctx r.ctx).stride) % 2 ^ 64 ∧ t.mem = s.mem))
  ∧ (∀ (s : State) (g : BlockId) (e : Eng) (r : Slice), tget (s.blk g.toNat).run e.toNat none = some r → (r.past < s.budgetMax ∨ r.past = 0) →
      ∃ u : State, exec (.sliceAbort g e) s = .next (if r.past = 0 then u.overrun g.toNat r.ctx (r.cost + s.budgetMax) r else u)
        ∧ u = ((s.spoilSlice e.toNat r).cutSlice g.toNat e.toNat r).chargeOver g.toNat e.toNat r.ctx (s.budgetMax - r.past)
        ∧ tget (u.blk g.toNat).debt e.toNat 0 = tget (((s.spoilSlice e.toNat r).cutSlice g.toNat e.toNat r).blk g.toNat).debt e.toNat 0 + (s.budgetMax - r.past))
  ∧ (∀ (s : State) (c : CtxId) (o : Op), (s.ctx c.toNat).causes.any (fun k => k.src = eFilt && k.why = 5) = true →
    (s.ctx c.toNat).op eFilt = some o → tget o.tab 0 0 ≠ s.now + 1 →
      let u := s.updCtx c.toNat (fun x => x.unblock eFilt)
      ((s.ctx c.toNat).parked = false → exec (.streamConsPoll c) s = .next (u.pollCons c.toNat).review)
      ∧ ((s.ctx c.toNat).parked = true → exec (.streamConsPoll c) s = .next u))

/-- A FAULTED context with nothing in flight and nothing outstanding becomes EMPTY with its status kept (R398). The sequencer parks the candidate of R390 when the runnable context
does not fit and every resident context is BLOCKED, and brings in the one parked longest ago when its entries fit: it is READY or, by its causes, BLOCKED
again (R390, R391). Where it rests on the model's own readings: log 116. -/
def Obligations.ContextsSettleAndSwap : Prop :=
  (∀ (s : State) (c : CtxId), (s.ctx c.toNat).state = .faulted → (s.ctx c.toNat).inFlight = [] → (s.ctx c.toNat).reqs = [] →
    ∃ t, exec (.contextSettled c) s = .next t ∧ (t.ctx c.toNat).state = .empty ∧ (t.ctx c.toNat).status = (s.ctx c.toNat).status
      ∧ (t.ctx c.toNat).index = (s.ctx c.toNat).index ∧ ∀ k, k ≠ c.toNat → t.ctx k = s.ctx k)
  ∧ (∀ (s : State) (g : BlockId) (a c : Nat) (x y : Ctx), s.bringCand g.toNat = some (a, x) → s.parkCand g.toNat = some (c, y) → c / 16 = g.toNat →
    s.entriesFit g.toNat x (fun _ => 0) = false → s.allBlocked g.toNat = true →
    s.entriesFit g.toNat x (fun e => ((s.parkable g.toNat).map (fun z => z.2.held e)).sum) = true →
      ∃ t, exec (.contextPark g) s = .next t ∧ (t.ctx c).state = .swapped ∧ (t.ctx c).parked = true ∧ (t.ctx c).parkT = s.now
        ∧ (t.blk g.toNat).parks = satAdd (s.blk g.toNat).parks 1 ∧ t.mem = s.mem)
  ∧ (∀ (s : State) (g : BlockId) (c : Nat) (x : Ctx), s.bringCand g.toNat = some (c, x) → s.entriesFit g.toNat x (fun _ => 0) = true →
      exec (.contextBringIn g) s = .next (s.bringIn c)
      ∧ ((s.ctx c).mail = [] → ((s.bringIn c).ctx c).state = .ready ∨ ((s.bringIn c).ctx c).state = .blocked)
      ∧ ((s.ctx c).mail = [] → ((s.bringIn c).ctx c).parked = false ∧ ((s.bringIn c).ctx c).inT = some s.now))

/-- PUBLISH at its root's home: content that covers a 16 GiB page in part is INVALID_INSTRUCTION (R237); the decision goes through the rows of R238, a version below VC being STALE_VERSION, the version and content registered before
being OK again, and an accepted one sealing its content pages; the completion writes the root line and registers it. Where it rests on the model's own readings: logs 81 and 82. -/
def Obligations.PublishIsDecided : Prop :=
  (∀ (s : State) (g : BlockId) (u : Pub) (p : Nat), (s.blk g.toNat).nextPub g.toNat = some u → s.partOfBlk g.toNat = some p →
    (s.part p).killed = false → (s.part p).state ≠ .fenced → tget (s.part p).arriving u.root none = none → (s.part p).isHome s.now g.toNat u.root = true →
    (s.ent g.toNat u.root).txn = none → (s.ent g.toNat u.root).due = none → (s.ent g.toNat u.root).mode = .none →
      ∃ t, t = s.settleOwner g.toNat p u.root ∧ exec (.publishDecision g) s = .next (t.pubDecide g.toNat p u))
  ∧ (∀ (s : State) (g p : Nat) (u : Pub),
      let t := (s.askPages p g (u.root / 2 ^ 21 :: u.pages)).1
      let v := (u.root / 2 ^ 21 :: u.pages).foldl (fun s n => s.xlateUsed p g n) t
      let old := t.lineBytes g p u.root
      let known := (t.blk g).roots.contains u.root
      (s.askPages p g (u.root / 2 ^ 21 :: u.pages)).2 = false → ((t.part p).page (u.root / 2 ^ 21)).state ≠ .lostPage → (known = true → v.lineBad g p u.root = false) →
        (t.contentPart p g u = true → s.pubDecide g p u = v.pubEnd g u stInvalid)
        ∧ (t.contentPart p g u = false → known = true →
          (u.version.toNat < natAt old 0 8 → s.pubDecide g p u = v.pubEnd g u stStaleVersion)
          ∧ (u.version.toNat = natAt old 0 8 → natAt old 8 8 = u.base → natAt old 16 8 = u.length → natAt old 24 8 = u.ctag.toNat →
              s.pubDecide g p u = v.pubEnd g u stOk)))
  ∧ (∀ (s : State) (g p : Nat) (u : Pub) (ks : List (Nat × Bool)) (t : State), s.pubAccept g p u ks = some t → (s.needs g u.root tST 0xFFF 0).2.1 = [] → s.wayLess g u.root = false →
      ∀ k, k ∈ ks.map (·.1) → (tget (t.part p).pages k {}).sealed = true)
  ∧ (∀ (s : State) (g : BlockId) (u : Pub) (p : Nat), s.partOfBlk g.toNat = some p → (s.blk g.toNat).pubs.head? = some u → u.decided = true → u.walking = [] →
    (s.ent g.toNat u.root).txn = none →
      ∃ v w : State, exec (.publishComplete g) s = .next (w.pubEnd g.toNat u stOk)
        ∧ v = s.lineWrite g.toNat p u.root 0 (s.rootBytes u) false
        ∧ w = (v.updBlk g.toNat (fun b => { b with roots := setIns b.roots u.root })).updEnt g.toNat u.root (fun e => { e with mode := .none }))

/-! ### Links -/

/-- A flit is taken by a port: one with a bad CRC is discarded and counted, and asks for a replay where the port is ACTIVE; a DATA flit in sequence is taken,
its link header acted on, and the next number expected; one out of sequence asks for a replay; an IDLE flit acts by its header alone; a good one with a
reserved link header is discarded and counted; a DATA flit at a port that is not ACTIVE lands nothing, its packets counted as unbound, or as stale where the
port is FENCED (R14, R60, R61, R65, R67, R68, R72). A command whose flit has not fifteen slots is no flit, and faults: the model's own stop. Where it rests on
the model's own readings: logs 95, 121 and 129. -/
def Obligations.FlitsAreTaken : Prop :=
  ∀ (s : State) (lane : Lane) (f : Flit) (ns turn : Ns),
    let l := lane.toNat
    let p := s.port l
    (f.slots.length ≠ 15 → exec (.dataFlit lane f) s = .fault .malformedCommand ∧ exec (.idleFlit lane f) s = .fault .malformedCommand
      ∧ exec (.jreq lane f) s = .fault .malformedCommand ∧ exec (.jconfirm lane f) s = .fault .malformedCommand
      ∧ exec (.probe lane f ns turn) s = .fault .malformedCommand ∧ exec (.echo lane f ns) s = .fault .malformedCommand
      ∧ exec (.joinReply lane f) s = .fault .malformedCommand ∧ exec (.notice lane (.join f)) s = .fault .malformedCommand)
    -- a bad CRC, whatever the flit is
    ∧ (f.slots.length = 15 → p.enabled = true → f.good = false →
        let t := s.updPort l (fun p => { p with crcErr := satAdd p.crcErr 1, health := p.health.add 16, nak := p.nak || decide (p.state = .active) })
        exec (.dataFlit lane f) s = .next t ∧ exec (.idleFlit lane f) s = .next t ∧ exec (.jreq lane f) s = .next t ∧ exec (.jconfirm lane f) s = .next t
        ∧ exec (.probe lane f ns turn) s = .next t ∧ exec (.echo lane f ns) s = .next t ∧ exec (.joinReply lane f) s = .next t
        ∧ exec (.notice lane (.join f)) s = .next t)
    -- a good flit with a reserved link header
    ∧ (f.slots.length = 15 → p.enabled = true → f.good = true → f.headOk = false →
        let t := s.updPort l (fun p => { p with rsvdEnc := satAdd p.rsvdEnc 1, nak := p.nak || (decide (p.state = .active) && decide (f.ftype = 0)) })
        exec (.dataFlit lane f) s = .next t ∧ exec (.idleFlit lane f) s = .next t ∧ exec (.jreq lane f) s = .next t)
    ∧ (f.slots.length = 15 → p.enabled = true → p.state = .active → f.good = true → f.headOk = true → f.ftype = 0 →
        let u := s.linkHeader l f.hdr
        (sbits f.hdr 4 12 = (u.port l).rxSeq.toNat →
          ∃ v, exec (.dataFlit lane f) s = .next (((List.range 15).zip f.slots).foldl (fun s x => s.takeSlot l (sbit f.hdr (48 + x.1)) x.2) v)
            ∧ (v.port l).rxSeq = (u.port l).rxSeq + 1 ∧ (v.port l).nak = false ∧ (v.port l).rxAny = true ∧ v = { u with ports := v.ports })
        ∧ (sbits f.hdr 4 12 ≠ (u.port l).rxSeq.toNat →
          ∃ v, exec (.dataFlit lane f) s = .next v ∧ (v.port l).nak = true ∧ (v.port l).rxSeq = (u.port l).rxSeq ∧ v = { u with ports := v.ports }))
    ∧ (f.slots.length = 15 → p.off = 0 → p.state ≠ .active → f.good = true → f.headOk = true → f.ftype = 0 →
        (p.state ≠ .fenced → exec (.dataFlit lane f) s = .next (s.updPort l (fun p => { p with unbound := satAdd p.unbound f.starts })))
        ∧ (p.state = .fenced → exec (.dataFlit lane f) s = .next ((List.range f.starts).foldl (fun s _ => s.staleDrop l p.peerEid) s)))
    ∧ (f.slots.length = 15 → p.enabled = true → p.state = .active → f.good = true → f.headOk = true → f.ftype = 1 →
        exec (.idleFlit lane f) s = .next (s.linkHeader l f.hdr))

/-- Training and recovery of an enabled port: ALIGN ends in HELLO with its probes and its JREQ afresh; unacknowledged flits are sent again, or after five
sendings the port retrains; locked lanes lead to ALIGN, one half of them with a downshift; a port that fails to lock or to retrain goes DOWN with LINK_DOWN; a
fourth ALIGN failure does too; a retrain leads back to ACTIVE, its flits sent again with counts of sendings begun anew and no replay counted; loss of signal
retrains (R55, R58, R69 to R72, R86, R90, R504). A port that needs a retrain enters RETRAIN, counted; the third within 1,000 ticks sends it DOWN, with no entry
to RETRAIN (R71, R90). Where it rests on the model's own readings: logs 99 and 100. -/
def Obligations.PortsTrain : Prop :=
  (∀ (s : State) (lane : Lane),
    let l := lane.toNat
    let p := s.port l
    let down := (((s.flush l).updPort l (fun p => { p with jreq := none, grant := none })).toState l .down).raise { code := 0x06, unit := uPort l, d0 := BitVec.ofNat 64 p.state.code }
    p.enabled = true →
    (p.state = .align →
      ∃ u : State, exec (.alignDone lane) s = .next ((u.noteTrunk l).noteGaps l) ∧ (u.port l).state = .hello ∧ (u.port l).probes = [] ∧ (u.port l).jreqAt = none
        ∧ (u.port l).replied = false ∧ (u.port l).jreq = none ∧ (u.port l).since = s.now ∧ u = { s with ports := u.ports, freeCtr := u.freeCtr })
    ∧ (p.state = .active → p.unacked ≠ [] →
        (p.unacked.any (fun f => 5 ≤ f.sends) = true → exec (.replayTimeout lane) s = .next (s.toRetrain l))
        ∧ (p.unacked.any (fun f => 5 ≤ f.sends) = false →
          ∃ u : State, exec (.replayTimeout lane) s = .next (p.unacked.foldl (fun s f => s.send (.flit l f.flit)) u) ∧ (u.port l).replayCnt = satAdd p.replayCnt 1
            ∧ (u.port l).unacked = p.unacked.map (fun f => { f with sends := f.sends + 1 }) ∧ u = { s with ports := u.ports }))
    ∧ (∀ m : BitVec 8, p.state = .train →
        let n := p.lanes
        let k := m.toNat % 2 ^ n
        let half := 2 ^ (n / 2) - 1
        (k = 2 ^ n - 1 → ∃ u : State, exec (.lanesLocked lane m) s = .next ((u.noteTrunk l).noteGaps l) ∧ (u.port l).state = .align ∧ (u.port l).width = p.width)
        ∧ (k ≠ 2 ^ n - 1 → p.dshen = true → 2 ≤ n → k % 2 ^ (n / 2) = half ∨ k / 2 ^ (n / 2) = half →
          ∃ u : State, exec (.lanesLocked lane m) s = .next (((u.noteTrunk l).noteGaps l).raise { code := 0x02, unit := uPort l, d0 := BitVec.ofNat 64 k })
            ∧ (u.port l).state = .align ∧ (u.port l).width = p.width - 1 ∧ (u.port l).downsh = true))
    ∧ (p.state = .train → exec (.trainTimeout lane) s = .next down)
    ∧ (p.state = .align → p.tries < 3 → ∃ u : State, exec (.alignTimeout lane) s = .next ((u.noteTrunk l).noteGaps l) ∧ (u.port l).state = .train ∧ (u.port l).tries = p.tries + 1)
    ∧ (p.state = .align → 3 ≤ p.tries → exec (.alignTimeout lane) s = .next down)
    ∧ (p.state = .retrain →
        let u := (s.updPort l (fun p => { p with unacked := p.unacked.map (fun f => { f with sends := 1 }) })).toState l .active
        exec (.retrainSuccess lane) s = .next (if (u.port l).unacked = [] then u else u.resendFlits l))
    ∧ (p.state = .retrain → exec (.retrainTimeout lane) s = .next down)
    ∧ (p.state = .active → s.cage.getLsbD (l / 8) = true → exec (.lossOfSignal lane) s = .next (s.toRetrain l)))
  ∧ (∀ (s : State) (l : Nat),
    let p := s.port l
    let near := p.retrains.filter (fun t => s.now < endOf t 1000)
    (near.length < 2 → ∃ u : State, s.toRetrain l = (u.noteTrunk l).noteGaps l ∧ (u.port l).state = .retrain ∧ (u.port l).retrainCnt = satAdd p.retrainCnt 1
      ∧ (u.port l).unacked = p.unacked ∧ u = { s with ports := u.ports })
    ∧ (2 ≤ near.length → p.state = .active →
      ∃ u : State, s.toRetrain l = u.goDown l ∧ (u.port l).retrainCnt = p.retrainCnt ∧ (u.port l).state = .active ∧ u = { s with ports := u.ports }))

/-- The join handshake of an enabled port, in JOIN flits with a good CRC and legal encodings (R59 to R61, R72 to R77, R83, R506). Where it rests on the model's
own readings: logs 100, 101, 130 and 131. -/
def Obligations.PortsJoin : Prop :=
  ∀ (s : State) (lane : Lane) (f : Flit) (ns turn : Ns),
    let l := lane.toNat
    let p := s.port l
    let m := f.join
    let b := s.joinBase l f
    p.enabled = true →
    -- a JREQ is recorded, or denied at once with its reason; from ACTIVE the port first returns to HELLO
    (∀ w : State, (if (b.port l).state = .active then w = (b.flush l).toHello l else w = b ∧ ((b.port l).state = .hello ∨ (b.port l).state = .joining ∨ (b.port l).state = .fenced)) →
      JoinFlit f → m.jtype = 0 → (∀ j, (w.port l).jreq = some j → j.nonce ≠ m.nonce) →
        (w.joinReason l m = none →
          ∃ u : State, exec (.jreq lane f) s = .next (if (w.port l).state = .hello then (if 8 ≤ (w.port l).probes.length then u.toAdmit l else u) else u.toAdmit l)
            ∧ (u.port l).jreq = some { eid := m.eid, inc := m.inc, role := BitVec.ofNat 2 m.role, nonce := m.nonce, pending := false, decided := false, since := w.now }
            ∧ (∀ k, k < 8 → (tget (u.port l).peerCr k 0).toNat = sbits m.s2 (16 * k) 16) ∧ u = { w with ports := u.ports })
        ∧ (∀ r, w.joinReason l m = some r → (w.port l).state ≠ .joining → exec (.jreq lane f) s = .next (w.sendJoin l 2 m.eid m.inc r m.nonce))
        ∧ (∀ r, w.joinReason l m = some r → (w.port l).state = .joining → exec (.jreq lane f) s = .next ((w.sendJoin l 2 m.eid m.inc r m.nonce).toHello l)))
    -- JCONFIRM within 10 ticks of the grant
    ∧ (∀ e i d j, p.grant = some (e, i, d) → p.jreq = some j → p.state = .joining → JoinFlit f → m.jtype = 3 → m.eid = e → m.inc = i → m.nonce = j.nonce →
        s.now < endOf p.grantAt 10 →
          ∃ u : State, exec (.jconfirm lane f) s = .next ((u.noteTrunk l).noteGaps l).settleAll ∧ (u.port l).state = .active ∧ (u.port l).peerEid = e ∧ (u.port l).peerInc = i
            ∧ (u.port l).role = j.role + 1 ∧ (u.port l).txSeq = 0 ∧ (u.port l).rxSeq = 0 ∧ (u.port l).heldCr = p.peerCr ∧ (u.port l).unacked = [] ∧ u.incOf e = i)
    ∧ (p.state = .joining → p.grant.isSome = true → endOf p.grantAt 10 ≤ s.now →
        ∃ u : State, exec (.jconfirmTimeout lane) s = .next ((u.noteTrunk l).noteGaps l) ∧ (u.port l).state = .hello ∧ (u.port l).grant = none ∧ (u.port l).jreq = none)
    ∧ (∀ j, p.state = .joining → p.jreq = some j → j.pending = true → j.decided = false → endOf j.since 100000 ≤ s.now →
        exec (.joinDecisionTimeout lane) s = .next ((s.sendJoin l 2 j.eid j.inc 4 j.nonce).toHello l))
    -- HELLO: a JREQ every 10 ticks until it is answered, one PROBE every tick, each in a JOIN flit
    ∧ (p.state = .hello → p.replied = false → (∀ t, p.jreqAt = some t → t + 10 ≤ s.now) → s.boot.halted = false →
        ∃ t : State, exec (.jreqResend lane ns) s = .next t ∧ (t.port l).jreqAt = some s.now
          ∧ ∃ k : JoinMsg, t.out = s.out ++ [.flit l (joinFlitOf 2 k)] ∧ k.jtype = 0 ∧ k.role = 1 ∧ k.eid = s.selfEid ∧ k.inc = s.selfInc ∧ k.nonce = p.nonce ∧ k.legal = true)
    ∧ (p.state = .hello → p.probeAt ≠ some s.now → s.boot.halted = false →
        ∃ t : State, exec (.probeSend lane ns) s = .next t ∧ (t.port l).probeAt = some s.now ∧ (t.port l).probeQ = p.probeQ ++ [(s.now, ns.val)]
          ∧ ∃ k : JoinMsg, t.out = s.out ++ [.flit l (joinFlitOf 2 k)] ∧ k.jtype = 4 ∧ k.legal = true)
    ∧ ((b.port l).state = .hello ∨ (b.port l).state = .joining ∨ (b.port l).state = .fenced ∨ (b.port l).state = .active → JoinFlit f → m.jtype = 4 → b.boot.halted = false →
        ∃ t : State, ∃ h : BitVec 64, ∃ k : JoinMsg, exec (.probe lane f ns turn) s = .next t ∧ t.out = b.out ++ [.flit l (joinFlitOf h k)] ∧ sbits h 0 4 = 2
          ∧ k.jtype = 5 ∧ k.nonce = m.nonce ∧ sbits k.s1 74 16 = turn.val ∧ k.legal = true ∧ ((b.port l).state ≠ .active → h = 2 ∧ t.ports = b.ports))
    ∧ (∀ t n rest, p.state = .hello → JoinFlit f → m.jtype = 5 → p.probeQ = (t, n) :: rest →
        let ds := p.probes ++ [((s.now * 1000 + ns.val) - (t * 1000 + n) - sbits m.s1 74 16) / 2]
        ∃ u : State, exec (.echo lane f ns) s = .next (if ds.length = 8 ∧ p.jreq.isSome = true then u.toAdmit l else u) ∧ (u.port l).probes = ds
          ∧ (u.port l).probeQ = rest ∧ (ds.length = 8 → (u.port l).delay = BitVec.ofNat 16 (ds.foldl min (ds.getLastD 0))) ∧ u = { s with ports := u.ports })
    -- the answer to this port's JREQ
    ∧ (p.state = .hello ∨ p.state = .joining → JoinFlit f → m.nonce = p.nonce →
        (m.jtype = 1 → ∃ u : State, exec (.joinReply lane f) s = .next (u.sendJoin l 3 m.eid m.inc 0 m.nonce) ∧ (u.port l).replied = true ∧ u = { s with ports := u.ports })
        ∧ (m.jtype = 2 → p.state = .hello → ∃ t : State, exec (.joinReply lane f) s = .next t ∧ (t.port l).replied = true ∧ t = { s with ports := t.ports })
        ∧ (m.jtype = 2 → p.state = .joining → ∃ u : State, exec (.joinReply lane f) s = .next ((u.noteTrunk l).noteGaps l) ∧ (u.port l).state = .hello ∧ (u.port l).jreq = none))

/-- A NOTICE is consumed and nothing is queued. The packet form, at an ACTIVE port: its credit goes back; its source is checked as every packet's, and one whose
source is not current, or on an endpoint port not its own, is counted (R80, R81, R132). A JOIN flit with a reserved encoding in its message changes nothing but
RSVDENC of its port, whatever join command brings it; one that is legal changes nothing (R14, R73, R81). Where it rests on the model's own readings: log 98. -/
def Obligations.NoticesAreConsumed : Prop :=
  (∀ (s : State) (lane : Lane) (h : Slot),
    let l := lane.toNat
    let k := Pkt.ofHeader h
    let p := s.port l
    let u := s.updPort l (fun x => { x with owed := tset x.owed 0 (tget x.owed 0 0 + 1) 0 })
    p.enabled = true → p.state = .active → k.tc = 0 → k.mtype = 5 →
      (s.sourceOk k = true → (p.role = 1 → k.seid = p.peerEid) → k.legal false = true →
        exec (.notice lane (.packet h)) s = .next (u.police l k).2 ∧ tget (u.port l).owed 0 0 = tget p.owed 0 0 + 1)
      ∧ (s.sourceOk k = false → exec (.notice lane (.packet h)) s = .next (u.staleDrop l k.seid))
      ∧ (s.sourceOk k = true → p.role = 1 → k.seid ≠ p.peerEid → exec (.notice lane (.packet h)) s = .next (u.updPort l (fun x => { x with unbound := satAdd x.unbound 1 }))))
  ∧ (∀ (s : State) (lane : Lane) (f : Flit) (ns turn : Ns),
    let l := lane.toNat
    let t := s.updPort l (fun p => { p with rsvdEnc := satAdd p.rsvdEnc 1 })
    (s.port l).enabled = true → f.slots.length = 15 → f.good = true → f.headOk = true → f.ftype = 2 →
      (f.joinOk = false → exec (.jreq lane f) s = .next t ∧ exec (.probe lane f ns turn) s = .next t ∧ exec (.echo lane f ns) s = .next t
        ∧ exec (.joinReply lane f) s = .next t ∧ exec (.jconfirm lane f) s = .next t ∧ exec (.notice lane (.join f)) s = .next t)
      ∧ (f.joinOk = true → exec (.notice lane (.join f)) s = .next (s.joinBase l f)))

/-- A cable group that comes in raises CABLE_IN and sends each enabled port of the group into TRAIN; one that goes out raises CABLE_OUT and takes them DOWN (R84
to R86). -/
def Obligations.CablesComeAndGo : Prop :=
  ∀ (s : State) (group : BitVec 6),
    let k := group.toNat
    s.ticking = true →
    (s.cage.getLsbD k = false → ∃ u : State, exec (.cableIn group) s = .next (if s.quartersOn then ((u.raise { code := 0x04, unit := uCage k }).groupPorts k).foldl (fun s l => s.toTrain l true) (u.raise { code := 0x04, unit := uCage k })
          else u.raise { code := 0x04, unit := uCage k })
        ∧ u.cage.getLsbD k = true ∧ (∀ j, j < 64 → j ≠ k → u.cage.getLsbD j = s.cage.getLsbD j) ∧ u = { s with cage := u.cage })
    ∧ (s.cage.getLsbD k = true → ∃ u : State, exec (.cableOut group) s = .next (((u.raise { code := 0x05, unit := uCage k }).groupPorts k).foldl (fun s l => s.goDown l) (u.raise { code := 0x05, unit := uCage k }))
        ∧ u.cage.getLsbD k = false ∧ (∀ j, j < 64 → j ≠ k → u.cage.getLsbD j = s.cage.getLsbD j) ∧ u = { s with cage := u.cage })
    ∧ (s.cage.getLsbD k = false → exec (.cableOut group) s = .next s) ∧ (s.cage.getLsbD k = true → exec (.cableIn group) s = .next s)

/-- Packets at a port: as its header slot is accepted a packet is judged by its source, its port's binding and its policer; the oldest landed packet is then acted
on: one that failed is dropped and counted with its credit returned, an illegal encoding too, one that passed stays judged and is admitted, one over its policer
becomes its POLICED answer (R14, R80, R132, R135); a refused head is tried again; a gap that is over lets E move on (R114); a free link with nothing to send
sends an IDLE flit (R67, R98, R100, R115). Where it rests on the model's own readings: logs 96 and 97. -/
def Obligations.PacketsMove : Prop :=
  ∀ (s : State) (lane : Lane) (tc : Tc),
    let l := lane.toNat
    let k := tc.toNat
    let p := s.port l
    let onward := fun (u : State) => match s.trunkOfLane l with
      | some t => if s.spray.getLsbD k then u.checkGap t k else u
      | none => u
    p.enabled = true →
    (∀ x : Pkt, (s.sourceOk x = false → s.verdict l x = (3, s)) ∧ (s.sourceOk x = true → p.role = 1 → x.seid ≠ p.peerEid → s.verdict l x = (4, s))
      ∧ (s.sourceOk x = true → (p.role = 1 → x.seid = p.peerEid) → s.verdict l x = (if (s.police l x).1 then 1 else 2, (s.police l x).2)))
    ∧ (∀ m rest, s.ring l k = m :: rest → m.ingress = 0 → s.pw.state ≠ 2 →
      let gone := (s.setRing l k rest).dropLanded m
      (m.verd = 3 → exec (.packetIngress lane tc) s = .next (onward ((gone id).staleDrop l m.pkt.seid)))
      ∧ (m.verd = 4 → exec (.packetIngress lane tc) s = .next (onward (gone (fun p => { p with unbound := satAdd p.unbound 1 }))))
      ∧ (m.verd ≠ 3 → m.verd ≠ 4 → m.pkt.legal (p.role = 1) = false →
        exec (.packetIngress lane tc) s = .next (onward (gone (fun p => { p with rsvdEnc := satAdd p.rsvdEnc 1 }))))
      ∧ (m.pkt.legal (p.role = 1) = true → ¬(m.pkt.tc = 4 ∧ p.role = 1 ∧ p.job ≠ m.pkt.job ∧ m.pkt.deid ≠ s.selfEid) →
        (m.verd = 1 → exec (.packetIngress lane tc) s = .next ((s.setRing l k ({ m with ingress := 1 } :: rest)).admitHead l k))
        ∧ (∀ a, m.verd = 2 → s.policed m = some a → exec (.packetIngress lane tc) s = .next ((s.setRing l k (a :: rest)).admitHead l k))))
    ∧ exec (.queueAdmissionRetry (.landing lane tc)) s = .next (s.admitHead l k)
    ∧ (∀ (trunk : BitVec 5) e, tfind (s.trunk trunk.toNat).gap k = some e → e ≤ s.now → (s.trunk trunk.toNat).members.all (fun j => (s.port j).state ≠ .retrain) = true →
        exec (.reseqGapTimeout trunk tc) s = .next (if (s.sprayHeads trunk.toNat k).any (fun h => h.2 = tget (s.trunk trunk.toNat).exp k 0) then s.checkGap trunk.toNat k
          else (s.declareGap trunk.toNat k).checkGap trunk.toNat k))
    ∧ (∀ ns : Ns, p.state = .active → s.boot.halted = false → p.markerDue = false → p.noticeDue = false → (∀ j, (s.queue (qOfLane l) (nPort l j)).pkts = []) → s.pw.state ≠ 2 →
        ∃ u : State, ∃ h : BitVec 64, exec (.packetEgress lane ns) s = .next (u.send (.flit l (mkFlit h []))) ∧ sbits h 0 4 = 1 ∧ sbits h 16 12 = (p.rxSeq - 1).toNat ∧ sbit h 28 = p.rxAny
          ∧ sbit h 29 = p.nak ∧ u = { s with ports := u.ports })
    ∧ (∀ (ns : Ns) (x : QPkt) r, p.state = .active → s.boot.halted = false → p.markerDue = false → p.noticeDue = false → s.pw.state = 2 → (s.queue (qOfLane l) (nPort l 0)).pkts = x :: r →
        x.started = false → s.eligible l 0 = true → p.unacked.length + x.msg.pkt.cells ≤ 1024 →
          exec (.packetEgress lane ns) s = .next ((s.updPort l (fun p => { p with nakAck := none })).startPkt l 0 ns.val))

/-! ### Messages and homes -/

/-- An event, and a message of the Square or of a Block, changes queues, counts and records alone: no byte of memory, no partition, context, tray, power or
start-up state, and no incarnation. -/
def Obligations.MessagesLeaveTheRestAlone : Prop :=
  (∀ (s : State) (e : Event), RestAlone s (s.raise e)) ∧ (∀ (s : State) (m : Msg), RestAlone s (s.sendSq m))
  ∧ (∀ (s : State) (g : Nat) (m : Msg), RestAlone s (s.sendBlk g m))

/-- A raised event takes the next place of the ring of 4,096, with the next sequence number and the current tick, and each interface is interrupted (R466,
R469, R485). -/
def Obligations.EventsAreRecorded : Prop :=
  ∀ (s : State) (e : Event),
    let t := s.raise e
    let f := tget t.sec.evts (s.sec.eseq.toNat % 4096) {}
    t.sec.eseq = s.sec.eseq + 1 ∧ f.code = e.code ∧ f.unit = e.unit ∧ f.seq = s.sec.eseq ∧ f.tick = s.tb.tick ∧ f.job = e.job ∧ f.part = e.part
    ∧ f.ctx = e.ctx ∧ f.eid = e.eid ∧ f.inc = e.inc ∧ f.d0 = e.d0 ∧ f.d1 = e.d1
    ∧ (∀ k, k ≠ s.sec.eseq.toNat % 4096 → tget t.sec.evts k {} = tget s.sec.evts k {}) ∧ t.sec.jrnl = s.sec.jrnl ∧ t.sec.jdig = s.sec.jdig
    ∧ ∃ l, t.out = s.out ++ .msix 0 :: l

/-- The gates of a home, for a request of any kind: in a FENCED partition TARGET_DEAD; a request whose incarnation is not current is discarded and counted
without an answer; of a killed job TEARDOWN, counted; for a line this Block is not the home of, or whose home is still to arrive, RETRY_LATER. Memory is
unchanged (R170, R177, R417). Where it rests on the model's own readings: log 59. -/
def Obligations.HomesTurnRequestsAway : Prop :=
  ∀ (s t : State) (g : BlockId) (p : Nat) (h : QPkt) (i : BlockId → Instr) (k : Nat),
    (i, k) ∈ [(Instr.ldRequest, tLD), (.stRequest, tST), (.atRequest, tAT), (.pflistRequest, tPF), (.rdshared, tRdShared), (.rdown, tRdOwn), (.wrinv, tWrInv),
      (.wrback, tWrBack), (.evict, tEvict), (.lostclr, tLostClr)] →
    s.takeHead (qOfBlk g.toNat) (nBlk g.toNat 2) = some (h, t) → s.partOfBlk g.toNat = some p → h.msg.pkt.mtype.toNat = k →
      let x := t.part p
      let m := h.msg
      (x.state = .fenced → exec (i g) s = .next (t.refuse g.toNat m stDead))
      ∧ (x.state ≠ .fenced → m.pkt.sinc = 0 ∨ t.incOf m.pkt.seid ≠ m.pkt.sinc → ∃ u : State, exec (i g) s = .next u ∧ (u.blk g.toNat).staleReq = satAdd (t.blk g.toNat).staleReq 1
          ∧ u = { t with blks := u.blks, joins := u.joins })
      ∧ (x.state ≠ .fenced → m.pkt.sinc ≠ 0 → t.incOf m.pkt.seid = m.pkt.sinc → x.killed = true →
          ∃ u : State, exec (i g) s = .next (u.refuse g.toNat m stTeardown) ∧ (u.blk g.toNat).teardown = satAdd (t.blk g.toNat).teardown 1 ∧ u = { t with blks := u.blks })
      ∧ (x.state ≠ .fenced → m.pkt.sinc ≠ 0 → t.incOf m.pkt.seid = m.pkt.sinc → x.killed = false → (m.linesAt g.toNat).any (fun r => !x.isHome t.now g.toNat r.line) = true →
          exec (i g) s = .next (t.refuse g.toNat m stRetry))

/-- Requests for one line that no cache holds: LD and PFLIST are answered with its bytes and leave memory alone; ST and WrInv write exactly their bytes; AT goes
through the rows of R172; RdShared makes its sender the owner with Grant E and RdOwn with Grant M; LostClr clears LOST and nothing else (R155, R160, R194,
R208). Where it rests on the model's own readings: log 107. -/
def Obligations.HomesServeRequests : Prop :=
  ∀ (s t : State) (g : BlockId) (p : Nat) (m : Msg) (r : LineRef), Lone t g.toNat p m r →
    let b := g.toNat
    let l := r.line
    let bad : List Nat := if t.lineBad b p l then [l] else []
    let a := m.paddr
    let n := m.pkt.szm1 + 1
    let lo := max a (128 * l)
    let hi := min (a + n) (128 * (l + 1))
    (HomeGets s t b p tLD m → ∃ u : State, exec (.ldRequest g) s = .next (u.answer b m [l] [(l, t.lineBytes b p l)] bad [] none) ∧ u.mem = s.mem ∧ u.lost = s.lost)
    ∧ (HomeGets s t b p tPF m → ∃ u : State, exec (.pflistRequest g) s = .next (u.answer b m (m.lines.map (·.line)) [(l, t.lineBytes b p l)] bad [] none) ∧ u.mem = s.mem ∧ u.lost = s.lost)
    ∧ (HomeGets s t b p tST m → ∃ u : State, exec (.stRequest g) s = .next (u.reply b m rST stOk [] [])
        ∧ let w := t.lineWrite b p l (lo - 128 * l) (bytesAt (payload m.pkt.data a n) (lo - a) (hi - lo)) (bits m.pkt.pmask (l - a / 128) 1 = 1)
          u.mem = w.mem ∧ u.poison = w.poison ∧ u.lost = w.lost)
    ∧ (HomeGets s t b p tAT m → t.atEarly b m s.now = none → ∃ u : State, exec (.atRequest g) s = .next (u.atPerform b p m s.now) ∧ u.mem = s.mem ∧ (u.blk b).replay = (t.blk b).replay
        ∧ (u.ent b l).mode = .none)
    ∧ (HomeGets s t b p tRdShared m → (t.ways b l).length < 16 → ∃ u : State, exec (.rdshared g) s = .next (u.grant b p m rGrantE l) ∧ (u.ent b l).mode = .own m.pkt.seid m.pkt.sinc
        ∧ u.mem = s.mem ∧ u.lost = s.lost)
    ∧ (HomeGets s t b p tRdOwn m → (t.ways b l).length < 16 → ∃ u : State, exec (.rdown g) s = .next (u.grant b p m rGrantM l) ∧ (u.ent b l).mode = .own m.pkt.seid m.pkt.sinc
        ∧ u.mem = s.mem ∧ u.lost = s.lost)
    ∧ (HomeGets s t b p tWrInv m → ∃ u : State, exec (.wrinv g) s = .next (u.reply b m rWrDone stOk [cohx l false] []) ∧ (u.ent b l).mode = .none
        ∧ let w := t.lineWrite b p l 0 (bytesAt (slotsBytes m.pkt.data) 0 128) m.pkt.pois
          u.mem = w.mem ∧ u.poison = w.poison ∧ u.lost = w.lost)
    ∧ (HomeGets s t b p tLostClr m → ∃ u : State, exec (.lostclr g) s = .next (u.reply b m rWrDone stOk [cohx l false] []) ∧ u.lost = (t.setLost p l false).lost ∧ u.mem = s.mem
        ∧ u.poison = s.poison)

/-- WrBack and Evict. In a sealed page a WrBack is refused (R240); at a BUSY line the recorded owner's data is written and the line keeps its transaction
(R194). At an idle line: from the recorded owner a WrBack writes the line and an Evict writes nothing, and the line has no owner; an Evict from a
sharer takes it from the sharers; any other is answered WrDone without effect and counted (R186, R194, R211). Where it rests on the model's own readings: logs 68 and 138. -/
def Obligations.WriteBacksAndEvictions : Prop :=
  ∀ (s t : State) (g : BlockId) (p : Nat) (m : Msg),
    let b := g.toNat
    let l := m.paddr / 128
    let done := fun (u : State) => u.reply b m rWrDone stOk [cohx l false] []
    let w := t.lineWrite b p l 0 (bytesAt (slotsBytes m.pkt.data) 0 128) m.pkt.pois
    ((t.part p).page (l / 2 ^ 21)).state = .placed →
    (HomeGets s t b p tWrBack m → ((t.part p).page (l / 2 ^ 21)).sealed = true → exec (.wrback g) s = .next (t.reply b m rNAK stPerm [] []))
    ∧ (∀ x, HomeGets s t b p tWrBack m → ((t.part p).page (l / 2 ^ 21)).sealed = false → (t.ent b l).txn = some x → x.kind ≠ .recalling true →
        (t.ent b l).mode = .own m.pkt.seid m.pkt.sinc →
          ∃ u : State, exec (.wrback g) s = .next (done u) ∧ (u.ent b l).txn = some x ∧ u.mem = w.mem ∧ u.poison = w.poison ∧ u.lost = w.lost)
    ∧ ((t.ent b l).txn = none → ((t.part p).page (l / 2 ^ 21)).sealed = false →
    (HomeGets s t b p tWrBack m → (t.ent b l).mode = .own m.pkt.seid m.pkt.sinc →
      ∃ u : State, exec (.wrback g) s = .next (done u) ∧ (u.ent b l).mode = .none ∧ u.mem = w.mem ∧ u.poison = w.poison ∧ u.lost = w.lost)
    ∧ (HomeGets s t b p tEvict m → (t.ent b l).mode = .own m.pkt.seid m.pkt.sinc →
      ∃ u : State, exec (.evict g) s = .next (done u) ∧ (u.ent b l).mode = .none ∧ u.mem = s.mem)
    ∧ (∀ sh, HomeGets s t b p tEvict m → (t.ent b l).mode = .exact sh →
      ∃ u : State, exec (.evict g) s = .next (done u) ∧ u.mem = s.mem
        ∧ (u.ent b l).mode = (if sh.filter (· ≠ m.pkt.seid.toNat) = [] then .none else .exact (sh.filter (· ≠ m.pkt.seid.toNat))))
    ∧ (HomeGets s t b p tWrBack m → (t.ent b l).mode = .none →
      ∃ u : State, exec (.wrback g) s = .next (done u) ∧ (u.blk b).staleWb = satAdd (t.blk b).staleWb 1 ∧ u.mem = s.mem))

/-- R172. A home decides an atomic whose line no cache holds by the first row that matches: an entry of the same key that agrees in address, AOP, ATYPE and operands
answers its value, one that differs is UNKNOWN_OUTCOME; without one, an atomic sent 128 ticks ago or more, or at or before the horizon, is UNKNOWN_OUTCOME; a
LOST or poisoned line is POISON; a source with 256 entries is RETRY_LATER; otherwise it is applied and its entry made. HIT, CLASH, UNKNOWN and FULL count, and
only the last row writes or keeps anything. -/
def Obligations.AtomicsAreDecided : Prop :=
  ∀ (s : State) (g p tn : Nat) (m : Msg),
    let k := m.pkt
    let l := m.paddr / 128
    let t0 := issueTick tn k.issue
    let held := (s.replays g).find? (fun e => e.seid = k.seid && e.sinc = k.sinc && e.tag = k.tag && e.issue.toNat = k.issue)
    let done := fun (u : State) (v : BitVec 128) => s.atPerform g p m tn = u.reply g m rAT stOk [] [v]
    let nak := fun (u : State) (st : Status) => s.atPerform g p m tn = u.reply g m rNAK st [] []
    let agrees := fun (e : Replay) => e.paddr = m.paddr ∧ e.aop.toNat = k.aop ∧ e.atype.toNat = k.atype ∧ e.ops = k.data
    let old' := (t0 + 128 ≤ (tn : Int)) ∨ t0 ≤ ((s.blk g).hz.toNat : Int)
    (∀ e, held = some e → agrees e → ∃ u : State, done u e.value ∧ u = s.updBlk g (fun b => { b with hit := satAdd b.hit 1 }))
    ∧ (∀ e, held = some e → ¬agrees e → ∃ u : State, nak u stUnknown ∧ u = s.updBlk g (fun b => { b with clash := satAdd b.clash 1 }))
    ∧ (held = none → old' → ∃ u : State, nak u stUnknown ∧ u = s.updBlk g (fun b => { b with unknown := satAdd b.unknown 1 }))
    ∧ (held = none → ¬old' → s.lineBad g p l = true → nak s stPoison)
    ∧ (held = none → ¬old' → s.lineBad g p l = false →
        let same := (s.replays g).filter (fun e => e.seid = k.seid && e.sinc = k.sinc)
        let old := bytesAt (s.lineBytes g p l) (m.paddr % 128) (atWidth k.atype)
        (256 ≤ same.length → ∃ u : State, nak u stRetry ∧ u = s.updBlk g (fun b => { b with full := satAdd b.full 1 }))
        ∧ (same.length < 256 → ∃ u : State, done u (BitVec.ofNat 128 (leNat old))
            ∧ (∃ e : Replay, (u.blk g).replay = (s.blk g).replay ++ [e] ∧ e.seid = k.seid ∧ e.sinc = k.sinc ∧ e.tag = k.tag ∧ e.issue = BitVec.ofNat 16 k.issue ∧ e.paddr = m.paddr
                ∧ e.ops = k.data ∧ e.value = BitVec.ofNat 128 (leNat old) ∧ e.expiry = endOf s.now 128)
            ∧ u.mem = (match atNew k.aop k.atype old k.data with | some v => (s.lineWrite g p l (m.paddr % 128) v false).mem | none => s.mem)))

/-- What an atomic writes (R157, R158): AADD the sum modulo the width, AMIN and AMAX the smaller and the larger, signed for types 0 and 2, ACAS the new value
where the old one equals the first operand. -/
def Obligations.AtomicArithmetic : Prop :=
  ∀ (atype : Nat) (old : List Byte) (ops : List Slot), old.length = atWidth atype → atype < 4 →
    let w := atWidth atype
    let o := bytesAt (slotsBytes ops) 0 w
    let sg := fun (l : List Byte) => if atype = 0 ∨ atype = 2 then signed (8 * w) (leNat l) else (leNat l : Int)
    atNew 0 atype old ops = some (leBytes w ((leNat old + leNat o) % 2 ^ (8 * w)))
    ∧ (∀ v, atNew 1 atype old ops = some v → (leNat v = leNat old ∨ leNat v = leNat o) ∧ sg v ≤ sg old ∧ sg v ≤ sg o)
    ∧ (∀ v, atNew 2 atype old ops = some v → (leNat v = leNat old ∨ leNat v = leNat o) ∧ sg old ≤ sg v ∧ sg o ≤ sg v)
    ∧ atNew 3 atype old ops = (if old = o then some (bytesAt (slotsBytes ops) 8 w) else none)

/-- Answers to snoops, and what a home does by itself: a known answer ends its own wait and no other agent's, an unknown one is counted; a set-aside request is served in its turn; a pin
ends with write-back, or is renewed after eight ownership requests in its last tick; a snoop unanswered for 1,000 ticks raises SNOOP_SLOW once; a death walk drops
the agent's lines; expired replay entries go (R163, R171, R185, R197, R203, R205). Where it rests on the model's own readings: logs 103 and 104. -/
def Obligations.HomesSettle : Prop :=
  (∀ (s t : State) (g : BlockId) (m : Msg),
    let k := m.pkt
    (t.tagHolder k.tag k.seid = none →
      (s.takeTc3 g.toNat rSnpResp = some (m, t) → exec (.snpresp g) s = .next (t.lateRsp k.tag))
      ∧ (s.takeTc3 g.toNat rSnpRespD = some (m, t) → exec (.snprespd g) s = .next (t.lateRsp k.tag)))
    ∧ (∀ l p x, t.tagHolder k.tag k.seid = some (.snoop g.toNat l) → t.partOfBlk g.toNat = some p → (t.ent g.toNat l).txn = some x →
        x.waits.any (fun w => w.tag = k.tag && w.eid = k.seid) = true →
          let settled := fun (d : Option (List Byte × Bool)) =>
            (t.tagDrop k.tag k.seid).snoopDone g.toNat p l k.tag k.seid (bits k.memx 55 1 = 1) (bits k.memx 56 2 = 1) d
          (s.takeTc3 g.toNat rSnpResp = some (m, t) → exec (.snpresp g) s = .next (settled none))
          ∧ (s.takeTc3 g.toNat rSnpRespD = some (m, t) → exec (.snprespd g) s = .next (settled (some (bytesAt (slotsBytes k.data) 0 128, k.pois))))))
  ∧ (∀ (s : State) (g p l : Nat) (tag : Tag) (x : Eid) (t : Txn), (s.ent g l).txn = some t → (∃ w, w ∈ t.waits ∧ ¬(w.tag = tag ∧ w.eid = x)) →
      let u := s.snoopDone g p l tag x false false none
      (u.ent g l).txn = some { t with waits := t.waits.filter (fun w => !(w.tag = tag && w.eid = x)) } ∧ u = { s with blks := u.blks })
  ∧ (∀ (s : State) (g : BlockId) (p : Nat) (c : SetAside) (rest : List SetAside) (u : State), s.partOfBlk g.toNat = some p → (s.blk g.toNat).conf = c :: rest →
      (s.blk g.toNat).dir.any (fun e => e.2.due.isSome) = false → s.pubBehind g.toNat c.msg c.ord = false →
      (s.updBlk g.toNat (fun b => { b with conf := rest })).serve g.toNat p c.msg c.tick = .done u → exec (.conflictTableServe g) s = .next u)
  ∧ (∀ (s : State) (g : BlockId) (k : BitVec 4) (p : Nat) (h : Hot), tget (s.blk g.toNat).hot k.toNat none = some h → s.partOfBlk g.toNat = some p → h.pinEnd ≤ s.now →
      (h.takenAt + 1 = h.pinEnd → 8 ≤ h.taken → ∃ t : State, exec (.hotPinEnd g k) s = .next t ∧ tget (t.blk g.toNat).hot k.toNat none = some { h with pinEnd := endOf h.pinEnd 16 } ∧ t = { s with blks := t.blks })
      ∧ ((h.takenAt + 1 ≠ h.pinEnd ∨ h.taken < 8) → (s.ent g.toNat h.line).hot = some k.toNat →
          ∃ t : State, exec (.hotPinEnd g k) s = .next t ∧ tget (t.blk g.toNat).hot k.toNat none = none ∧ (t.ent g.toNat h.line).hot = none ∧ t.mem = (s.pokes p (128 * h.line) h.bytes).mem))
  ∧ (∀ (s : State) (g : BlockId) (line : BitVec 45) (p : Nat) (x : Txn) (w : Snoop), (s.ent g.toNat line.toNat).txn = some x → s.partOfBlk g.toNat = some p → x.waits = [w] → w.slow = false →
      endOf w.sent 1000 ≤ s.now → ∃ u : State, exec (.snoopSlow g line) s = .next (u.raise (({ code := 0x20, unit := uBlk g.toNat, eid := w.eid, inc := w.inc, d0 := BitVec.ofNat 64 (128 * line.toNat) } : Event).inPart p (s.part p)))
        ∧ (u.ent g.toNat line.toNat).txn = some { x with waits := [{ w with slow := true }] } ∧ u = { s with blks := u.blks })
  ∧ (∀ (s : State) (eid : Eid) (inc : Inc) (g p : Nat) (b : Block), s.blks.filter (fun e => e.2.walks.contains (.death eid inc)) = [(g, b)] →
      let w := s.updBlk g (fun b => { b with walks := b.walks.erase (.death eid inc) })
      w.partOfBlk g = some p →
        let d := w.deathWalk g p eid inc
        exec (.deathWalkDone eid inc) s = .next (if d.2.1 = 0 then d.1 else d.1.raise (({ code := 0x21, unit := uBlk g, eid := eid, inc := inc, d0 := BitVec.ofNat 64 d.2.1, d1 := BitVec.ofNat 64 d.2.2 } : Event).inPart p (d.1.part p))))
  ∧ (∀ (s : State) (g p l : Nat) (eid : Eid) (inc : Inc) (e : DirEnt), (s.blk g).dir = [(l, e)] → e.mode = .own eid inc → e.txn = none → e.hot = none → (s.blk g).lostLog.length < 4096 →
      let d := s.deathWalk g p eid inc
      d.2.1 = 1 ∧ d.2.2 = 0 ∧ d.1.lost = (s.setLost p l true).lost ∧ (d.1.ent g l).mode = .none ∧ d.1.mem = s.mem
        ∧ (d.1.blk g).lostLog = (s.blk g).lostLog ++ [{ line := l, eid := eid, inc := inc, job := (s.part p).job, tick := s.now }])
  ∧ (∀ (s : State) (g : BlockId), ∃ t : State, exec (.replayCacheExpiry g) s = .next t ∧ (t.blk g.toNat).replay = (s.blk g.toNat).replay.filter (fun e => s.now < e.expiry)
      ∧ t = s.updBlk g.toNat (fun b => { b with replay := (t.blk g.toNat).replay }))

/-! ### Pages, frames, partitions in motion -/

/-- Migration of a page: a chunk that is not the last moves the page's place by one and leaves every byte where software finds it; the last ends the move (R230
to R232). A tier whose share of the tick is used up copies nothing (R234, read tick by tick: the model's choice, log 70). The end of a move: the page is PLACED
in its destination's frames, its source frames go to the scrubber and MIGRATED is raised, counted (R228, R232). A page that is being released is copied no
more (R233). -/
def Obligations.ChunksAreCopied : Prop :=
  (∀ (s : State) (p : PartId) (n : BitVec 24),
    let x := s.part p.toNat
    let k := x.pageKey n.toNat
    let g := x.page n.toNat
    x.state = .bound → g.state = .migrating → tfind x.recalling k = none →
      (x.migRoom g.tier.toNat = true → x.migRoom g.dst.toNat = true → g.chunk + 1 < g.chunks →
        ∃ t : State, exec (.migrationChunkCopy p n 0) s = .next t ∧ tget (t.part p.toNat).pages k {} = { g with chunk := g.chunk + 1 } ∧ t.mem = s.mem ∧ t.poison = s.poison
          ∧ t = { s with parts := t.parts })
      ∧ (x.migRoom g.tier.toNat = true → x.migRoom g.dst.toNat = true → g.chunks ≤ g.chunk + 1 →
        ∃ u : State, exec (.migrationChunkCopy p n 0) s = .next (u.finishMove p.toNat k) ∧ tget (u.part p.toNat).pages k {} = g ∧ u = { s with parts := u.parts })
      ∧ (∀ ue, x.migRoom g.tier.toNat = false ∨ x.migRoom g.dst.toNat = false → exec (.migrationChunkCopy p n ue) s = .next s))
  ∧ (∀ (s : State) (p : PartId) (n : BitVec 24) (ue : BitVec 32), (tfind (s.part p.toNat).recalling ((s.part p.toNat).pageKey n.toNat)).isSome = true →
      exec (.migrationChunkCopy p n ue) s = .next s)
  ∧ (∀ (s : State) (p k : Nat),
    let g := tget (s.part p).pages k {}
    g.state = .migrating → g.tier = 1 ∨ g.tier = 2 →
      ∃ u : State, s.finishMove p k = (u.raise (({ code := 0x2A, unit := uSquare, d0 := BitVec.ofNat 64 k, d1 := g.dst.setWidth 64 } : Event).inPart p (u.part p))).afterMove p
        ∧ (tget (u.part p).pages k {}).state = .placed ∧ (tget (u.part p).pages k {}).tier = g.dst ∧ (tget (u.part p).pages k {}).trays = g.dstTrays
        ∧ (tget (u.part p).pages k {}).frms = g.dstFrms ∧ (tget (u.part p).pages k {}).lay = g.dstLay ∧ (tget (u.part p).pages k {}).dstFrms = []
        ∧ tget (u.part p).dirty g.tier.toNat 0 = tget (s.part p).dirty g.tier.toNat 0 + g.frames
        ∧ (u.part p).migDone = satAdd (s.part p).migDone 1 ∧ u.mem = s.mem)

/-- A tier below its reserve sends its page of R225 to the next lower tier with room; a page at its promotion count, or hinted hot, moves up one tier; each
starts a migration that takes the frames at once (R225, R226, R230). ACC_AGING: at a boundary whose tick is a multiple of AGEW every page's access count is
halved, once in the tick; nothing else of a page changes (R224). Where it rests on the model's own readings: log 58. -/
def Obligations.PagesChangeTier : Prop :=
  ((∀ (s : State) (p : PartId) (near : Bool),
    let x := s.part p.toNat
    let tier := if near then 1 else 2
    x.state = .bound → x.resizing = false → x.pages.any (fun e => e.2.state = .migrating && e.2.evict && e.2.tier.toNat = tier) = false → x.belowReserve tier = true →
      ∀ k g d, x.evictPage tier = some (k, g) → (if near then [2, 3] else [3]).find? (fun t => g.frames ≤ s.freeFrames p.toNat t) = some d →
        ∀ u, s.startMove p.toNat k d = some u →
          ∃ t : State, exec (.pageEviction p near) s = .next t ∧ (t.part p.toNat).evictN = satAdd (u.part p.toNat).evictN 1 ∧ (∀ j, tget (t.part p.toNat).pages j {} = if j = k then { tget (u.part p.toNat).pages k {} with evict := true } else tget (u.part p.toNat).pages j {}) ∧ t.mem = u.mem)
  ∧ (∀ (s : State) (p : PartId) (n : BitVec 24),
    let x := s.part p.toNat
    let g := x.page n.toNat
    x.state = .bound → x.resizing = false → g.state = .placed → g.pin = false → g.hint ≠ 2 → (x.promote.toNat ≤ g.acc.toNat ∨ g.hint = 1) → 2 ≤ g.tier.toNat → g.evac = false →
      ∀ u, s.startMove p.toNat (x.pageKey n.toNat) (g.tier.toNat - 1) = some u → exec (.pagePromotion p n) s = .next u)
  ∧ (∀ (s u : State) (p k d : Nat), d = 1 ∨ d = 2 → s.startMove p k d = some u →
      let g := tget (s.part p).pages k {}
      let h := tget (u.part p).pages k {}
      g.frames ≤ s.freeFrames p d ∧ h.state = .migrating ∧ h.dst.toNat = d ∧ h.tier = g.tier ∧ h.chunk = 0 ∧ h.dstFrms.length = g.frames ∧ h.frms = g.frms ∧ u.mem = s.mem
        ∧ (if d = 1 then (u.part p).usedNear = (s.part p).usedNear + g.frames else (u.part p).usedBulk = (s.part p).usedBulk + g.frames)))
  ∧ (∀ (s : State) (p : PartId), (s.part p.toNat).state ≠ .none → s.now % (s.part p.toNat).agew.toNat = 0 → (s.part p.toNat).aged ≠ some s.now →
    ∃ t : State, exec (.accAging p) s = .next t ∧ (t.part p.toNat).aged = some s.now
      ∧ (t.part p.toNat).pages = ((s.part p.toNat).pages.map (fun e => (e.1, { e.2 with acc := e.2.acc >>> 1 }))).filter (fun e => e.2 ≠ {})
      ∧ exec (.accAging p) t = .next t ∧ t = { s with parts := t.parts })

/-- Recall walks, the scrubber and the clearing of Blocks and trays: a walk with no line left ends; a scrubbed frame is free again; a scrubbed Block is FREE, and a
RELEASING partition whose Blocks and trays are clear is gone; a scrubbed tray is clear (R229, R233, R407, R410). Where it rests on the model's own readings: log 57. -/
def Obligations.ScrubbingCompletes : Prop :=
  (∀ (s : State) (g : BlockId) (p : Nat) (ks : List Nat), (s.blk g.toNat).walks = [.recalling ks false false] → s.partOfBlk g.toNat = some p → s.walkLines g.toNat p ks = [] →
      ∃ t : State, exec (.recallWalkDone g) s = .next t ∧ (t.blk g.toNat).walks = [] ∧ t = { s with blks := t.blks })
  ∧ (∀ (s : State) (p : PartId) (near : Bool),
      let tier := if near then 1 else 2
      let x := s.part p.toNat
      0 < tget x.dirty tier 0 →
        ∃ u : State, exec (.frameScrubbed p (if near then 1 else 2)) s = .next (u.evacNext p.toNat)
          ∧ tget (u.part p.toNat).dirty tier 0 = tget x.dirty tier 0 - 1
          ∧ (if near then (u.part p.toNat).usedNear = x.usedNear - 1 ∧ (u.part p.toNat).usedBulk = x.usedBulk else (u.part p.toNat).usedBulk = x.usedBulk - 1 ∧ (u.part p.toNat).usedNear = x.usedNear)
          ∧ u = { s with parts := u.parts })
  ∧ (∀ (s : State) (g : BlockId), s.heldOut g.toNat = false →
      (s.parts.any (fun e => e.2.leaving.getLsbD g.toNat && (e.2.state = .scrubbing || e.2.state = .releasing)) = false → (s.blk g.toNat).state = .scrubbing → (s.blk g.toNat).trained = BitVec.allOnes 10 →
        ∃ t : State, exec (.blockScrubDone g) s = .next t ∧ (t.blk g.toNat).state = .free ∧ t = { s with blks := t.blks })
      ∧ (∀ p x, s.parts.find? (fun e => e.2.leaving.getLsbD g.toNat && (e.2.state = .scrubbing || e.2.state = .releasing)) = some (p, x) → s.part p = x →
        ∃ u : State, exec (.blockScrubDone g) s = .next (u.partClear p) ∧ (u.part p).leaving.getLsbD g.toNat = false ∧ (∀ k, k < 64 → k ≠ g.toNat → (u.part p).leaving.getLsbD k = x.leaving.getLsbD k)
          ∧ (u.blk g.toNat).state = (if x.state = .scrubbing then (s.blk g.toNat).state else .free) ∧ u = { s with parts := u.parts, blks := u.blks }))
  ∧ (∀ (s : State) (t : TrayId),
      let y := s.tray t.toNat
      let p := y.part.toNat
      y.state = .assigned → y.touched ≠ 0 →
        ((s.part p).state = .releasing → exec (.trayScrubDone t) s = .next ((s.freeTray t.toNat).partClear p))
        ∧ ((s.part p).state = .scrubbing → ∃ u : State, exec (.trayScrubDone t) s = .next (u.partClear p) ∧ (u.tray t.toNat).touched = 0 ∧ (u.tray t.toNat).placed = 0 ∧ (u.tray t.toNat).state = .assigned
          ∧ u = { s with trays := u.trays }))
  ∧ (∀ (s : State) (p : Nat), (s.part p).state = .releasing → (∀ g, g ∈ maskList 64 (s.part p).leaving → s.heldOut g = true) → (∀ t, t ∈ maskList 16 (s.part p).trays → (s.tray t).touched = 0) →
      ∃ u : State, s.partClear p = u.raise { code := 0x41, unit := uSquare, part := BitVec.ofNat 6 p, flags := 1 } ∧ (u.part p).state = .none ∧ (u.part p).blocks = 0 ∧ (u.part p).job = 0 ∧ (u.part p).pages = [])

/-- A drain window ends when its time is over: the previous map and Blocks go, the current map and generation stay; before then nothing happens (R177). The entry of
a moved line that has settled goes to its new home with its mode (R210). Where it rests on the model's own readings: log 58. -/
def Obligations.DrainWindowsEnd : Prop :=
  (∀ (s : State) (p : PartId) (e : Nat), (s.part p.toNat).drainEnd = some e →
    (s.now < e → exec (.drainWindowEnd p) s = .next s)
    ∧ (e ≤ s.now → (s.part p.toNat).moveh = false →
      ∃ u : State, exec (.drainWindowEnd p) s = .next (u.resizeStep p.toNat) ∧ (u.part p.toNat).drainEnd = none ∧ (u.part p.toNat).oldBlocks = none ∧ (u.part p.toNat).pmap = {}
        ∧ (u.part p.toNat).map = (s.part p.toNat).map ∧ (u.part p.toNat).gen = (s.part p.toNat).gen ∧ u = { s with parts := u.parts })
    ∧ (e ≤ s.now → (s.part p.toNat).moveh = true → ∃ t : State, exec (.drainWindowEnd p) s = .next t ∧ (t.part p.toNat).drainEnd = none ∧ (t.part p.toNat).oldBlocks = none ∧ t.mem = s.mem))
  ∧ (∀ (s : State) (g : BlockId) (line : BitVec 45) (p : Nat), s.partOfBlk g.toNat = some p →
    let l := line.toNat
    let h := homeOf (s.part p).blocks l
    let e := s.ent g.toNat l
    tget (s.part p).arriving l none = some g.toNat → e.txn = none → e.hot = none → (s.blk g.toNat).conf = [] → h ≠ g.toNat → e.mode ≠ .none → (s.ways h l).length < 16 →
      ∃ u : State, exec (.homeEntryArrival g line) s = .next ((((((u.blk g.toNat).replay.filter (fun r => r.paddr / 128 = l)).foldl (fun s r => s.moveReplay g.toNat h r) u)).updPart p
            (fun x => { x with arriving := tset x.arriving l none none })).resizeStep p)
        ∧ (u.ent h l).mode = e.mode ∧ (u.ent g.toNat l).mode = .none ∧ u = { s with blks := u.blks })

/-! ### Collectives -/

/-- Accumulation does not depend on order: adding one value and then another leaves the accumulator that the other order leaves, whatever its width, and what it
holds is the sum modulo that width (R250, R251). -/
def Obligations.SumsDoNotDependOnOrder : Prop :=
  ∀ (limbs : Nat) (m i j : Int) (x y z : Spec), 0 < limbs →
    ((Acc.sum m x).add limbs i y).add limbs j z = ((Acc.sum m x).add limbs j z).add limbs i y
    ∧ ∃ k, (Acc.sum m x).add limbs i y = .sum k (x.join y) ∧ (k - (m + i)) % (2 ^ (64 * limbs) : Nat) = 0 ∧ -((2 ^ (64 * limbs - 1) : Nat) : Int) ≤ k ∧ k < (2 ^ (64 * limbs - 1) : Nat)

/-- A compact element reads back as its number and state, whatever follows it; a special state carries no number (R271). -/
def Obligations.CompactElementsRoundTrip : Prop :=
  ∀ (limbs : Nat) (n : Int) (x : Spec) (rest : List Byte), 0 < limbs → limbs ≤ 34 → -((2 ^ (64 * limbs - 1) : Nat) : Int) ≤ n → n < (2 ^ (64 * limbs - 1) : Nat) →
    uncompact limbs (compact limbs n x ++ rest) = some (if x.special then 0 else n, x, rest)

/-- Messages of a collective at its root: a CONTRIB or PARTIAL of the open slice, in time and in range, is charged to the root's context and taken when its turn
of the reduce unit has come, and waits until then; the parent's SLICEGO for the slice after the last it opened lets PARTIALs of it go, and the first sets the
deadline; the parent's END, and any other END with a failure, ends the collective here; a message of no open entry, from a job that is not its port's, of another
deadline or too late is a stray, counted (R53, R264 to R266, R275, R277, R383). Where it rests on the model's own readings: logs 111 and 113. -/
def Obligations.CollectiveMessages : Prop :=
  -- what a message means
  (∀ (s : State) (b : Nat) (m : Msg),
    let k := m.pkt
    let f := fun lo w => bits k.memx lo w
    let edge := m.ingress = 1 ∧ (s.port m.lane).role = 1 ∧ (s.port m.lane).job ≠ k.job
    (s.collAt b k.job (f 0 16) = none → s.collJudge b m = .stray)
    ∧ (∀ n x, s.collAt b k.job (f 0 16) = some (n, x) →
      let d := x.desc
      let dl := dlineOf s.now (f 82 32)
      let parent := cdTop d = false ∧ k.seid.toNat = cdParent d
      let lo := x.slice * cdElems d
      let body := slotsBytes k.data
      let inRange := f 64 12 < cdNsrc d ∧ f 51 13 ≠ 0 ∧ lo ≤ f 16 35 ∧ f 16 35 + f 51 13 ≤ lo + cdCount d x.slice
      (edge → s.collJudge b m = .stray)
      ∧ (¬edge → dl = x.dline → k.mtype = 4 →
          (parent → s.collJudge b m = .ended n (BitVec.ofNat 5 (f 77 5)) (cdParent d))
          ∧ (¬parent → BitVec.ofNat 5 (f 77 5) ≠ stOk → s.collJudge b m = .ended n (BitVec.ofNat 5 (f 77 5)) k.seid.toNat)
          ∧ (¬parent → BitVec.ofNat 5 (f 77 5) = stOk → s.collJudge b m = .stray))
      ∧ (¬edge → parent → dl = x.dline ∨ x.parentGo = 0 → k.mtype = 2 → m.stamp < dl → x.parentGo < cdSlices d → f 16 35 = x.parentGo * cdElems d →
          f 51 13 = cdCount d x.parentGo → s.collJudge b m = .opened n dl)
      ∧ (¬edge → dl = x.dline → m.stamp < dl → x.phase = 1 → inRange →
          (k.mtype = 0 → f 51 13 * inWidth (cdIfmt d) ≤ body.length →
            s.collJudge b m = .take n x (cdiv (f 51 13) (inRate (cdIfmt d))) true (f 16 35) (f 51 13) (f 64 12) (f 114 13) (f 76 1 = 1) body)
          ∧ (k.mtype = 1 → (cdOp d ≠ 0 → f 51 13 * inWidth (cdIfmt d) ≤ body.length) →
            s.collJudge b m = .take n x (max (cdiv (f 51 13) 64) (cdiv body.length 256)) false (f 16 35) (f 51 13) (f 64 12) (f 114 13) (f 76 1 = 1) body))
      ∧ (¬(parent ∧ k.mtype = 2 ∧ x.parentGo = 0) → dl ≠ x.dline → s.collJudge b m = .stray)
      ∧ (k.mtype ≠ 4 → dl ≤ m.stamp → s.collJudge b m = .stray)))
  -- elements
  ∧ (∀ (s t : State) (g : BlockId) (m : Msg) (n : Nat) (x : Coll) (cyc : Nat) (raw : Bool) (first count src nc : Nat) (last : Bool) (body : List Byte),
    let b := g.toNat
    let r := s.review
    r.collHead b = some (m, t) → r.collJudge b m = .take n x cyc raw first count src nc last body →
      let taken := ((t.charge x.ctx eRed cyc).collTake b n x raw first count src nc last body).review
      (m.pkt.mtype = 0 → (r.redTurn b x.ctx cyc = true → exec (.contrib g) s = .next taken) ∧ (r.redTurn b x.ctx cyc = false → exec (.contrib g) s = .next r.review))
      ∧ (m.pkt.mtype = 1 → (r.redTurn b x.ctx cyc = true → exec (.partialSum g) s = .next taken) ∧ (r.redTurn b x.ctx cyc = false → exec (.partialSum g) s = .next r.review)))
  -- SLICEGO and END
  ∧ (∀ (s t : State) (g : BlockId) (m : Msg) (n : Nat) (x : Coll) (dl : Nat),
    let b := g.toNat
    let r := s.review
    r.collHead b = some (m, t) → r.collJudge b m = .opened n dl → t.coll b n = some x → m.pkt.mtype = 2 →
      ∃ u : State, exec (.slicego g) s = .next (u.collDeliver b n).review
        ∧ u.coll b n = some { x with parentGo := x.parentGo + 1, dline := if x.parentGo = 0 then dl else x.dline } ∧ u = { t with blks := u.blks })
  ∧ (∀ (s t : State) (g : BlockId) (m : Msg) (n : Nat) (st : Status) (came : Nat),
    s.collHead g.toNat = some (m, t) → s.collJudge g.toNat m = .ended n st came → m.pkt.mtype = 4 →
      exec (.collEnd g) s = .next (t.collEnd g.toNat n st (some came)).review)
  -- strays
  ∧ (∀ (s t : State) (g : BlockId) (m : Msg),
    let b := g.toNat
    let r := s.review
    let stray := fun (u : State) => ∃ v : State, u = v.review ∧ (v.blk b).stray = satAdd (t.blk b).stray 1 ∧ v = { t with blks := v.blks }
    (r.collHead b = some (m, t) → r.collJudge b m = .stray →
      (m.pkt.mtype = 0 ∨ m.pkt.mtype = 3 → ∃ u, exec (.contrib g) s = .next u ∧ stray u) ∧ (m.pkt.mtype = 1 → ∃ u, exec (.partialSum g) s = .next u ∧ stray u)
      ∧ (m.pkt.mtype = 2 → ∃ u, exec (.slicego g) s = .next u ∧ stray u))
    ∧ (s.collHead b = some (m, t) → s.collJudge b m = .stray → m.pkt.mtype = 4 → ∃ u, exec (.collEnd g) s = .next u ∧ stray u))

/-- The elements of a contribution to a sum are added to their entries of the slice, every other entry stays, and the count of elements taken grows by their number
(R250, R265). -/
def Obligations.ContributionsAccumulate : Prop :=
  ∀ (s : State) (g n : Nat) (x : Coll) (first count src nc : Nat) (body : List Byte),
    let d := x.desc
    let at0 := first - x.slice * cdElems d
    let w := inWidth (cdIfmt d)
    cdOp d = 0 → (setIns x.lasts src).length ≠ cdNsrc d → x.lasts.length ≠ cdNsrc d → ∀ last : Bool,
      ∃ y : Coll, (s.collTake g n x true first count src nc last body).coll g n = some y ∧ y.taken = x.taken + count
        ∧ (∀ i, i < count → let v := inValue (cdIfmt d) (natAt body (w * i) w)
            tget y.acc (at0 + i) accEmpty = (tget x.acc (at0 + i) accEmpty).add (limbsOf (cdIfmt d)) v.1 v.2)
        ∧ (∀ j, j < at0 ∨ at0 + count ≤ j → tget y.acc j accEmpty = tget x.acc j accEmpty)
        ∧ (s.collTake g n x true first count src nc last body).mem = s.mem

/-- Slices and ends: a root with an empty buffer opens its next slice; when a slice is delivered the next may open, and after the last the top ends OK in time, or
with TICK_OVERRUN, and any other root waits for its parent's END from the sending of its last PARTIAL on; any other collective not ended at its deadline, or without END 64 ticks after it, ends with
TICK_OVERRUN, counted; an ended entry is released in a later tick (R53, R259, R262, R266 to R268, R278). Where it rests on the model's own readings: logs 112 and 114. -/
def Obligations.SlicesOpenAndClose : Prop :=
  ∀ (s : State) (g : BlockId) (m : BitVec 5) (x : Coll),
    let b := g.toNat
    let n := m.toNat
    let d := x.desc
    s.coll b n = some x →
    (x.endSt = none → x.empty = true → x.waitEnd = false → x.slice < cdSlices d → (cdTop d = true ∨ x.parentGo ≠ 0) →
      ∃ t y, exec (.sliceOpen g m) s = .next t ∧ t.coll b n = some y ∧ y.phase = 1 ∧ y.empty = false ∧ y.acc = [] ∧ y.taken = 0 ∧ y.slice = x.slice ∧ y.sent = false ∧ y.desc = d)
    ∧ (s.review.collDelivered b x = true → (cdTop d = true → cdStores d = true → x.image.length ≤ x.outAt) →
        (x.slice + 1 < cdSlices d → ∃ t : State, exec (.sliceDeliveryDone g m) s = .next t.review ∧ t.coll b n = some { x with slice := x.slice + 1, empty := true, acc := [] } ∧ t = { s.review with blks := t.blks })
        ∧ (cdSlices d ≤ x.slice + 1 → cdTop d = true → exec (.sliceDeliveryDone g m) s = .next (if s.now < x.dline then s.review.collEnd b n stOk none else s.review.collOverrun b n).review)
        ∧ (cdSlices d ≤ x.slice + 1 → cdTop d = false →
          ∃ t : State, exec (.sliceDeliveryDone g m) s = .next t.review ∧ t.coll b n = some { x with empty := true, acc := [], waitEnd := true } ∧ t = { s.review with blks := t.blks }))
    ∧ (x.endSt = none → x.lastSent = false → x.dline ≤ s.now → exec (.collectiveDeadline g m) s = .next (s.collOverrun b n).review)
    ∧ (x.endSt = none → x.lastSent = true → x.dline + 64 ≤ s.now → exec (.endWaitTimeout g m) s = .next (s.collOverrun b n).review)
    ∧ (x.endSt.isSome = true → x.endTick < s.now → ∃ t : State, exec (.collReservationRelease g m) s = .next t ∧ t.coll b n = none ∧ t = { s with blks := t.blks, qs := t.qs, ctxs := t.ctxs })
    ∧ (x.endSt = none → ∃ u : State, s.collOverrun b n = u.collEnd b n stOverrun none ∧ (u.blk b).overrun = satAdd (s.blk b).overrun 1 ∧ u.coll b n = some x)
    ∧ (∀ st came, x.endSt = none → (s.collEnd b n st came).coll b n = some { x with phase := 3, endSt := some st, endTick := s.now })

/-! ### Answers to this device's requests -/

/-- An answer at the head of a Block's TC3 queue. One that performs its request ends it: loaded bytes go to its bank, the old value of an atomic to its
destination, and the entry and tag are free (R155, R156, R162 to R164, R362 to R364, R393). A NAK with RETRY_LATER or POLICED leaves the request to its next RTO,
the first MAPSTALE sends it again at once, any other status ends it (R178, R365). An answer that nothing asked
for is counted in LATERSP (R163). A request is
sent again at its RTO (R167), and ends with TARGET_DEAD after TOUT, counted, TARGET_TIMEOUT raised once in a tick, its tag held for 512 ticks (R164, R180). A
Quarter's tags are rebuilt from the requests that hold them (R472). Where it rests on the model's own readings: logs 76, 78, 92 and 140. -/
def Obligations.AnswersEndRequests : Prop :=
  (∀ (s t : State) (g : BlockId) (m : Msg) (c id : Nat) (r : Req),
    let k := m.pkt
    m.asker = .req c id ∨ (m.asker = .wire ∧ ∃ d, t.answerTo k = some (d, .req c id)) → t.req c id = some r →
      -- LDDATA also discards grants that this device never asks for
      let drops := fun (u : State) => [16, 17, 18, 22, 23].foldl (fun s n => s.takeAnswer g.toNat n) u
      let done := (t.performed c r k).review
      (s.takeTc3 g.toNat rLD = some (m, t) → answerOf r.msg.pkt = rLD → exec (.lddataResponse g) s = .next (drops done))
      ∧ (s.takeTc3 g.toNat rST = some (m, t) → answerOf r.msg.pkt = rST → exec (.stdoneResponse g) s = .next done)
      ∧ (s.takeTc3 g.toNat rAT = some (m, t) → answerOf r.msg.pkt = rAT → exec (.atdoneResponse g) s = .next done)
      ∧ (s.takeTc3 g.toNat rPF = some (m, t) → answerOf r.msg.pkt = rPF → exec (.pfdataResponse g) s = .next done)
      ∧ (s.takeTc3 g.toNat rWrDone = some (m, t) → answerOf r.msg.pkt = rWrDone → exec (.wrdoneResponse g) s = .next done)
      ∧ (s.takeTc3 g.toNat rNAK = some (m, t) → r.aband = false →
        (k.status = stRetry ∨ k.status = stPoliced → exec (.nakResponse g) s = .next (t.updReq c id (fun r => { r with retry := true })).review)
        ∧ (k.status = stMapStale → r.stale1 = false →
          exec (.nakResponse g) s = .next ((t.updReq c r.id (fun r => { r with stale1 := true })).resend c { r with stale1 := true }).review)
        ∧ (k.status ≠ stRetry → k.status ≠ stPoliced → (k.status = stMapStale → r.stale1 = true) → exec (.nakResponse g) s = .next (t.failReq c r k.status false).review)))
  -- what a performed request leaves
  ∧ (∀ (s : State) (c : Nat) (r : Req) (k : Pkt), r.aband = false →
    (∀ o n, r.dest = .bank o n →
      s.performed c r k = ((s.bankLand c o r.msg.pkt.addr (payload k.data r.msg.pkt.addr n) (if k.status = stPoison then bits k.memx 0 32 else 0)).clashLand c r o n).reqDone c r k.status [] false false)
    ∧ (∀ o w, r.dest = .old o w none →
      s.performed c r k = ((s.bankWrite c o (bytesAt (slotsBytes k.data) 0 w) false).clashLand c r o w).reqDone c r k.status [] false false)
    ∧ (∀ offs, r.dest = .pf offs → k.status = stRetry ∨ k.status = stPoliced → s.performed c r k = s.updReq c r.id (fun r => { r with retry := true })))
  -- whose answer it is
  ∧ (∀ (s : State) (k : Pkt) (h : Holder), s.tagHolder k.tag k.seid = some h → s.answerTo k = some (k.seid, h))
  ∧ (∀ (s t : State) (g : BlockId) (m : Msg), m.asker = .wire → t.answerTo m.pkt = none →
      let u := (t.lateRsp m.pkt.tag).review
      ((t.lateRsp m.pkt.tag).blk (t.tagLast m.pkt.tag)).lateRsp = satAdd (t.blk (t.tagLast m.pkt.tag)).lateRsp 1
      ∧ (s.takeTc3 g.toNat rST = some (m, t) → exec (.stdoneResponse g) s = .next u) ∧ (s.takeTc3 g.toNat rAT = some (m, t) → exec (.atdoneResponse g) s = .next u)
      ∧ (s.takeTc3 g.toNat rPF = some (m, t) → exec (.pfdataResponse g) s = .next u) ∧ (s.takeTc3 g.toNat rWrDone = some (m, t) → exec (.wrdoneResponse g) s = .next u)
      ∧ (s.takeTc3 g.toNat rNAK = some (m, t) → exec (.nakResponse g) s = .next u))
  ∧ (∀ (s : State) (c : Nat) (r : Req) (keep : Bool),
      (s.freeReq c r keep).req c r.id = none ∧ (r.tagged = true → keep = false → (s.freeReq c r keep).tagHolder r.msg.pkt.tag r.msg.pkt.deid = none)
      ∧ ∀ id, id ≠ r.id → (s.freeReq c r keep).req c id = s.req c id)
  ∧ (∀ (s : State) (c : CtxId) (id p : Nat) (r : Req), s.req c.toNat id = some r → s.partOfBlk (c.toNat / 16) = some p →
      (r.remote = true → r.last + (s.part p).rto.toNat ≤ s.now → s.now < endOf r.first (s.part p).tout.toNat →
        ∃ (u : State) (q : Req), exec (.requestResend c id) s = .next (u.sendBlk (c.toNat / 16) q.msg).review ∧ u.req c.toNat id = some q
          ∧ q = { r with msg := { r.msg with pkt := { r.msg.pkt with gen := (s.part p).gen } }, last := s.now, retry := false } ∧ u = { s with ctxs := u.ctxs })
      ∧ (endOf r.first (s.part p).tout.toNat ≤ s.now →
        let v := s.timedOut (c.toNat / 16) p r.msg.pkt (some c.toNat)
        exec (.requestTimeout c id) s = .next (v.failReq c.toNat r stDead true).review
          ∧ (v.blk (c.toNat / 16)).timeout = satAdd (s.blk (c.toNat / 16)).timeout 1)
      ∧ (s.now < endOf r.first (s.part p).tout.toNat → exec (.requestTimeout c id) s = .next s))
  ∧ (∀ (s : State) (q : QId) (deid : Eid) (tag : Tag) (e : Nat),
      let t : Tag := BitVec.ofNat 12 (1024 * q.toNat + tag.toNat % 1024)
      s.tagHolder t deid = some (.held e) →
        (e ≤ s.now → ∃ u : State, exec (.tagHoldEnd q deid tag) s = .next u.review ∧ u.tagHolder t deid = none ∧ u.mem = s.mem)
        ∧ (s.now < e → exec (.tagHoldEnd q deid tag) s = .next s))
  ∧ (∀ (s : State) (q : QId) (deid : Eid) (e : Nat), tfind (s.qtr q.toNat).rebuild deid.toNat = some e → e ≤ s.now →
      ∃ u : State, exec (.tagPoolRebuild q deid) s = .next (u.tagFreed q.toNat deid).review ∧ tfind (u.qtr q.toNat).rebuild deid.toNat = none
        ∧ (∀ k, k ∈ (u.qtr q.toNat).tags ↔ k ∈ (s.qtr q.toNat).tags ∧ (k.1 / 1024 = deid.toNat → ∀ c id, k.2 = .req c id → (s.ctx c).reqs.any (fun r => r.id = id && r.tagged) = true))
        ∧ u = { s with qs := u.qs })


/-! ### Ticks and the timebase -/

/-- The boundary of a tick runs the steps of R36 in their order; where the audit finds nothing, the tick grows by one, budgets are full less the overruns or, in a
withheld tick, none (R36, R50, R458), buckets gain PRATE up to PBURST (R134), the governor's level moves by at most one and stays in its range (R458). Every 4,096
ticks each health record drops its oldest sub-window (R470). A marker with an unusable hop count is forgotten, any other is noted, and one of the upstream port is
compared where the device follows markers (R39, R43); an offset below 50 ns locks (R42); 8 ticks without a marker lead from LOCKED to HOLDOVER, 1,000 more to UNALIGNED (R42), each counted and raised (R44,
R45). Where it rests on the model's own readings: logs 23 and 33. -/
def Obligations.TicksAdvance : Prop :=
  (∀ (s : State) (watts : BitVec 16), s.ticking = true →
    let u := s.startTick.holdGaps.closeTick
    u.audit = [] → exec (.tickBoundary watts) s = .next ((u.endProxies.tendTables.noteIdle.score.refill).govern watts.toNat).resetBudgets)
  ∧ (∀ s : State, s.startTick.holdGaps.closeTick.tb.tick = s.tb.tick + 1 ∧ s.startTick.holdGaps.closeTick.mem = s.mem ∧ s.startTick.holdGaps.closeTick.parts = s.parts)
  ∧ (∀ (s : State) (g e : Nat), (s.blk g).state = .member → e < 4 →
      s.resetBudgets.budgetOf g e = if s.pw.level.toNat ≤ s.now % 8 then 0 else (s.budgetMax : Int) - tget (s.blk g).debt e 0)
  ∧ (∀ (s : State) (e : Nat × Port), e ∈ s.refill.ports → ∃ f, f ∈ s.ports ∧ f.1 = e.1 ∧ e.2 = { f.2 with pol := e.2.pol }
      ∧ ∀ x, x ∈ e.2.pol → ∃ y, y ∈ f.2.pol ∧ y.1 = x.1 ∧ x.2 = { y.2 with bucket := min (y.2.bucket + y.2.prate.toNat) y.2.pburst.toNat })
  ∧ (∀ (s : State) (w : Nat), 2 ≤ s.pw.level.toNat → s.pw.level.toNat ≤ 8 →
      let t := s.govern w
      2 ≤ t.pw.level.toNat ∧ t.pw.level.toNat ≤ 8 ∧ t.pw.level.toNat ≤ s.pw.level.toNat + 1 ∧ s.pw.level.toNat ≤ t.pw.level.toNat + 1 ∧ t.pw.watts.length ≤ 100
      ∧ (s.now < s.pw.lastLvl → t.pw.level = s.pw.level) ∧ t = { s with pw := t.pw })
  ∧ (∀ s : State, s.ticking = true → s.now % 4096 = 0 → s.hdrop ≠ some s.now →
      ∃ u : State, exec .healthSubwindowDrop s = .next u.score ∧ u.hdrop = some s.now ∧ u = { s with hdrop := u.hdrop, ports := u.ports, blks := u.blks, qs := u.qs }
        ∧ (∀ e, e ∈ u.ports → ∃ f, f ∈ s.ports ∧ f.1 = e.1 ∧ e.2 = { f.2 with health := f.2.health.roll })
        ∧ (∀ e, e ∈ u.blks → ∃ f, f ∈ s.blks ∧ f.1 = e.1 ∧ e.2 = { f.2 with health := f.2.health.roll }))
  ∧ (∀ h : Health, (h.roll.windows = 0 :: h.windows.take 15 ∨ h.sum = 0) ∧ h.roll = { h with windows := h.roll.windows })
  ∧ (∀ (s : State) (lane : Lane) (m : Slot) (ns : Ns),
      let l := lane.toNat
      s.ticking = true → (s.port l).enabled = true → (s.port l).state = .active → sbits m 0 8 = 7 → sbits m 23 41 = 0 →
        (sbit m 22 = true ∨ 6 ≤ sbits m 18 4 →
          ∃ t : State, exec (.tickMarker lane m ns) s = .next t ∧ tfind t.tb.seen l = none ∧ t = { s with tb := { s.tb with seen := t.tb.seen } })
        ∧ (sbit m 22 = false → sbits m 18 4 < 6 → s.tb.src ≠ 2 →
          ∃ t : State, exec (.tickMarker lane m ns) s = .next t ∧ tfind t.tb.seen l = some (sbits m 18 4, s.now) ∧ t = { s with tb := { s.tb with seen := t.tb.seen } })
        ∧ (sbit m 22 = false → sbits m 18 4 < 6 → s.tb.src = 2 →
          ∃ u : State, tfind u.tb.seen l = some (sbits m 18 4, s.now) ∧ u.tb.lastEdge = s.now ∧ u = { s with tb := { s.tb with seen := u.tb.seen, lastEdge := s.now } }
            ∧ ∃ k h, u.upstream = some (k, h) ∧ exec (.tickMarker lane m ns) s = .next (if k = l then u.compareMarker l m ns.val (sbits m 18 4) else u)))
  ∧ (∀ (s : State) (offset : BitVec 16), s.ticking = true → s.tb.src = 1 →
      ∃ u : State, exec (.tickInEdge offset) s = .next (u.align offset.toInt 0) ∧ u = { s with tb := { s.tb with lastEdge := s.now } })
  ∧ (∀ (s : State) (off : Int) (up : Nat), s.tb.mismatch = false → s.tb.state ≠ .source →
      ∃ u : State, u = { s with tb := { s.tb with offset := BitVec.ofInt 16 off } } ∧ (off.natAbs < 50 → s.align off up = u.tbChange .locked up)
        ∧ (100 ≤ off.natAbs → s.tb.state = .locked → s.align off up = u.tbChange .unaligned up)
        ∧ (50 ≤ off.natAbs → off.natAbs < 100 ∨ s.tb.state ≠ .locked → s.align off up = u.tbChange s.tb.state up))
  ∧ (∀ s : State, s.ticking = true → s.tb.state = .locked → endOf s.tb.lastEdge 8 ≤ s.now → exec .markerLossTimeout s = .next (s.tbChange .holdover 0))
  ∧ (∀ s : State, s.ticking = true → s.tb.state = .holdover → endOf s.tb.since 1000 ≤ s.now → exec .holdoverExpiry s = .next (s.tbChange .unaligned 0))
  ∧ (∀ (s : State) (st : TbState) (up : Nat), s.tb.state ≠ st →
      let t := s.tbChange st up
      t.tb.state = st ∧ t.tb.since = s.now ∧ t.tb.tick = s.tb.tick ∧ t.tb.lossCnt = (if s.tb.state = .locked then satAdd s.tb.lossCnt 1 else s.tb.lossCnt)
        ∧ t.sec.eseq = s.sec.eseq + 1 ∧ t.sec.jseq = s.sec.jseq + 1 ∧ (tget t.sec.evts (s.sec.eseq.toNat % 4096) {}).code = 0x07)


/-! ### Trays, the attention button, the latch and the tamper sensors -/

/-- A tray that comes in trains unless its port is disabled; one that is pulled is LOST where it is assigned, else DOWN (R243, R246); a trained tray is READY with
its frames; a lost link retrains, counted, and a failed retrain loses an assigned tray (R246). A press of 50 ms to 3 s is counted and acts on the selected tray,
one within 500 ms of the last or outside operation is ignored, and one held for 5 s clears LOCATE (R245, R486). The latch, the case and the glitch detectors wipe
the cask, journal and raise TAMPER; a glitch resets the device (R420, R487). Where it rests on the model's own readings: logs 44 and 119. -/
def Obligations.TraysAndButtonsAct : Prop :=
  (∀ (s : State) (t : TrayId) (frames : BitVec 16) (r : Bool),
    let k := t.toNat
    let y := s.tray k
    let come := (s.updTray k (fun y => { y with prsnt := true })).raise { code := 0x04, unit := uTray k }
    let go := (s.updTray k (fun y => { y with prsnt := false })).raise { code := 0x05, unit := uTray k }
    (y.prsnt = false → s.ticking = true → exec (.trayCableIn t) s = .next (if come.quartersOn = true ∧ (come.tray k).state ≠ .disabled then come.updTray k (fun y => { y with state := .train, retrainAt := none }) else come)
      ∧ (come.tray k).prsnt = true)
    ∧ (y.prsnt = true → s.ticking = true → exec (.trayCableOut t) s = .next (if y.state = .assigned ∨ y.state = .evac then go.loseTray k else if y.state = .disabled then go
          else go.updTray k (fun y => { y with state := .down, frames := 0, retrainAt := none })) ∧ (go.tray k).prsnt = false)
    ∧ (s.quartersOn = true → y.state = .train → exec (.trayReady t frames r) s = .next (s.updTray k (fun y => { y with state := .ready, frames := frames, rate := r, retrainAt := none })))
    ∧ (s.quartersOn = true → y.state ≠ .train → y.retrainAt.isSome = true → exec (.trayReady t frames r) s = .next (s.updTray k (fun y => { y with retrainAt := none, rate := r })))
    ∧ (y.state = .train → exec (.trayTrainFail t) s = .next (s.updTray k (fun y => { y with state := .down })))
    ∧ (s.quartersOn = true → y.prsnt = true → y.state = .ready ∨ y.state = .assigned ∨ y.state = .evac → y.retrainAt = none →
        exec (.trayLinkLoss t) s = .next (s.updTray k (fun y => { y with retrain := satAdd y.retrain 1, retrainAt := some s.now })))
    ∧ (y.retrainAt.isSome = true → exec (.trayRetrainFail t) s = .next (if y.state = .assigned ∨ y.state = .evac then s.loseTray k else s.updTray k (fun y => { y with state := .down, frames := 0, retrainAt := none }))))
  ∧ (∀ (s : State) (ms : Nat), s.alive = true → s.mod.attn = none →
      ∃ t : State, exec (.attnPressBegin ms) s = .next t ∧ t.mod.attn = some ms ∧ t = { s with mod := t.mod }
        ∧ ((∀ e, s.mod.attnEnd = some e → e + 500 ≤ ms) → s.boot.step = 6 → s.pw.state.toNat ≤ 2 → s.boot.halted = false → t.mod.ignored = false)
        ∧ (∀ e, s.mod.attnEnd = some e → ms < e + 500 → t.mod.ignored = true))
  ∧ (∀ (s : State) (ms b : Nat), s.mod.attn = some b →
      ∃ u : State, u.mod.attn = none ∧ u.mod.attnEnd = some ms ∧ u = { s with mod := u.mod } ∧ u.mod.presses = s.mod.presses
        ∧ (s.mod.ignored = false → s.pressable = true → b + 50 ≤ ms → ms ≤ b + 3000 → exec (.attnPressEnd ms) s = .next u.shortPress)
        ∧ (s.mod.ignored = true ∨ s.pressable = false ∨ ms < b + 50 ∨ b + 3000 < ms → exec (.attnPressEnd ms) s = .next u))
  ∧ (∀ (s : State) (t : Nat),
      let u := { s with mod := { s.mod with presses := satAdd s.mod.presses 1 } }
      s.selected = some t →
        ((s.tray t).state = .assigned → u.evacLack t ≠ 0 →
          s.shortPress = ({ u with mod := { u.mod with refusedAt := some s.now } }).raise { code := 0x2C, unit := uTray t, d0 := BitVec.ofNat 64 (u.evacLack t) })
        ∧ ((s.tray t).state = .assigned → u.evacLack t = 0 → ∃ e, s.shortPress = (u.evacuate t).journal e ∧ e.src = 3)
        ∧ ((s.tray t).state = .evac → ∃ e, s.shortPress = (u.evacStop t).journal e ∧ e.src = 3)
        ∧ ((s.tray t).state ≠ .assigned → (s.tray t).state ≠ .evac → s.shortPress = u))
  ∧ (∀ (s : State) (ms b : Nat), s.mod.attn = some b → s.mod.ignored = false → s.mod.longDone = false → s.pressable = true → b + 5000 ≤ ms →
      ∃ (u : State) (e : JEntry), exec (.attnLongPress ms) s = .next (u.journal e) ∧ e.src = 3 ∧ e.target = 0xB000 ∧ u.mod.locate = 0 ∧ u.mod.longPr = satAdd s.mod.longPr 1
        ∧ u = { s with mod := u.mod })
  ∧ (∀ s : State,
      (s.mod.latch = false → s.caskOn = true → ∃ u : State, exec .latchOpen s = .next ((u.wipe 1 6).raise (tamper 1)) ∧ u = { s with mod := { s.mod with latch := true } })
      ∧ exec .latchClose s = .next { s with mod := { s.mod with latch := false } }
      ∧ (s.caskOn = true → exec .caseOpen s = .next ((s.wipe 2 6).raise (tamper 2)))
      ∧ (s.alive = true →
          let hit := fun (c : Nat) (t : State) => t.boot.step = 1 ∧ t.boot.last = 4 ∧ t.boot.glitch = true ∧ t.sec.wipeCause = BitVec.ofNat 4 c ∧ t.sec.caskV = false
            ∧ t.sec.wipes = satAdd s.sec.wipes 1 ∧ t.mem = []
          (∃ t : State, exec .voltageGlitch s = .next t ∧ hit 3 t) ∧ ∃ t : State, exec .temperatureGlitch s = .next t ∧ hit 4 t))
  ∧ (∀ (s : State) (c : Nat) (src : BitVec 8), ∃ (u : State) (e : JEntry), s.wipe c src = u.journal e ∧ e.src = src ∧ e.target = 0x7000 ∧ u.sec.caskV = false
      ∧ u.sec.wipeCause = BitVec.ofNat 4 c ∧ u.sec.wipes = satAdd s.sec.wipes 1 ∧ u = { s with sec := u.sec })


/-! ### Power, heat, resets, start-up -/

/-- A write to PW_REQ over an interface that answers is journalled and requests its transition: in operation an accepted one begins, one refused leaves its code
and raises POWER_REFUSED, and a software reset starts warm at once (R434, R454). The transition's end changes the state and raises POWER_STATE; P3 takes the
Quarters' power, P4 everything's (R452, R454 to R456). Idle for 1,000 ticks, P0 becomes P1 (R453). A die at 95 °C halves its clock and one that is cool again for
1,000 ticks restores it (R459); shutdown heat leads to P4 (R459, R483); a stack at 88 °C throttles until it is cool (R492); other sensors warn (R493). Where it rests on the model's own readings: logs 24, 25 and 35. -/
def Obligations.PowerAndHeatAct : Prop :=
  (∀ (s : State) (m : Mctp) (v : BitVec 64), s.answers m = true → s.boot.step ≠ 7 →
      ∃ e : JEntry, e.src = srcOf m ∧ e.target = 0x9008 ∧
        let t := (s.powerReq v).journal e
        (sbits v 0 3 = 0 → exec (.pwReqP0 m v) s = .next (if t.pw.trans = some 7 then t.warmStart 8 0 else t))
        ∧ (sbits v 0 3 = 2 → exec (.pwReqP2 m v) s = .next (if t.pw.trans = some 7 then t.warmStart 8 0 else t))
        ∧ (sbits v 0 3 = 3 → exec (.pwReqP3 m v) s = .next (if t.pw.trans = some 7 then t.warmStart 8 0 else t))
        ∧ (sbits v 0 3 = 4 → exec (.pwReqP4 m v) s = .next (if t.pw.trans = some 7 then t.warmStart 8 0 else t))
        ∧ (sbits v 0 3 = 7 → exec (.pwReqSwreset m v) s = .next (if t.pw.trans = some 7 then t.warmStart 8 0 else t)))
  ∧ (∀ (s : State) (v : BitVec 64),
      let req := sbits v 0 3
      let r := s.powerRefusal req
      (s.boot.step ≠ 6 → s.powerReq v = s)
      ∧ (s.boot.step = 6 → r = 0 → req ≠ s.pw.state.toNat ∨ req = 7 → (s.powerReq v).pw.trans = some (BitVec.ofNat 3 req) ∧ s.powerReq v = { s with pw := (s.powerReq v).pw })
      ∧ (s.boot.step = 6 → r ≠ 0 → ∃ u : State, s.powerReq v = u.raise { code := 0x52, unit := uSquare, d0 := r.setWidth 64, d1 := BitVec.ofNat 64 req } ∧ u.pw.refuse = r ∧ u.pw.trans = s.pw.trans
          ∧ u.pw.state = s.pw.state ∧ u = { s with pw := u.pw })
      ∧ (req = 2 ∨ req = 3 → s.pw.trans = none → s.pw.state ≠ 3 → s.parts.any (fun e => e.2.state = .bound) = true → r = 1))
  ∧ (∀ (s : State) (st : BitVec 3), s.alive = true → s.pw.trans = some st →
      let u := ({ s with pw := { s.pw with trans := none } } : State).raise { code := 0x51, unit := uSquare, d0 := s.pw.state.setWidth 64, d1 := st.setWidth 64 }
      exec .powerTransitionDone s = .next (if st = 4 then u.toP4 false else if st = 3 then (u.enterPower 3).quartersOff else u.enterPower st))
  ∧ (∀ s : State, s.quartersOff.ports = [] ∧ s.quartersOff.qs = [] ∧ s.quartersOff.ctxs = [] ∧ s.quartersOff.mem = s.mem ∧ s.quartersOff.tb = s.tb ∧ s.quartersOff.sec = s.sec
      ∧ ∀ e, e ∈ s.quartersOff.parts → ∃ f, f ∈ s.parts ∧ e.1 = f.1 ∧ e.2.state = f.2.state ∧ e.2.pages = f.2.pages ∧ e.2.blocks = f.2.blocks ∧ e.2.map = f.2.map)
  ∧ (∀ (s : State) (b : Bool), (s.toP4 b).pw.state = 4 ∧ (s.toP4 b).boot.thermRec = b ∧ (s.toP4 b).mem = [] ∧ (s.toP4 b).parts = [] ∧ (s.toP4 b).flash = s.flash ∧ (s.toP4 b).fuse = s.fuse)
  ∧ (∀ (s : State) (t : Nat), s.pw.idle = some t → s.ticking = true → s.boot.step = 6 → s.pw.state = 0 → s.pw.trans = none → s.idleNow = true → endOf t 1000 ≤ s.now →
      ∃ u : State, exec .p1IdleEntry s = .next u ∧ u.pw.state = 1 ∧ u.pw.since = BitVec.ofNat 32 s.now ∧ u = { s with pw := u.pw })
  ∧ (∀ (s : State) (die : Fin 5) (temp : BitVec 16), s.sensing = true →
      (celsius 95 ≤ temp.toInt → s.mod.warn.getLsbD die.val = false →
        ∃ u : State, exec (.thermalWarning die temp) s = .next (u.raise (thermalWarn (if die.val = 0 then uSquare else uQtr (die.val - 1)) temp)) ∧ u.mod.warn.getLsbD die.val = true
          ∧ (die.val ≠ 0 → u.pw.half.getLsbD die.val = true ∧ u.pw.run.getLsbD (2 + die.val) = false ∧ (3 + die.val) ∈ u.pw.ramps) ∧ tget u.mod.temp die.val 0 = temp
          ∧ u = { s with mod := u.mod, pw := u.pw, out := u.out })
      ∧ (temp.toInt ≤ celsius 90 → s.mod.warn.getLsbD die.val = true →
        ∃ u : State, exec (.thermalRecovery die temp) s = .next u ∧ u.mod.warn.getLsbD die.val = false ∧ (die.val ≠ 0 → u.pw.half.getLsbD die.val = false ∧ (3 + die.val) ∈ u.pw.ramps)
          ∧ u = { s with mod := u.mod, pw := u.pw, out := u.out }))
  ∧ (∀ (s : State) (sensor : Fin 43) (temp : BitVec 16) (x : Int), shutdownAt sensor.val = some x → x ≤ temp.toInt → s.alive = true → exec (.thermalShutdown sensor temp) s = .next (s.toP4 true))
  ∧ (∀ (s : State) (stack : BitVec 5) (temp : BitVec 16), s.sensing = true →
      (celsius 88 ≤ temp.toInt → s.mod.throttled.getLsbD stack.toNat = false →
        ∃ u : State, exec (.stackThrottle stack temp) s = .next (u.raise (thermalWarn (uQtr (stackQtr stack.toNat)) temp)) ∧ u.mod.throttled.getLsbD stack.toNat = true
          ∧ (∀ j, j ≠ stack.toNat → u.mod.throttled.getLsbD j = s.mod.throttled.getLsbD j) ∧ u = { s with mod := u.mod, qs := u.qs, out := u.out })
      ∧ (temp.toInt ≤ celsius 83 → s.mod.throttled.getLsbD stack.toNat = true →
        ∃ u : State, exec (.throttleExit stack temp) s = .next u ∧ u.mod.throttled.getLsbD stack.toNat = false ∧ u = { s with mod := u.mod, out := u.out }))
  ∧ (∀ (s : State) (sensor : Fin 43) (temp : BitVec 16), s.sensing = true →
      (sensorWarm sensor.val temp.toInt = true → s.mod.warn.getLsbD sensor.val = false →
        ∃ u : State, exec (.sensorWarning sensor temp) s = .next (u.raise (thermalWarn uSquare temp)) ∧ u.mod.warn.getLsbD sensor.val = true ∧ u = { s with mod := u.mod, out := u.out })
      ∧ (37 ≤ sensor.val → sensorWarm sensor.val temp.toInt = false → s.mod.warn.getLsbD sensor.val = true →
        ∃ u : State, exec (.sensorWarningClear sensor temp) s = .next u ∧ u.mod.warn.getLsbD sensor.val = false ∧ u = { s with mod := u.mod, out := u.out }))

/-- Resets and start-up. A warm start keeps the RWS fields and records its cause, a cold one keeps nothing (R432, R460); flash and fuses stay in both. PWR_GOOD,
MOD_RESET_N, 12 V and the watchdog act as R482 and R483 say, a lost clock as R449; the reset of an interface clears what its control window stages (R461, R500).
The start-up steps follow each other; a failure leads to recovery (R433 to R437); a stack's failed channels hold their Blocks out (R438); the crystal is awaited
(R436, R448); a divider ramp ends (R450). Where it rests on the model's own readings: logs 14, 26 and 28. -/
def Obligations.ResetsAndStartUp : Prop :=
  (∀ (s : State) (c : Nat) (src : BitVec 8), c < 9 →
    let t := s.warmStart c src
    t.boot.step = 1 ∧ t.boot.last = BitVec.ofNat 4 c ∧ t.boot.seen = s.boot.seen ||| BitVec.ofNat 9 (2 ^ c) ∧ t.boot.starts = satAdd s.boot.starts 1 ∧ t.sec.wipes = s.sec.wipes
      ∧ t.tb.lossCnt = s.tb.lossCnt ∧ t.boot.clkSrc = (if c = 3 then src else s.boot.clkSrc) ∧ t.tb.tick = 0 ∧ t.selfEid = 0xFFF ∧ t.parts = [] ∧ t.ports = [] ∧ t.blks = [] ∧ t.ctxs = [] ∧ t.mem = []
      ∧ t.fuse = s.fuse ∧ t.flash = s.flash ∧ t.boot.held = false)
  ∧ (∀ s : State,
      let t := s.coldStart
      t.boot.step = 1 ∧ t.boot.last = (if s.boot.thermRec then 7 else 0) ∧ t.boot.thermRec = false ∧ t.sec.wipes = 0 ∧ t.tb.lossCnt = 0 ∧ t.parts = [] ∧ t.ports = [] ∧ t.mem = [] ∧ t.fuse = s.fuse ∧ t.flash = s.flash)
  ∧ (∀ s : State,
      let up := { s with mod := { s.mod with pwrGood := true } }
      let on := s.boot.dead = false ∧ s.pw.state ≠ 4
      (s.mod.pwrGood = false → (s.boot.held = true → exec .pwrGoodAssert s = .next up) ∧ (s.boot.held = false → on → exec .pwrGoodAssert s = .next (up.warmStart 2 0))
        ∧ (s.boot.held = false → ¬on → exec .pwrGoodAssert s = .next up.coldStart))
      ∧ (s.mod.pwrGood = true → ∃ t : State, exec .pwrGoodDeassert s = .next t ∧ t.mod.pwrGood = false ∧ (on → t.parts = [] ∧ t.ports = [] ∧ t.mem = [] ∧ t.boot.starts = s.boot.starts) ∧ t.fuse = s.fuse)
      ∧ (∃ t : State, exec .squarePowerLoss s = .next t ∧ t.boot.dead = true ∧ t.boot.thermRec = false ∧ t.mod.pwrGood = false ∧ t.boot.seen = State.reset.boot.seen ∧ t.mem = [] ∧ t.flash = s.flash)
      ∧ (s.boot.held = false → ∃ t : State, exec .modResetAssert s = .next t ∧ t.boot.held = true ∧ t.mod.pwrGood = s.mod.pwrGood ∧ (on → t.parts = [] ∧ t.ports = [] ∧ t.mem = []))
      ∧ (s.boot.held = true → (s.mod.pwrGood = false → exec .modResetRelease s = .next { s with boot := { s.boot with held := false } })
        ∧ (s.mod.pwrGood = true → on → exec .modResetRelease s = .next (s.warmStart 1 0)) ∧ (s.mod.pwrGood = true → ¬on → exec .modResetRelease s = .next s.coldStart))
      ∧ (s.alive = true → exec .watchdog s = .next (s.warmStart 6 0))
      ∧ (∀ src : BitVec 8, s.alive = true → s.monitored src.toNat = true → exec (.clockSourceLoss src) s = .next (s.warmStart 3 src))
      ∧ (s.alive = true → ∃ t : State, exec .pcieHotReset s = .next t ∧ t.winP.insn = 0 ∧ t.winP.args = [] ∧ t.winP.busy = s.winP.busy ∧ t = { s with winP := t.winP })
      ∧ (s.alive = true → ∃ t : State, exec .i3cTargetReset s = .next t ∧ t.winI.insn = 0 ∧ t.winI.args = [] ∧ t.winI.busy = s.winI.busy ∧ t = { s with winI := t.winI }))
  ∧ (∀ (s : State) (ms : BitVec 32), s.alive = true →
      let t := { s with boot := { s.boot with elapsed := ms } }
      (s.boot.step = 1 → s.pw.xo = true → (∀ n b, exec (.startupStepDone (.ok n b) ms) s = .next (t.step1Done false)) ∧ exec (.startupStepDone .imageA ms) s = .next (t.step1Done true)
        ∧ exec (.startupStepDone .noImage ms) s = .next (t.recovery 3) ∧ exec (.startupStepDone .fuse ms) s = .next (t.recovery 4))
      ∧ (s.boot.step = 2 → (∀ n b, ∃ u : State, exec (.startupStepDone (.ok n b) ms) s = .next u ∧ u.boot.step = 3 ∧ u.boot.elapsed = ms ∧ u = { s with boot := u.boot, pw := u.pw })
        ∧ exec (.startupStepDone .pll ms) s = .next (t.recovery 5) ∧ exec (.startupStepDone .d2d ms) s = .next (t.recovery 6))
      ∧ (s.boot.step = 3 → s.boot.stacksUp = BitVec.allOnes 32 → ∀ n b, ∃ u : State, exec (.startupStepDone (.ok n b) ms) s = .next u ∧ u.boot.step = 4 ∧ u = { s with boot := u.boot })
      ∧ (s.boot.step = 4 → ∀ n b, ∃ u : State, exec (.startupStepDone (.ok n b) ms) s = .next u ∧ u.boot.step = 5 ∧ u.boot.lnkFull = n ∧ u = { s with boot := u.boot })
      ∧ (s.boot.step = 5 → ∀ n b, exec (.startupStepDone (.ok n b) ms) s = .next ((t.holdOut b 8).startupEnd)))
  ∧ (∀ (s : State) (b : Bool) (c : BitVec 8), (s.fuse.lc ≠ .scrapped → (s.step1Done b).boot.step = 2 ∧ (s.step1Done b).sec.caskV = true ∧ (s.step1Done b).calset = s.flash)
      ∧ (s.recovery c).boot.step = 7 ∧ (s.recovery c).boot.result = 3 ∧ ((s.recovery c).boot.fault = if s.boot.fault = 0 then c else s.boot.fault))
  ∧ (∀ (s : State) (stack : BitVec 5) (full : Bool) (failed : BitVec 32), s.alive = true → s.boot.step = 3 → s.boot.stacksUp.getLsbD stack.toNat = false →
      ∃ t : State, exec (.stackTrainingDone stack full failed) s = .next t ∧ t.boot.stacksUp.getLsbD stack.toNat = true ∧ (∀ j, j < 32 → j ≠ stack.toNat → t.boot.stacksUp.getLsbD j = s.boot.stacksUp.getLsbD j)
        ∧ (∀ i, i < stackChans stack.toNat → failed.getLsbD i = true → t.boot.blkFail.getLsbD (stackChan stack.toNat i).1 = true) ∧ t = { s with boot := t.boot, blks := t.blks })
  ∧ (∀ s : State, s.alive = true → s.boot.step = 1 → exec .crystalStable s = .next { s with pw := { s.pw with xo := true } }
      ∧ (s.pw.xo = false → ∃ t : State, exec .crystalRetry s = .next t ∧ t.boot.fault = (if s.boot.fault = 0 then 1 else s.boot.fault) ∧ t = { s with boot := t.boot }))
  ∧ (∀ (s : State) (d : BitVec 5), s.alive = true → d.toNat ∈ s.pw.ramps →
      ∃ t : State, exec (.dividerRampDone d) s = .next t ∧ d.toNat ∉ t.pw.ramps ∧ (d.toNat < 4 → t.pw.run = s.pw.run ||| BitVec.ofNat 18 (2 ^ (d.toNat - 1))) ∧ t = { s with pw := t.pw })


/-! ### Registers, security, faults -/

/-- Register accesses: an aligned 8-byte write to a field that takes writes acts and is journalled with the interface as its source, one nowhere changes nothing
(R426, R495); an interface writes its own control window, and CTLW_GO queues the staged instruction or is dropped, counted (R499); an I3C message of 16 bytes is
answered, a misaligned one with its error bit (R496). SQ_SELF takes a value only while every fabric port is DISABLED (R498), SPI stays on during a SAVE (R451), the
reserved LOCATE value changes nothing (the model's choice, log 45). A message of another length is no command, and faults: the model's own stop. Where it rests on the model's own readings: logs 47 and 121. -/
def Obligations.RegisterAccessesAct : Prop :=
  (∀ (s : State) (m : Mctp) (v : BitVec 64), s.answers m = true → s.boot.step ≠ 7 →
    let wrote := fun (off : Nat) (t : State) => ∃ (u : State) (e : JEntry), s.writeSq off v = some u ∧ e.src = srcOf m ∧ e.target = BitVec.ofNat 32 off ∧ e.old = s.readSq off ∧ e.new = u.readSq off
        ∧ t = (if u.pw.trans = some 7 then (u.journal e).warmStart 8 0 else u.journal e)
    (∃ t, exec (.sqSelfWrite m v) s = .next t ∧ wrote 0x10 t) ∧ (∃ t, exec (.ckPeriphEnWrite m v) s = .next t ∧ wrote 0x8008 t)
    ∧ (∃ t, exec (.sqLedCtlWrite m v) s = .next t ∧ wrote 0xB000 t))
  ∧ (∀ (s : State) (m : Mctp) (off : BitVec 32) (v : BitVec 64), s.answers m = true → s.boot.step ≠ 7 → off.toNat % 8 = 0 → off.toNat < 0xC000 →
      (∀ u, s.writeSq off.toNat v = some u → u.pw.trans ≠ some 7 →
        ∃ e : JEntry, e.src = srcOf m ∧ e.target = off ∧ e.old = s.readSq off.toNat ∧ e.new = u.readSq off.toNat ∧ exec (.registerWrite m off 8 v) s = .next (u.journal e))
      ∧ (s.writeSq off.toNat v = none → exec (.registerWrite m off 8 v) s = .next s))
  ∧ (∀ (s : State) (m : Mctp) (off : BitVec 32) (width : Nat) (v : BitVec 64), width ≠ 8 ∨ off.toNat % 8 ≠ 0 ∨ s.answers m = false → exec (.registerWrite m off width v) s = .next s)
  ∧ (∀ (s : State) (v : BitVec 64),
      (s.ports.any (fun e => e.2.off = 0 && e.2.state ≠ .disabled) = true → s.writeSelf v = s)
      ∧ (s.ports.any (fun e => e.2.off = 0 && e.2.state ≠ .disabled) = false → (s.writeSelf v).selfEid.toNat = sbits v 0 12 ∧ (s.writeSelf v).selfInc.toNat = sbits v 12 8
          ∧ (sbits v 0 12 ≠ 0xFFF → ((s.writeSelf v).incOf (BitVec.ofNat 12 (sbits v 0 12))).toNat = sbits v 12 8))
      ∧ (s.save.isSome = true → s.pw.spi = true → (s.writePeriph v).pw.spi = true) ∧ (s.save = none → (s.writePeriph v).pw.spi = sbit v 0)
      ∧ (s.writePeriph v).pw.i3c = sbit v 1 ∧ (s.writePeriph v).pw.tickOut = sbit v 2
      ∧ (sbits v 0 2 = 3 → s.writeLed v = s) ∧ (sbits v 0 2 ≠ 3 → (s.writeLed v).mod.locate.toNat = sbits v 0 2 ∧ s.writeLed v = { s with mod := (s.writeLed v).mod }))
  ∧ (∀ (s : State) (m : Mctp) (v : BitVec 64), s.answers m = true → s.boot.step ≠ 7 →
      (sbit v 0 = false → exec (.ctlwGoWrite m v) s = .next s)
      ∧ (sbit v 0 = true → (s.window m).busy = true →
          ∃ t : State, exec (.ctlwGoWrite m v) s = .next t ∧ (t.window m).dropGo = satAdd (s.window m).dropGo 1 ∧ (t.window m).insn = (s.window m).insn ∧ t.ctlq = s.ctlq
            ∧ t = { s with winP := t.winP, winI := t.winI })
      ∧ (sbit v 0 = true → (s.window m).busy = false →
          ∃ (t : State) (args : List Slot), exec (.ctlwGoWrite m v) s = .next t ∧ (t.window m).busy = true ∧ (t.window m).done = false ∧ t.ctlq = s.ctlq ++ [(viaOf m, (s.window m).insn, args)]
            ∧ args.length = min 63 (sbits (s.window m).insn 72 12) ∧ (∀ k, k < args.length → args[k]? = some (tget (s.window m).args (k + 1) 0))
            ∧ t = { s with winP := t.winP, winI := t.winI, ctlq := t.ctlq }))
  ∧ (∀ (s : State) (req : List Byte),
      let o := natAt req 4 4
      let reply := fun (b : Nat) (v : BitVec 64) => Output.i3cResp (leBytes 8 b ++ leBytes 8 v.toNat)
      (req.length ≠ 16 → exec (.i3cRegisterAccess req) s = .fault .malformedCommand)
      ∧ (req.length = 16 → s.answers .i3c = true → natAt req 1 3 = 0 → natAt req 0 1 ≤ 1 →
          (o % 8 ≠ 0 → exec (.i3cRegisterAccess req) s = .next (s.emit (reply 1 0)))
          ∧ (o % 8 = 0 → natAt req 0 1 = 0 → exec (.i3cRegisterAccess req) s = .next (s.emit (reply 0 (s.mgmtRead .i3c o))))
          ∧ (o % 8 = 0 → natAt req 0 1 = 1 → ∃ u : State, exec (.i3cRegisterAccess req) s = .next (u.emit (reply 0 0)) ∧ u = s.mgmtWrite .i3c o (BitVec.ofNat 64 (natAt req 8 8)))))

/-- SPDM answers are put out and change nothing else; a signed one needs the cask, a wiped cask answers Unspecified (R421, R423, R424; the codes are the family's,
log 48). A life-cycle change along an arrow of R418, with its token where it needs one and no partition in being, wipes the cask, burns the fuse and resets with
cause LIFECYCLE (R419, R420); any other changes nothing. A debug level within R429 is set, journalled and raised, invasive debug wiping the cask; one beyond it is
refused and journalled (R429, R430). -/
def Obligations.SecurityCommandsAct : Prop :=
  (∀ (s : State) (m : Mctp), s.spdmUp m = true →
    exec (.spdmGetVersion m) s = .next (s.spdmSay m 0x04 [0x12])
    ∧ (s.spdmRom = false →
      exec (.spdmGetCapabilities m) s = .next (s.spdmSay m 0x61 (leBytes 4 0x16))
      ∧ (∀ a b, exec (.spdmNegotiateAlgorithms m a b) s = .next (s.spdmSay m 0x63 [BitVec.ofNat 8 (b1 a), BitVec.ofNat 8 (b1 b)]))
      ∧ (∃ mask l, exec (.spdmGetDigests m) s = .next (s.spdmSay m 0x01 (mask :: l)) ∧ ∀ i, i < 8 → mask.getLsbD i = s.slotHeld i)
      ∧ (∀ slot, exec (.spdmGetCertificate m slot) s = .next (s.spdmSay m 0x02 (if s.slotHeld slot.toNat then Config.certChain slot.toNat else [])))
      ∧ (∀ slot nonce, (s.sec.caskV = false → exec (.spdmChallenge m slot nonce) s = .next (s.spdmError m errUnspecified))
          ∧ (s.sec.caskV = true → s.slotHeld slot.toNat = false → exec (.spdmChallenge m slot nonce) s = .next (s.spdmError m errInvalid))
          ∧ (s.sec.caskV = true → s.slotHeld slot.toNat = true →
              ∃ body, exec (.spdmChallenge m slot nonce) s = .next (s.spdmSay m 0x03 (body ++ Config.sign (leBytes 32 nonce.toNat ++ body))) ∧ body.head? = some (BitVec.ofNat 8 slot.toNat)))
      ∧ (∀ i nonce, (s.sec.caskV = false → exec (.spdmGetMeasurements m i true nonce) s = .next (s.spdmError m errUnspecified))
          ∧ (∀ b, i ≠ 0 → i ≠ 0xFF → s.measure i.toNat = some b → exec (.spdmGetMeasurements m i false nonce) s = .next (s.spdmSay m 0x60 (i :: b)))
          ∧ (i ≠ 0 → i ≠ 0xFF → s.measure i.toNat = none → exec (.spdmGetMeasurements m i false nonce) s = .next (s.spdmError m errInvalid)))
      ∧ (∀ goal token,
          (∀ need, lcArrow s.sec.lc goal = some need → (need = true → token = true) → s.parts.any (fun e => e.2.state ≠ .none) = false →
            ∃ t : State, exec (.spdmLcset m goal token) s = .next t ∧ t.fuse.lc = goal ∧ t.boot.step = 1 ∧ t.boot.last = 5 ∧ t.sec.caskV = false ∧ t.sec.wipeCause = 5 ∧ t.mem = [])
          ∧ (lcArrow s.sec.lc goal = none ∨ (lcArrow s.sec.lc goal = some true ∧ token = false) ∨ s.parts.any (fun e => e.2.state ≠ .none) = true →
            exec (.spdmLcset m goal token) s = .next (s.spdmError m errUnspecified)))))
  ∧ (∀ (s : State) (m : Mctp) (code : Nat) (body : List Byte), s.spdmSay m code body = { s with out := s.out ++ [.spdm m code body] })
  ∧ (∀ (s : State) (level : DebugLevel) (token : Bool), s.alive = true →
      (s.boot.step ≠ 1 → s.boot.step ≠ 7 → dbgCode s.sec.debug < dbgCode level →
        (debugAllowed s.sec.lc level token = true → level ≠ .invasive → exec (.jtagUnlock level token) s = .next (s.setDebug level))
        ∧ (debugAllowed s.sec.lc .invasive token = true → level = .invasive → exec (.jtagUnlock level token) s = .next ((s.wipe 6 5).setDebug .invasive))
        ∧ (debugAllowed s.sec.lc level token = false → ∃ e : JEntry, exec (.jtagUnlock level token) s = .next (s.journal e) ∧ e.src = 5 ∧ e.target = 0x7000))
      ∧ (dbgCode level < dbgCode s.sec.debug → exec (.jtagLock level) s = .next (s.setDebug level)))
  ∧ (∀ (s : State) (level : DebugLevel), (s.setDebug level).sec.debug = level ∧ (s.setDebug level).sec.jseq = s.sec.jseq + 1 ∧ (s.setDebug level).sec.eseq = s.sec.eseq + 1
      ∧ (s.setDebug level).mem = s.mem)
  ∧ (∀ token, debugAllowed .scrapped .invasive token = false ∧ debugAllowed .deployed .invasive token = false ∧ debugAllowed .provisioned .invasive token = false ∧ debugAllowed .returned .invasive token = token)

/-- Detected errors, each contained as its class says (R462): a corrected one counts and costs health only (R470); one in a line poisons the line, in a bank word the
word, in an issue state or a request's entry faults its context with STATE_LOST (R397), in the replay cache drops an entry and raises the horizon (R173), in shared
state of a Block or of a partition fences the partition (R417), in a free list or a die link halts the device (R463); an engine that answers no slice for 1,000 ticks
fences its partition. Where it rests on the model's own readings: log 118. -/
def Obligations.ErrorsAreContained : Prop :=
  (∀ s : State, s.ticking = true →
    (∀ (l : Lane) (n : BitVec 16), (s.port l.toNat).enabled = true →
      ∃ t : State, exec (.correctedError (.fec l) n) s = .next t ∧ (t.port l.toNat).fecCorr = satAdd (s.port l.toNat).fecCorr (((s.port l.toNat).fecSum + n.toNat) / 1024)
        ∧ (t.port l.toNat).fecSum = ((s.port l.toNat).fecSum + n.toNat) % 1024 ∧ t = { s with ports := t.ports })
    ∧ (∀ (q : QId) (c : BitVec 8) (n : BitVec 16), c.toNat < 160 → exec (.correctedError (.channelSymbol q c) n) s = .next (s.chanPenalty q.toNat c.toNat (4 * n.toNat))
        ∧ exec (.correctedError (.channelRetry q c) n) s = .next (s.chanPenalty q.toNat c.toNat (32 * n.toNat)))
    ∧ (∀ (q : QId) (n : BitVec 16), ∃ t : State, exec (.correctedError (.bufferWord q) n) s = .next t
        ∧ (t.qtr q.toNat).bufCe = satAdd (s.qtr q.toNat).bufCe (((s.qtr q.toNat).bufCeSum + n.toNat) / 1024) ∧ t = { s with qs := t.qs })
    ∧ (∀ (p : PartId) (l : BitVec 45) (tray : Bool) (x : Spot), (s.part p.toNat).spot l.toNat = some x → decide (x.tier = 3) = tray →
        exec (.uncorrectableError (.line p l tray)) s = .next (s.lineUe p.toNat l.toNat x)
        ∧ (s.lineUe p.toNat l.toNat x).poison = (s.setPoison p.toNat l.toNat true).poison ∧ (s.lineUe p.toNat l.toNat x).mem = s.mem)
    -- the place of a line (R212 to R215): frame by frame, striped over the channels in 512-byte units, its metadata apart
    ∧ (∀ (p l : Nat), let g := (s.part p).page (l / 2 ^ 21)
        g.tier ≠ 0 → g.dstFrms = [] →
          let o := 128 * l - (s.part p).pageKey (l / 2 ^ 21) * 2 ^ 28
          ∃ x, (s.part p).spot l = some x ∧ x.tier = g.tier.toNat ∧ x.frame = nth g.frms (o / 2 ^ 28) ∧ x.tray = nth g.trays (o / 2 ^ 28) ∧ x.addr = x.frame * 2 ^ 28 + o % 2 ^ 28
            ∧ (∀ c, (channels x.lay (x.tier = 1))[x.addr / 512 % (channels x.lay (x.tier = 1)).length]? = some c → x.channel = c))
    ∧ (∀ (g : BlockId) (w : BitVec 19), (s.blk g.toNat).state = .member →
        ∃ (u : State) (e : Event), exec (.uncorrectableError (.bankWord g w)) s = .next ((u.raise e).bufferUe g.toNat (w.toNat / 1024)) ∧ e.code = 0x60 ∧ e.cls = 4 ∧ w.toNat ∈ (u.blk g.toNat).bpois
          ∧ (u.blk g.toNat).bank = (s.blk g.toNat).bank ∧ u = { s with blks := u.blks })
    ∧ (∀ c : CtxId, (s.ctx c.toNat).holds = true → (s.ctx c.toNat).parked = false →
        ∃ (v : State) (e : Event), exec (.uncorrectableError (.issueState c)) s = .next (v.faultCtx c.toNat stStateLost 0xFFFF) ∧ v = s.raise e ∧ e.code = 0x60 ∧ e.cls = 4)
    ∧ (∀ g : BlockId, (s.blk g.toNat).replay ≠ [] → ∃ (u : State) (e : Event), exec (.uncorrectableError (.replay g)) s = .next (u.raise e) ∧ (u.blk g.toNat).hz = s.tb.tick ∧ e.code = 0x60 ∧ e.cls = 5 ∧ u.mem = s.mem)
    ∧ (∀ (g : BlockId) (site : UeSite) (p : Nat), site = .directory g ∨ site = .conflictTable g ∨ site = .txnRecord g → s.partOfBlk g.toNat = some p →
        ∃ e : Event, exec (.uncorrectableError site) s = .next ((s.raise e).fencePart p 0x60 6 s.sec.eseq) ∧ e.code = 0x60 ∧ e.cls = 6 ∧ e.part = BitVec.ofNat 6 p)
    ∧ (s.boot.halted = false → ∀ q : QId, (∃ u : State, exec (.uncorrectableError (.freeList q)) s = .next (u.halt (uQtr q.toNat) (some (0x60, s.sec.eseq))))
        ∧ exec (.uncorrectableError (.dieLink q)) s = .next (s.halt (uQtr q.toNat) none)))
  ∧ (∀ (s : State) (g : BlockId) (e : Eng) (p : Nat), (s.blk g.toNat).state = .member → s.partOfBlk g.toNat = some p →
      ∃ (u : State) (v : Event), exec (.engineUnresponsive g e) s = .next ((u.raise v).fencePart p 0x60 6 s.sec.eseq) ∧ v.code = 0x60 ∧ v.cls = 6 ∧ u = { s with blks := u.blks })
  ∧ (∀ (s : State) (p code : Nat) (cls : BitVec 8) (seq : BitVec 64), (s.part p).state = .bound ∨ (s.part p).state = .ready →
      ∃ (u : State) (e : Event), s.fencePart p code cls seq = u.raise e ∧ u = (s.updPart p (fun x => { x with state := .fenced })).faultPart p stStateLost ∧ e.code = 0x44 ∧ e.d1 = seq)
  ∧ (∀ (s : State) (unit : BitVec 16) (code : Nat) (seq : BitVec 64), s.boot.halted = false → s.parts = [] →
      ∃ u : State, s.halt unit (some (code, seq)) = u.raise { code := 0x64, cls := 7, unit := unit, d0 := seq } ∧ u.boot.halted = true ∧ u = { s with boot := u.boot })
end

