-- ==== Sys2Proof/Laws/Table.lean ====
section
/-! SUPPORT. Laws of tables: a read after a write, and the canonical form under every table operation. -/

namespace Sys2Proof.Machine

/-! ### Reads after writes -/

@[simp] theorem tget_tdel_same (t : Tbl α) (k : Nat) (d : α) : tget (tdel t k) k d = d := by
  induction t with
  | nil => rfl
  | cons e r ih =>
    obtain ⟨j, v⟩ := e
    by_cases h : j = k
    · simp [tdel, h, ih]
    · simp [tdel, tget, h, ih]

theorem tget_tdel_other (t : Tbl α) {k j : Nat} (d : α) (h : j ≠ k) : tget (tdel t k) j d = tget t j d := by
  induction t with
  | nil => rfl
  | cons e r ih =>
    obtain ⟨i, v⟩ := e
    by_cases hk : i = k
    · have : i ≠ j := fun e => h (e.symm.trans hk)
      simp [tdel, tget, hk, ih]
      intro e; exact absurd e.symm h
    · by_cases hj : i = j
      · subst hj; simp [tdel, tget, h]
      · simp [tdel, tget, hk, hj, ih]

theorem tget_tins_other (t : Tbl α) {k j : Nat} (v d : α) (h : j ≠ k) : tget (tins t k v) j d = tget t j d := by
  induction t with
  | nil => simp [tins, tget, Ne.symm h]
  | cons e r ih =>
    obtain ⟨i, w⟩ := e
    by_cases hk : k < i
    · simp [tins, tget, hk, Ne.symm h]
    · simp [tins, tget, hk, ih]

theorem tget_tins_fresh (t : Tbl α) (k : Nat) (v d : α) (h : ∀ e ∈ t, e.1 ≠ k) : tget (tins t k v) k d = v := by
  induction t with
  | nil => simp [tins, tget]
  | cons e r ih =>
    obtain ⟨i, w⟩ := e
    have hi : i ≠ k := h (i, w) (by simp)
    have ih := ih (fun e he => h e (by simp [he]))
    by_cases hk : k < i <;> simp [tins, tget, hk, hi, ih]

theorem tdel_mem (t : Tbl α) (k : Nat) : ∀ e ∈ tdel t k, e ∈ t ∧ e.1 ≠ k := by
  induction t with
  | nil => simp [tdel]
  | cons e r ih =>
    obtain ⟨j, v⟩ := e
    by_cases h : j = k
    · simp only [tdel, h, if_pos]; intro e he; exact ⟨by simp [(ih e he).1], (ih e he).2⟩
    · simp only [tdel, h, if_false, List.mem_cons]
      rintro e (rfl | he)
      · exact ⟨by simp, h⟩
      · exact ⟨.inr (ih e he).1, (ih e he).2⟩

theorem tget_tins_del (t : Tbl α) (k : Nat) (v d : α) : tget (tins (tdel t k) k v) k d = v :=
  tget_tins_fresh _ k v d (fun e he => (tdel_mem t k e he).2)

/-- A key reads what was last written to it. -/
@[simp] theorem tget_tset_same [DecidableEq α] (t : Tbl α) (k : Nat) (v d : α) : tget (tset t k v d) k d = v := by
  by_cases h : v = d
  · simp [tset, h]
  · simp [tset, h, tget_tins_del]

/-- A write leaves every other key alone. -/
theorem tget_tset_other [DecidableEq α] (t : Tbl α) {k j : Nat} (v d : α) (h : j ≠ k) : tget (tset t k v d) j d = tget t j d := by
  by_cases hv : v = d
  · simp [tset, hv, tget_tdel_other t d h]
  · simp [tset, hv, tget_tins_other _ v d h, tget_tdel_other t d h]

/-! ### The canonical form -/

theorem tdel_tins (t : Tbl α) (k : Nat) (v : α) : tdel (tins t k v) k = tdel t k := by
  induction t with
  | nil => simp [tins, tdel]
  | cons e r ih =>
    obtain ⟨i, w⟩ := e
    by_cases h : k < i
    · simp [tins, h, tdel]
    · by_cases hi : i = k <;> simp [tins, h, tdel, hi, ih]

theorem tdel_tdel (t : Tbl α) (k : Nat) : tdel (tdel t k) k = tdel t k := by
  induction t with
  | nil => rfl
  | cons e r ih =>
    obtain ⟨i, w⟩ := e
    by_cases hi : i = k <;> simp [tdel, hi, ih]

/-- Of two writes of one key the later one stands. -/
theorem tset_tset [DecidableEq α] (t : Tbl α) (k : Nat) (v w d : α) : tset (tset t k v d) k w d = tset t k w d := by
  have h : tdel (tset t k v d) k = tdel t k := by
    unfold tset
    split
    · exact tdel_tdel t k
    · rw [tdel_tins, tdel_tdel]
  simp only [tset] at h ⊢
  rw [h]

/-- The canonical form: keys strictly rising, no entry at the default. -/
theorem twf_iff [DecidableEq α] (t : Tbl α) (d : α) :
    twf t d = true ↔ t.Pairwise (fun a b => a.1 < b.1) ∧ ∀ e ∈ t, e.2 ≠ d := by
  induction t with
  | nil => simp [twf]
  | cons a r ih =>
    obtain ⟨j, v⟩ := a
    cases r with
    | nil => simp [twf]
    | cons b r =>
      obtain ⟨k, w⟩ := b
      simp only [twf, Bool.and_eq_true, decide_eq_true_eq, ih]
      constructor
      · rintro ⟨⟨hv, hjk⟩, hp, hd⟩
        refine ⟨List.Pairwise.cons ?_ hp, ?_⟩
        · intro e he
          rcases List.mem_cons.1 he with rfl | he
          · exact hjk
          · exact Nat.lt_trans hjk (List.rel_of_pairwise_cons hp he)
        · intro e he
          rcases List.mem_cons.1 he with rfl | he
          · exact hv
          · exact hd e he
      · rintro ⟨hp, hd⟩
        exact ⟨⟨hd (j, v) (by simp), List.rel_of_pairwise_cons (a' := (k, w)) hp (by simp)⟩, hp.tail, fun e he => hd e (List.mem_cons_of_mem _ he)⟩

theorem twf_filter [DecidableEq α] (t : Tbl α) (d : α) (f : Nat × α → Bool) (h : twf t d = true) : twf (t.filter f) d = true := by
  rw [twf_iff] at h ⊢
  exact ⟨h.1.filter f, fun e he => h.2 e (List.mem_filter.1 he).1⟩

theorem tdel_sublist (t : Tbl α) (k : Nat) : (tdel t k).Sublist t := by
  induction t with
  | nil => exact List.Sublist.refl _
  | cons e r ih =>
    obtain ⟨j, v⟩ := e
    by_cases h : j = k
    · simp only [tdel, h, if_pos]; exact ih.cons _
    · simp only [tdel, h, if_false]; exact ih.cons_cons _

theorem twf_tdel [DecidableEq α] (t : Tbl α) (d : α) (k : Nat) (h : twf t d = true) : twf (tdel t k) d = true := by
  rw [twf_iff] at h ⊢
  exact ⟨h.1.sublist (tdel_sublist t k), fun e he => h.2 e (tdel_mem t k e he).1⟩

theorem tins_mem (t : Tbl α) (k : Nat) (v : α) : ∀ e ∈ tins t k v, e = (k, v) ∨ e ∈ t := by
  induction t with
  | nil => simp [tins]
  | cons a r ih =>
    obtain ⟨j, w⟩ := a
    by_cases h : k < j
    · simp [tins, h]
    · simp only [tins, h, if_false, List.mem_cons]
      rintro e (rfl | he)
      · exact .inr (.inl rfl)
      · rcases ih e he with he | he
        · exact .inl he
        · exact .inr (.inr he)

theorem tins_rising (t : Tbl α) (k : Nat) (v : α) (hp : t.Pairwise (fun a b => a.1 < b.1)) (hk : ∀ e ∈ t, e.1 ≠ k) :
    (tins t k v).Pairwise (fun a b => a.1 < b.1) := by
  induction t with
  | nil => simp [tins]
  | cons a r ih =>
    obtain ⟨j, w⟩ := a
    by_cases h : k < j
    · simp only [tins, h, if_pos]
      refine List.Pairwise.cons ?_ hp
      intro e he
      rcases List.mem_cons.1 he with rfl | he
      · exact h
      · exact Nat.lt_trans h (List.rel_of_pairwise_cons hp he)
    · simp only [tins, h, if_false]
      have hj : j < k := Nat.lt_of_le_of_ne (Nat.not_lt.1 h) (hk (j, w) (by simp))
      refine List.Pairwise.cons ?_ (ih hp.tail (fun e he => hk e (List.mem_cons_of_mem _ he)))
      intro e he
      rcases tins_mem r k v e he with rfl | he
      · exact hj
      · exact List.rel_of_pairwise_cons hp he

/-- A write keeps the canonical form. -/
theorem twf_tset [DecidableEq α] (t : Tbl α) (k : Nat) (v d : α) (h : twf t d = true) : twf (tset t k v d) d = true := by
  by_cases hv : v = d
  · simpa [tset, hv] using twf_tdel t d k h
  · have hd := (twf_iff _ _).1 (twf_tdel t d k h)
    simp only [tset, hv, if_false]
    rw [twf_iff]
    refine ⟨tins_rising _ k v hd.1 (fun e he => (tdel_mem t k e he).2), ?_⟩
    intro e he
    rcases tins_mem _ k v e he with rfl | he
    · exact hv
    · exact hd.2 e he

end Sys2Proof.Machine
end

