-- ==== Sys2Proof/Laws/State.lean ====
section
/-! SUPPORT. What each update of a field of the state leaves alone, and what its own table reads after it. -/

namespace Sys2Proof.Machine

/-! ### setPort -/

@[simp] theorem State.setPort_pending (s : State) (l : Nat) (p : Port) : (s.setPort l p).pending = s.pending := rfl
@[simp] theorem State.setPort_freeCtr (s : State) (l : Nat) (p : Port) : (s.setPort l p).freeCtr = s.freeCtr := rfl
@[simp] theorem State.setPort_out (s : State) (l : Nat) (p : Port) : (s.setPort l p).out = s.out := rfl
@[simp] theorem State.setPort_fuse (s : State) (l : Nat) (p : Port) : (s.setPort l p).fuse = s.fuse := rfl
@[simp] theorem State.setPort_boot (s : State) (l : Nat) (p : Port) : (s.setPort l p).boot = s.boot := rfl
@[simp] theorem State.setPort_pw (s : State) (l : Nat) (p : Port) : (s.setPort l p).pw = s.pw := rfl
@[simp] theorem State.setPort_tb (s : State) (l : Nat) (p : Port) : (s.setPort l p).tb = s.tb := rfl
@[simp] theorem State.setPort_sec (s : State) (l : Nat) (p : Port) : (s.setPort l p).sec = s.sec := rfl
@[simp] theorem State.setPort_mod (s : State) (l : Nat) (p : Port) : (s.setPort l p).mod = s.mod := rfl
@[simp] theorem State.setPort_selfEid (s : State) (l : Nat) (p : Port) : (s.setPort l p).selfEid = s.selfEid := rfl
@[simp] theorem State.setPort_selfInc (s : State) (l : Nat) (p : Port) : (s.setPort l p).selfInc = s.selfInc := rfl
@[simp] theorem State.setPort_eidInc (s : State) (l : Nat) (p : Port) : (s.setPort l p).eidInc = s.eidInc := rfl
@[simp] theorem State.setPort_mgrs (s : State) (l : Nat) (p : Port) : (s.setPort l p).mgrs = s.mgrs := rfl
@[simp] theorem State.setPort_cage (s : State) (l : Nat) (p : Port) : (s.setPort l p).cage = s.cage := rfl
@[simp] theorem State.setPort_spray (s : State) (l : Nat) (p : Port) : (s.setPort l p).spray = s.spray := rfl
@[simp] theorem State.setPort_rsto (s : State) (l : Nat) (p : Port) : (s.setPort l p).rsto = s.rsto := rfl
@[simp] theorem State.setPort_qs (s : State) (l : Nat) (p : Port) : (s.setPort l p).qs = s.qs := rfl
@[simp] theorem State.setPort_trunks (s : State) (l : Nat) (p : Port) : (s.setPort l p).trunks = s.trunks := rfl
@[simp] theorem State.setPort_parts (s : State) (l : Nat) (p : Port) : (s.setPort l p).parts = s.parts := rfl
@[simp] theorem State.setPort_trays (s : State) (l : Nat) (p : Port) : (s.setPort l p).trays = s.trays := rfl
@[simp] theorem State.setPort_blks (s : State) (l : Nat) (p : Port) : (s.setPort l p).blks = s.blks := rfl
@[simp] theorem State.setPort_ctxs (s : State) (l : Nat) (p : Port) : (s.setPort l p).ctxs = s.ctxs := rfl
@[simp] theorem State.setPort_mem (s : State) (l : Nat) (p : Port) : (s.setPort l p).mem = s.mem := rfl
@[simp] theorem State.setPort_poison (s : State) (l : Nat) (p : Port) : (s.setPort l p).poison = s.poison := rfl
@[simp] theorem State.setPort_lost (s : State) (l : Nat) (p : Port) : (s.setPort l p).lost = s.lost := rfl
@[simp] theorem State.setPort_joins (s : State) (l : Nat) (p : Port) : (s.setPort l p).joins = s.joins := rfl
@[simp] theorem State.setPort_pteEvt (s : State) (l : Nat) (p : Port) : (s.setPort l p).pteEvt = s.pteEvt := rfl
@[simp] theorem State.setPort_joinNext (s : State) (l : Nat) (p : Port) : (s.setPort l p).joinNext = s.joinNext := rfl
@[simp] theorem State.setPort_sqOut (s : State) (l : Nat) (p : Port) : (s.setPort l p).sqOut = s.sqOut := rfl
@[simp] theorem State.setPort_winP (s : State) (l : Nat) (p : Port) : (s.setPort l p).winP = s.winP := rfl
@[simp] theorem State.setPort_winI (s : State) (l : Nat) (p : Port) : (s.setPort l p).winI = s.winI := rfl
@[simp] theorem State.setPort_ctlq (s : State) (l : Nat) (p : Port) : (s.setPort l p).ctlq = s.ctlq := rfl
@[simp] theorem State.setPort_calset (s : State) (l : Nat) (p : Port) : (s.setPort l p).calset = s.calset := rfl
@[simp] theorem State.setPort_flash (s : State) (l : Nat) (p : Port) : (s.setPort l p).flash = s.flash := rfl
@[simp] theorem State.setPort_flashOld (s : State) (l : Nat) (p : Port) : (s.setPort l p).flashOld = s.flashOld := rfl
@[simp] theorem State.setPort_save (s : State) (l : Nat) (p : Port) : (s.setPort l p).save = s.save := rfl
@[simp] theorem State.setPort_hdrop (s : State) (l : Nat) (p : Port) : (s.setPort l p).hdrop = s.hdrop := rfl

/-! ### updPort -/

@[simp] theorem State.updPort_pending (s : State) (l : Nat) (f : Port → Port) : (s.updPort l f).pending = s.pending := rfl
@[simp] theorem State.updPort_freeCtr (s : State) (l : Nat) (f : Port → Port) : (s.updPort l f).freeCtr = s.freeCtr := rfl
@[simp] theorem State.updPort_out (s : State) (l : Nat) (f : Port → Port) : (s.updPort l f).out = s.out := rfl
@[simp] theorem State.updPort_fuse (s : State) (l : Nat) (f : Port → Port) : (s.updPort l f).fuse = s.fuse := rfl
@[simp] theorem State.updPort_boot (s : State) (l : Nat) (f : Port → Port) : (s.updPort l f).boot = s.boot := rfl
@[simp] theorem State.updPort_pw (s : State) (l : Nat) (f : Port → Port) : (s.updPort l f).pw = s.pw := rfl
@[simp] theorem State.updPort_tb (s : State) (l : Nat) (f : Port → Port) : (s.updPort l f).tb = s.tb := rfl
@[simp] theorem State.updPort_sec (s : State) (l : Nat) (f : Port → Port) : (s.updPort l f).sec = s.sec := rfl
@[simp] theorem State.updPort_mod (s : State) (l : Nat) (f : Port → Port) : (s.updPort l f).mod = s.mod := rfl
@[simp] theorem State.updPort_selfEid (s : State) (l : Nat) (f : Port → Port) : (s.updPort l f).selfEid = s.selfEid := rfl
@[simp] theorem State.updPort_selfInc (s : State) (l : Nat) (f : Port → Port) : (s.updPort l f).selfInc = s.selfInc := rfl
@[simp] theorem State.updPort_eidInc (s : State) (l : Nat) (f : Port → Port) : (s.updPort l f).eidInc = s.eidInc := rfl
@[simp] theorem State.updPort_mgrs (s : State) (l : Nat) (f : Port → Port) : (s.updPort l f).mgrs = s.mgrs := rfl
@[simp] theorem State.updPort_cage (s : State) (l : Nat) (f : Port → Port) : (s.updPort l f).cage = s.cage := rfl
@[simp] theorem State.updPort_spray (s : State) (l : Nat) (f : Port → Port) : (s.updPort l f).spray = s.spray := rfl
@[simp] theorem State.updPort_rsto (s : State) (l : Nat) (f : Port → Port) : (s.updPort l f).rsto = s.rsto := rfl
@[simp] theorem State.updPort_qs (s : State) (l : Nat) (f : Port → Port) : (s.updPort l f).qs = s.qs := rfl
@[simp] theorem State.updPort_trunks (s : State) (l : Nat) (f : Port → Port) : (s.updPort l f).trunks = s.trunks := rfl
@[simp] theorem State.updPort_parts (s : State) (l : Nat) (f : Port → Port) : (s.updPort l f).parts = s.parts := rfl
@[simp] theorem State.updPort_trays (s : State) (l : Nat) (f : Port → Port) : (s.updPort l f).trays = s.trays := rfl
@[simp] theorem State.updPort_blks (s : State) (l : Nat) (f : Port → Port) : (s.updPort l f).blks = s.blks := rfl
@[simp] theorem State.updPort_ctxs (s : State) (l : Nat) (f : Port → Port) : (s.updPort l f).ctxs = s.ctxs := rfl
@[simp] theorem State.updPort_mem (s : State) (l : Nat) (f : Port → Port) : (s.updPort l f).mem = s.mem := rfl
@[simp] theorem State.updPort_poison (s : State) (l : Nat) (f : Port → Port) : (s.updPort l f).poison = s.poison := rfl
@[simp] theorem State.updPort_lost (s : State) (l : Nat) (f : Port → Port) : (s.updPort l f).lost = s.lost := rfl
@[simp] theorem State.updPort_joins (s : State) (l : Nat) (f : Port → Port) : (s.updPort l f).joins = s.joins := rfl
@[simp] theorem State.updPort_pteEvt (s : State) (l : Nat) (f : Port → Port) : (s.updPort l f).pteEvt = s.pteEvt := rfl
@[simp] theorem State.updPort_joinNext (s : State) (l : Nat) (f : Port → Port) : (s.updPort l f).joinNext = s.joinNext := rfl
@[simp] theorem State.updPort_sqOut (s : State) (l : Nat) (f : Port → Port) : (s.updPort l f).sqOut = s.sqOut := rfl
@[simp] theorem State.updPort_winP (s : State) (l : Nat) (f : Port → Port) : (s.updPort l f).winP = s.winP := rfl
@[simp] theorem State.updPort_winI (s : State) (l : Nat) (f : Port → Port) : (s.updPort l f).winI = s.winI := rfl
@[simp] theorem State.updPort_ctlq (s : State) (l : Nat) (f : Port → Port) : (s.updPort l f).ctlq = s.ctlq := rfl
@[simp] theorem State.updPort_calset (s : State) (l : Nat) (f : Port → Port) : (s.updPort l f).calset = s.calset := rfl
@[simp] theorem State.updPort_flash (s : State) (l : Nat) (f : Port → Port) : (s.updPort l f).flash = s.flash := rfl
@[simp] theorem State.updPort_flashOld (s : State) (l : Nat) (f : Port → Port) : (s.updPort l f).flashOld = s.flashOld := rfl
@[simp] theorem State.updPort_save (s : State) (l : Nat) (f : Port → Port) : (s.updPort l f).save = s.save := rfl
@[simp] theorem State.updPort_hdrop (s : State) (l : Nat) (f : Port → Port) : (s.updPort l f).hdrop = s.hdrop := rfl

/-! ### setQtr -/

@[simp] theorem State.setQtr_pending (s : State) (q : Nat) (x : Quarter) : (s.setQtr q x).pending = s.pending := rfl
@[simp] theorem State.setQtr_freeCtr (s : State) (q : Nat) (x : Quarter) : (s.setQtr q x).freeCtr = s.freeCtr := rfl
@[simp] theorem State.setQtr_out (s : State) (q : Nat) (x : Quarter) : (s.setQtr q x).out = s.out := rfl
@[simp] theorem State.setQtr_fuse (s : State) (q : Nat) (x : Quarter) : (s.setQtr q x).fuse = s.fuse := rfl
@[simp] theorem State.setQtr_boot (s : State) (q : Nat) (x : Quarter) : (s.setQtr q x).boot = s.boot := rfl
@[simp] theorem State.setQtr_pw (s : State) (q : Nat) (x : Quarter) : (s.setQtr q x).pw = s.pw := rfl
@[simp] theorem State.setQtr_tb (s : State) (q : Nat) (x : Quarter) : (s.setQtr q x).tb = s.tb := rfl
@[simp] theorem State.setQtr_sec (s : State) (q : Nat) (x : Quarter) : (s.setQtr q x).sec = s.sec := rfl
@[simp] theorem State.setQtr_mod (s : State) (q : Nat) (x : Quarter) : (s.setQtr q x).mod = s.mod := rfl
@[simp] theorem State.setQtr_selfEid (s : State) (q : Nat) (x : Quarter) : (s.setQtr q x).selfEid = s.selfEid := rfl
@[simp] theorem State.setQtr_selfInc (s : State) (q : Nat) (x : Quarter) : (s.setQtr q x).selfInc = s.selfInc := rfl
@[simp] theorem State.setQtr_eidInc (s : State) (q : Nat) (x : Quarter) : (s.setQtr q x).eidInc = s.eidInc := rfl
@[simp] theorem State.setQtr_mgrs (s : State) (q : Nat) (x : Quarter) : (s.setQtr q x).mgrs = s.mgrs := rfl
@[simp] theorem State.setQtr_ports (s : State) (q : Nat) (x : Quarter) : (s.setQtr q x).ports = s.ports := rfl
@[simp] theorem State.setQtr_cage (s : State) (q : Nat) (x : Quarter) : (s.setQtr q x).cage = s.cage := rfl
@[simp] theorem State.setQtr_spray (s : State) (q : Nat) (x : Quarter) : (s.setQtr q x).spray = s.spray := rfl
@[simp] theorem State.setQtr_rsto (s : State) (q : Nat) (x : Quarter) : (s.setQtr q x).rsto = s.rsto := rfl
@[simp] theorem State.setQtr_trunks (s : State) (q : Nat) (x : Quarter) : (s.setQtr q x).trunks = s.trunks := rfl
@[simp] theorem State.setQtr_parts (s : State) (q : Nat) (x : Quarter) : (s.setQtr q x).parts = s.parts := rfl
@[simp] theorem State.setQtr_trays (s : State) (q : Nat) (x : Quarter) : (s.setQtr q x).trays = s.trays := rfl
@[simp] theorem State.setQtr_blks (s : State) (q : Nat) (x : Quarter) : (s.setQtr q x).blks = s.blks := rfl
@[simp] theorem State.setQtr_ctxs (s : State) (q : Nat) (x : Quarter) : (s.setQtr q x).ctxs = s.ctxs := rfl
@[simp] theorem State.setQtr_mem (s : State) (q : Nat) (x : Quarter) : (s.setQtr q x).mem = s.mem := rfl
@[simp] theorem State.setQtr_poison (s : State) (q : Nat) (x : Quarter) : (s.setQtr q x).poison = s.poison := rfl
@[simp] theorem State.setQtr_lost (s : State) (q : Nat) (x : Quarter) : (s.setQtr q x).lost = s.lost := rfl
@[simp] theorem State.setQtr_joins (s : State) (q : Nat) (x : Quarter) : (s.setQtr q x).joins = s.joins := rfl
@[simp] theorem State.setQtr_pteEvt (s : State) (q : Nat) (x : Quarter) : (s.setQtr q x).pteEvt = s.pteEvt := rfl
@[simp] theorem State.setQtr_joinNext (s : State) (q : Nat) (x : Quarter) : (s.setQtr q x).joinNext = s.joinNext := rfl
@[simp] theorem State.setQtr_sqOut (s : State) (q : Nat) (x : Quarter) : (s.setQtr q x).sqOut = s.sqOut := rfl
@[simp] theorem State.setQtr_winP (s : State) (q : Nat) (x : Quarter) : (s.setQtr q x).winP = s.winP := rfl
@[simp] theorem State.setQtr_winI (s : State) (q : Nat) (x : Quarter) : (s.setQtr q x).winI = s.winI := rfl
@[simp] theorem State.setQtr_ctlq (s : State) (q : Nat) (x : Quarter) : (s.setQtr q x).ctlq = s.ctlq := rfl
@[simp] theorem State.setQtr_calset (s : State) (q : Nat) (x : Quarter) : (s.setQtr q x).calset = s.calset := rfl
@[simp] theorem State.setQtr_flash (s : State) (q : Nat) (x : Quarter) : (s.setQtr q x).flash = s.flash := rfl
@[simp] theorem State.setQtr_flashOld (s : State) (q : Nat) (x : Quarter) : (s.setQtr q x).flashOld = s.flashOld := rfl
@[simp] theorem State.setQtr_save (s : State) (q : Nat) (x : Quarter) : (s.setQtr q x).save = s.save := rfl
@[simp] theorem State.setQtr_hdrop (s : State) (q : Nat) (x : Quarter) : (s.setQtr q x).hdrop = s.hdrop := rfl

/-! ### updQtr -/

@[simp] theorem State.updQtr_pending (s : State) (q : Nat) (f : Quarter → Quarter) : (s.updQtr q f).pending = s.pending := rfl
@[simp] theorem State.updQtr_freeCtr (s : State) (q : Nat) (f : Quarter → Quarter) : (s.updQtr q f).freeCtr = s.freeCtr := rfl
@[simp] theorem State.updQtr_out (s : State) (q : Nat) (f : Quarter → Quarter) : (s.updQtr q f).out = s.out := rfl
@[simp] theorem State.updQtr_fuse (s : State) (q : Nat) (f : Quarter → Quarter) : (s.updQtr q f).fuse = s.fuse := rfl
@[simp] theorem State.updQtr_boot (s : State) (q : Nat) (f : Quarter → Quarter) : (s.updQtr q f).boot = s.boot := rfl
@[simp] theorem State.updQtr_pw (s : State) (q : Nat) (f : Quarter → Quarter) : (s.updQtr q f).pw = s.pw := rfl
@[simp] theorem State.updQtr_tb (s : State) (q : Nat) (f : Quarter → Quarter) : (s.updQtr q f).tb = s.tb := rfl
@[simp] theorem State.updQtr_sec (s : State) (q : Nat) (f : Quarter → Quarter) : (s.updQtr q f).sec = s.sec := rfl
@[simp] theorem State.updQtr_mod (s : State) (q : Nat) (f : Quarter → Quarter) : (s.updQtr q f).mod = s.mod := rfl
@[simp] theorem State.updQtr_selfEid (s : State) (q : Nat) (f : Quarter → Quarter) : (s.updQtr q f).selfEid = s.selfEid := rfl
@[simp] theorem State.updQtr_selfInc (s : State) (q : Nat) (f : Quarter → Quarter) : (s.updQtr q f).selfInc = s.selfInc := rfl
@[simp] theorem State.updQtr_eidInc (s : State) (q : Nat) (f : Quarter → Quarter) : (s.updQtr q f).eidInc = s.eidInc := rfl
@[simp] theorem State.updQtr_mgrs (s : State) (q : Nat) (f : Quarter → Quarter) : (s.updQtr q f).mgrs = s.mgrs := rfl
@[simp] theorem State.updQtr_ports (s : State) (q : Nat) (f : Quarter → Quarter) : (s.updQtr q f).ports = s.ports := rfl
@[simp] theorem State.updQtr_cage (s : State) (q : Nat) (f : Quarter → Quarter) : (s.updQtr q f).cage = s.cage := rfl
@[simp] theorem State.updQtr_spray (s : State) (q : Nat) (f : Quarter → Quarter) : (s.updQtr q f).spray = s.spray := rfl
@[simp] theorem State.updQtr_rsto (s : State) (q : Nat) (f : Quarter → Quarter) : (s.updQtr q f).rsto = s.rsto := rfl
@[simp] theorem State.updQtr_trunks (s : State) (q : Nat) (f : Quarter → Quarter) : (s.updQtr q f).trunks = s.trunks := rfl
@[simp] theorem State.updQtr_parts (s : State) (q : Nat) (f : Quarter → Quarter) : (s.updQtr q f).parts = s.parts := rfl
@[simp] theorem State.updQtr_trays (s : State) (q : Nat) (f : Quarter → Quarter) : (s.updQtr q f).trays = s.trays := rfl
@[simp] theorem State.updQtr_blks (s : State) (q : Nat) (f : Quarter → Quarter) : (s.updQtr q f).blks = s.blks := rfl
@[simp] theorem State.updQtr_ctxs (s : State) (q : Nat) (f : Quarter → Quarter) : (s.updQtr q f).ctxs = s.ctxs := rfl
@[simp] theorem State.updQtr_mem (s : State) (q : Nat) (f : Quarter → Quarter) : (s.updQtr q f).mem = s.mem := rfl
@[simp] theorem State.updQtr_poison (s : State) (q : Nat) (f : Quarter → Quarter) : (s.updQtr q f).poison = s.poison := rfl
@[simp] theorem State.updQtr_lost (s : State) (q : Nat) (f : Quarter → Quarter) : (s.updQtr q f).lost = s.lost := rfl
@[simp] theorem State.updQtr_joins (s : State) (q : Nat) (f : Quarter → Quarter) : (s.updQtr q f).joins = s.joins := rfl
@[simp] theorem State.updQtr_pteEvt (s : State) (q : Nat) (f : Quarter → Quarter) : (s.updQtr q f).pteEvt = s.pteEvt := rfl
@[simp] theorem State.updQtr_joinNext (s : State) (q : Nat) (f : Quarter → Quarter) : (s.updQtr q f).joinNext = s.joinNext := rfl
@[simp] theorem State.updQtr_sqOut (s : State) (q : Nat) (f : Quarter → Quarter) : (s.updQtr q f).sqOut = s.sqOut := rfl
@[simp] theorem State.updQtr_winP (s : State) (q : Nat) (f : Quarter → Quarter) : (s.updQtr q f).winP = s.winP := rfl
@[simp] theorem State.updQtr_winI (s : State) (q : Nat) (f : Quarter → Quarter) : (s.updQtr q f).winI = s.winI := rfl
@[simp] theorem State.updQtr_ctlq (s : State) (q : Nat) (f : Quarter → Quarter) : (s.updQtr q f).ctlq = s.ctlq := rfl
@[simp] theorem State.updQtr_calset (s : State) (q : Nat) (f : Quarter → Quarter) : (s.updQtr q f).calset = s.calset := rfl
@[simp] theorem State.updQtr_flash (s : State) (q : Nat) (f : Quarter → Quarter) : (s.updQtr q f).flash = s.flash := rfl
@[simp] theorem State.updQtr_flashOld (s : State) (q : Nat) (f : Quarter → Quarter) : (s.updQtr q f).flashOld = s.flashOld := rfl
@[simp] theorem State.updQtr_save (s : State) (q : Nat) (f : Quarter → Quarter) : (s.updQtr q f).save = s.save := rfl
@[simp] theorem State.updQtr_hdrop (s : State) (q : Nat) (f : Quarter → Quarter) : (s.updQtr q f).hdrop = s.hdrop := rfl

/-! ### updQueue -/

@[simp] theorem State.updQueue_pending (s : State) (q n : Nat) (f : Queue → Queue) : (s.updQueue q n f).pending = s.pending := rfl
@[simp] theorem State.updQueue_freeCtr (s : State) (q n : Nat) (f : Queue → Queue) : (s.updQueue q n f).freeCtr = s.freeCtr := rfl
@[simp] theorem State.updQueue_out (s : State) (q n : Nat) (f : Queue → Queue) : (s.updQueue q n f).out = s.out := rfl
@[simp] theorem State.updQueue_fuse (s : State) (q n : Nat) (f : Queue → Queue) : (s.updQueue q n f).fuse = s.fuse := rfl
@[simp] theorem State.updQueue_boot (s : State) (q n : Nat) (f : Queue → Queue) : (s.updQueue q n f).boot = s.boot := rfl
@[simp] theorem State.updQueue_pw (s : State) (q n : Nat) (f : Queue → Queue) : (s.updQueue q n f).pw = s.pw := rfl
@[simp] theorem State.updQueue_tb (s : State) (q n : Nat) (f : Queue → Queue) : (s.updQueue q n f).tb = s.tb := rfl
@[simp] theorem State.updQueue_sec (s : State) (q n : Nat) (f : Queue → Queue) : (s.updQueue q n f).sec = s.sec := rfl
@[simp] theorem State.updQueue_mod (s : State) (q n : Nat) (f : Queue → Queue) : (s.updQueue q n f).mod = s.mod := rfl
@[simp] theorem State.updQueue_selfEid (s : State) (q n : Nat) (f : Queue → Queue) : (s.updQueue q n f).selfEid = s.selfEid := rfl
@[simp] theorem State.updQueue_selfInc (s : State) (q n : Nat) (f : Queue → Queue) : (s.updQueue q n f).selfInc = s.selfInc := rfl
@[simp] theorem State.updQueue_eidInc (s : State) (q n : Nat) (f : Queue → Queue) : (s.updQueue q n f).eidInc = s.eidInc := rfl
@[simp] theorem State.updQueue_mgrs (s : State) (q n : Nat) (f : Queue → Queue) : (s.updQueue q n f).mgrs = s.mgrs := rfl
@[simp] theorem State.updQueue_ports (s : State) (q n : Nat) (f : Queue → Queue) : (s.updQueue q n f).ports = s.ports := rfl
@[simp] theorem State.updQueue_cage (s : State) (q n : Nat) (f : Queue → Queue) : (s.updQueue q n f).cage = s.cage := rfl
@[simp] theorem State.updQueue_spray (s : State) (q n : Nat) (f : Queue → Queue) : (s.updQueue q n f).spray = s.spray := rfl
@[simp] theorem State.updQueue_rsto (s : State) (q n : Nat) (f : Queue → Queue) : (s.updQueue q n f).rsto = s.rsto := rfl
@[simp] theorem State.updQueue_trunks (s : State) (q n : Nat) (f : Queue → Queue) : (s.updQueue q n f).trunks = s.trunks := rfl
@[simp] theorem State.updQueue_parts (s : State) (q n : Nat) (f : Queue → Queue) : (s.updQueue q n f).parts = s.parts := rfl
@[simp] theorem State.updQueue_trays (s : State) (q n : Nat) (f : Queue → Queue) : (s.updQueue q n f).trays = s.trays := rfl
@[simp] theorem State.updQueue_blks (s : State) (q n : Nat) (f : Queue → Queue) : (s.updQueue q n f).blks = s.blks := rfl
@[simp] theorem State.updQueue_ctxs (s : State) (q n : Nat) (f : Queue → Queue) : (s.updQueue q n f).ctxs = s.ctxs := rfl
@[simp] theorem State.updQueue_mem (s : State) (q n : Nat) (f : Queue → Queue) : (s.updQueue q n f).mem = s.mem := rfl
@[simp] theorem State.updQueue_poison (s : State) (q n : Nat) (f : Queue → Queue) : (s.updQueue q n f).poison = s.poison := rfl
@[simp] theorem State.updQueue_lost (s : State) (q n : Nat) (f : Queue → Queue) : (s.updQueue q n f).lost = s.lost := rfl
@[simp] theorem State.updQueue_joins (s : State) (q n : Nat) (f : Queue → Queue) : (s.updQueue q n f).joins = s.joins := rfl
@[simp] theorem State.updQueue_pteEvt (s : State) (q n : Nat) (f : Queue → Queue) : (s.updQueue q n f).pteEvt = s.pteEvt := rfl
@[simp] theorem State.updQueue_joinNext (s : State) (q n : Nat) (f : Queue → Queue) : (s.updQueue q n f).joinNext = s.joinNext := rfl
@[simp] theorem State.updQueue_sqOut (s : State) (q n : Nat) (f : Queue → Queue) : (s.updQueue q n f).sqOut = s.sqOut := rfl
@[simp] theorem State.updQueue_winP (s : State) (q n : Nat) (f : Queue → Queue) : (s.updQueue q n f).winP = s.winP := rfl
@[simp] theorem State.updQueue_winI (s : State) (q n : Nat) (f : Queue → Queue) : (s.updQueue q n f).winI = s.winI := rfl
@[simp] theorem State.updQueue_ctlq (s : State) (q n : Nat) (f : Queue → Queue) : (s.updQueue q n f).ctlq = s.ctlq := rfl
@[simp] theorem State.updQueue_calset (s : State) (q n : Nat) (f : Queue → Queue) : (s.updQueue q n f).calset = s.calset := rfl
@[simp] theorem State.updQueue_flash (s : State) (q n : Nat) (f : Queue → Queue) : (s.updQueue q n f).flash = s.flash := rfl
@[simp] theorem State.updQueue_flashOld (s : State) (q n : Nat) (f : Queue → Queue) : (s.updQueue q n f).flashOld = s.flashOld := rfl
@[simp] theorem State.updQueue_save (s : State) (q n : Nat) (f : Queue → Queue) : (s.updQueue q n f).save = s.save := rfl
@[simp] theorem State.updQueue_hdrop (s : State) (q n : Nat) (f : Queue → Queue) : (s.updQueue q n f).hdrop = s.hdrop := rfl

/-! ### setTrunk -/

@[simp] theorem State.setTrunk_pending (s : State) (t : Nat) (x : Trunk) : (s.setTrunk t x).pending = s.pending := rfl
@[simp] theorem State.setTrunk_freeCtr (s : State) (t : Nat) (x : Trunk) : (s.setTrunk t x).freeCtr = s.freeCtr := rfl
@[simp] theorem State.setTrunk_out (s : State) (t : Nat) (x : Trunk) : (s.setTrunk t x).out = s.out := rfl
@[simp] theorem State.setTrunk_fuse (s : State) (t : Nat) (x : Trunk) : (s.setTrunk t x).fuse = s.fuse := rfl
@[simp] theorem State.setTrunk_boot (s : State) (t : Nat) (x : Trunk) : (s.setTrunk t x).boot = s.boot := rfl
@[simp] theorem State.setTrunk_pw (s : State) (t : Nat) (x : Trunk) : (s.setTrunk t x).pw = s.pw := rfl
@[simp] theorem State.setTrunk_tb (s : State) (t : Nat) (x : Trunk) : (s.setTrunk t x).tb = s.tb := rfl
@[simp] theorem State.setTrunk_sec (s : State) (t : Nat) (x : Trunk) : (s.setTrunk t x).sec = s.sec := rfl
@[simp] theorem State.setTrunk_mod (s : State) (t : Nat) (x : Trunk) : (s.setTrunk t x).mod = s.mod := rfl
@[simp] theorem State.setTrunk_selfEid (s : State) (t : Nat) (x : Trunk) : (s.setTrunk t x).selfEid = s.selfEid := rfl
@[simp] theorem State.setTrunk_selfInc (s : State) (t : Nat) (x : Trunk) : (s.setTrunk t x).selfInc = s.selfInc := rfl
@[simp] theorem State.setTrunk_eidInc (s : State) (t : Nat) (x : Trunk) : (s.setTrunk t x).eidInc = s.eidInc := rfl
@[simp] theorem State.setTrunk_mgrs (s : State) (t : Nat) (x : Trunk) : (s.setTrunk t x).mgrs = s.mgrs := rfl
@[simp] theorem State.setTrunk_ports (s : State) (t : Nat) (x : Trunk) : (s.setTrunk t x).ports = s.ports := rfl
@[simp] theorem State.setTrunk_cage (s : State) (t : Nat) (x : Trunk) : (s.setTrunk t x).cage = s.cage := rfl
@[simp] theorem State.setTrunk_spray (s : State) (t : Nat) (x : Trunk) : (s.setTrunk t x).spray = s.spray := rfl
@[simp] theorem State.setTrunk_rsto (s : State) (t : Nat) (x : Trunk) : (s.setTrunk t x).rsto = s.rsto := rfl
@[simp] theorem State.setTrunk_qs (s : State) (t : Nat) (x : Trunk) : (s.setTrunk t x).qs = s.qs := rfl
@[simp] theorem State.setTrunk_parts (s : State) (t : Nat) (x : Trunk) : (s.setTrunk t x).parts = s.parts := rfl
@[simp] theorem State.setTrunk_trays (s : State) (t : Nat) (x : Trunk) : (s.setTrunk t x).trays = s.trays := rfl
@[simp] theorem State.setTrunk_blks (s : State) (t : Nat) (x : Trunk) : (s.setTrunk t x).blks = s.blks := rfl
@[simp] theorem State.setTrunk_ctxs (s : State) (t : Nat) (x : Trunk) : (s.setTrunk t x).ctxs = s.ctxs := rfl
@[simp] theorem State.setTrunk_mem (s : State) (t : Nat) (x : Trunk) : (s.setTrunk t x).mem = s.mem := rfl
@[simp] theorem State.setTrunk_poison (s : State) (t : Nat) (x : Trunk) : (s.setTrunk t x).poison = s.poison := rfl
@[simp] theorem State.setTrunk_lost (s : State) (t : Nat) (x : Trunk) : (s.setTrunk t x).lost = s.lost := rfl
@[simp] theorem State.setTrunk_joins (s : State) (t : Nat) (x : Trunk) : (s.setTrunk t x).joins = s.joins := rfl
@[simp] theorem State.setTrunk_pteEvt (s : State) (t : Nat) (x : Trunk) : (s.setTrunk t x).pteEvt = s.pteEvt := rfl
@[simp] theorem State.setTrunk_joinNext (s : State) (t : Nat) (x : Trunk) : (s.setTrunk t x).joinNext = s.joinNext := rfl
@[simp] theorem State.setTrunk_sqOut (s : State) (t : Nat) (x : Trunk) : (s.setTrunk t x).sqOut = s.sqOut := rfl
@[simp] theorem State.setTrunk_winP (s : State) (t : Nat) (x : Trunk) : (s.setTrunk t x).winP = s.winP := rfl
@[simp] theorem State.setTrunk_winI (s : State) (t : Nat) (x : Trunk) : (s.setTrunk t x).winI = s.winI := rfl
@[simp] theorem State.setTrunk_ctlq (s : State) (t : Nat) (x : Trunk) : (s.setTrunk t x).ctlq = s.ctlq := rfl
@[simp] theorem State.setTrunk_calset (s : State) (t : Nat) (x : Trunk) : (s.setTrunk t x).calset = s.calset := rfl
@[simp] theorem State.setTrunk_flash (s : State) (t : Nat) (x : Trunk) : (s.setTrunk t x).flash = s.flash := rfl
@[simp] theorem State.setTrunk_flashOld (s : State) (t : Nat) (x : Trunk) : (s.setTrunk t x).flashOld = s.flashOld := rfl
@[simp] theorem State.setTrunk_save (s : State) (t : Nat) (x : Trunk) : (s.setTrunk t x).save = s.save := rfl
@[simp] theorem State.setTrunk_hdrop (s : State) (t : Nat) (x : Trunk) : (s.setTrunk t x).hdrop = s.hdrop := rfl

/-! ### updTrunk -/

@[simp] theorem State.updTrunk_pending (s : State) (t : Nat) (f : Trunk → Trunk) : (s.updTrunk t f).pending = s.pending := rfl
@[simp] theorem State.updTrunk_freeCtr (s : State) (t : Nat) (f : Trunk → Trunk) : (s.updTrunk t f).freeCtr = s.freeCtr := rfl
@[simp] theorem State.updTrunk_out (s : State) (t : Nat) (f : Trunk → Trunk) : (s.updTrunk t f).out = s.out := rfl
@[simp] theorem State.updTrunk_fuse (s : State) (t : Nat) (f : Trunk → Trunk) : (s.updTrunk t f).fuse = s.fuse := rfl
@[simp] theorem State.updTrunk_boot (s : State) (t : Nat) (f : Trunk → Trunk) : (s.updTrunk t f).boot = s.boot := rfl
@[simp] theorem State.updTrunk_pw (s : State) (t : Nat) (f : Trunk → Trunk) : (s.updTrunk t f).pw = s.pw := rfl
@[simp] theorem State.updTrunk_tb (s : State) (t : Nat) (f : Trunk → Trunk) : (s.updTrunk t f).tb = s.tb := rfl
@[simp] theorem State.updTrunk_sec (s : State) (t : Nat) (f : Trunk → Trunk) : (s.updTrunk t f).sec = s.sec := rfl
@[simp] theorem State.updTrunk_mod (s : State) (t : Nat) (f : Trunk → Trunk) : (s.updTrunk t f).mod = s.mod := rfl
@[simp] theorem State.updTrunk_selfEid (s : State) (t : Nat) (f : Trunk → Trunk) : (s.updTrunk t f).selfEid = s.selfEid := rfl
@[simp] theorem State.updTrunk_selfInc (s : State) (t : Nat) (f : Trunk → Trunk) : (s.updTrunk t f).selfInc = s.selfInc := rfl
@[simp] theorem State.updTrunk_eidInc (s : State) (t : Nat) (f : Trunk → Trunk) : (s.updTrunk t f).eidInc = s.eidInc := rfl
@[simp] theorem State.updTrunk_mgrs (s : State) (t : Nat) (f : Trunk → Trunk) : (s.updTrunk t f).mgrs = s.mgrs := rfl
@[simp] theorem State.updTrunk_ports (s : State) (t : Nat) (f : Trunk → Trunk) : (s.updTrunk t f).ports = s.ports := rfl
@[simp] theorem State.updTrunk_cage (s : State) (t : Nat) (f : Trunk → Trunk) : (s.updTrunk t f).cage = s.cage := rfl
@[simp] theorem State.updTrunk_spray (s : State) (t : Nat) (f : Trunk → Trunk) : (s.updTrunk t f).spray = s.spray := rfl
@[simp] theorem State.updTrunk_rsto (s : State) (t : Nat) (f : Trunk → Trunk) : (s.updTrunk t f).rsto = s.rsto := rfl
@[simp] theorem State.updTrunk_qs (s : State) (t : Nat) (f : Trunk → Trunk) : (s.updTrunk t f).qs = s.qs := rfl
@[simp] theorem State.updTrunk_parts (s : State) (t : Nat) (f : Trunk → Trunk) : (s.updTrunk t f).parts = s.parts := rfl
@[simp] theorem State.updTrunk_trays (s : State) (t : Nat) (f : Trunk → Trunk) : (s.updTrunk t f).trays = s.trays := rfl
@[simp] theorem State.updTrunk_blks (s : State) (t : Nat) (f : Trunk → Trunk) : (s.updTrunk t f).blks = s.blks := rfl
@[simp] theorem State.updTrunk_ctxs (s : State) (t : Nat) (f : Trunk → Trunk) : (s.updTrunk t f).ctxs = s.ctxs := rfl
@[simp] theorem State.updTrunk_mem (s : State) (t : Nat) (f : Trunk → Trunk) : (s.updTrunk t f).mem = s.mem := rfl
@[simp] theorem State.updTrunk_poison (s : State) (t : Nat) (f : Trunk → Trunk) : (s.updTrunk t f).poison = s.poison := rfl
@[simp] theorem State.updTrunk_lost (s : State) (t : Nat) (f : Trunk → Trunk) : (s.updTrunk t f).lost = s.lost := rfl
@[simp] theorem State.updTrunk_joins (s : State) (t : Nat) (f : Trunk → Trunk) : (s.updTrunk t f).joins = s.joins := rfl
@[simp] theorem State.updTrunk_pteEvt (s : State) (t : Nat) (f : Trunk → Trunk) : (s.updTrunk t f).pteEvt = s.pteEvt := rfl
@[simp] theorem State.updTrunk_joinNext (s : State) (t : Nat) (f : Trunk → Trunk) : (s.updTrunk t f).joinNext = s.joinNext := rfl
@[simp] theorem State.updTrunk_sqOut (s : State) (t : Nat) (f : Trunk → Trunk) : (s.updTrunk t f).sqOut = s.sqOut := rfl
@[simp] theorem State.updTrunk_winP (s : State) (t : Nat) (f : Trunk → Trunk) : (s.updTrunk t f).winP = s.winP := rfl
@[simp] theorem State.updTrunk_winI (s : State) (t : Nat) (f : Trunk → Trunk) : (s.updTrunk t f).winI = s.winI := rfl
@[simp] theorem State.updTrunk_ctlq (s : State) (t : Nat) (f : Trunk → Trunk) : (s.updTrunk t f).ctlq = s.ctlq := rfl
@[simp] theorem State.updTrunk_calset (s : State) (t : Nat) (f : Trunk → Trunk) : (s.updTrunk t f).calset = s.calset := rfl
@[simp] theorem State.updTrunk_flash (s : State) (t : Nat) (f : Trunk → Trunk) : (s.updTrunk t f).flash = s.flash := rfl
@[simp] theorem State.updTrunk_flashOld (s : State) (t : Nat) (f : Trunk → Trunk) : (s.updTrunk t f).flashOld = s.flashOld := rfl
@[simp] theorem State.updTrunk_save (s : State) (t : Nat) (f : Trunk → Trunk) : (s.updTrunk t f).save = s.save := rfl
@[simp] theorem State.updTrunk_hdrop (s : State) (t : Nat) (f : Trunk → Trunk) : (s.updTrunk t f).hdrop = s.hdrop := rfl

/-! ### setPart -/

@[simp] theorem State.setPart_pending (s : State) (p : Nat) (x : Part) : (s.setPart p x).pending = s.pending := rfl
@[simp] theorem State.setPart_freeCtr (s : State) (p : Nat) (x : Part) : (s.setPart p x).freeCtr = s.freeCtr := rfl
@[simp] theorem State.setPart_out (s : State) (p : Nat) (x : Part) : (s.setPart p x).out = s.out := rfl
@[simp] theorem State.setPart_fuse (s : State) (p : Nat) (x : Part) : (s.setPart p x).fuse = s.fuse := rfl
@[simp] theorem State.setPart_boot (s : State) (p : Nat) (x : Part) : (s.setPart p x).boot = s.boot := rfl
@[simp] theorem State.setPart_pw (s : State) (p : Nat) (x : Part) : (s.setPart p x).pw = s.pw := rfl
@[simp] theorem State.setPart_tb (s : State) (p : Nat) (x : Part) : (s.setPart p x).tb = s.tb := rfl
@[simp] theorem State.setPart_sec (s : State) (p : Nat) (x : Part) : (s.setPart p x).sec = s.sec := rfl
@[simp] theorem State.setPart_mod (s : State) (p : Nat) (x : Part) : (s.setPart p x).mod = s.mod := rfl
@[simp] theorem State.setPart_selfEid (s : State) (p : Nat) (x : Part) : (s.setPart p x).selfEid = s.selfEid := rfl
@[simp] theorem State.setPart_selfInc (s : State) (p : Nat) (x : Part) : (s.setPart p x).selfInc = s.selfInc := rfl
@[simp] theorem State.setPart_eidInc (s : State) (p : Nat) (x : Part) : (s.setPart p x).eidInc = s.eidInc := rfl
@[simp] theorem State.setPart_mgrs (s : State) (p : Nat) (x : Part) : (s.setPart p x).mgrs = s.mgrs := rfl
@[simp] theorem State.setPart_ports (s : State) (p : Nat) (x : Part) : (s.setPart p x).ports = s.ports := rfl
@[simp] theorem State.setPart_cage (s : State) (p : Nat) (x : Part) : (s.setPart p x).cage = s.cage := rfl
@[simp] theorem State.setPart_spray (s : State) (p : Nat) (x : Part) : (s.setPart p x).spray = s.spray := rfl
@[simp] theorem State.setPart_rsto (s : State) (p : Nat) (x : Part) : (s.setPart p x).rsto = s.rsto := rfl
@[simp] theorem State.setPart_qs (s : State) (p : Nat) (x : Part) : (s.setPart p x).qs = s.qs := rfl
@[simp] theorem State.setPart_trunks (s : State) (p : Nat) (x : Part) : (s.setPart p x).trunks = s.trunks := rfl
@[simp] theorem State.setPart_trays (s : State) (p : Nat) (x : Part) : (s.setPart p x).trays = s.trays := rfl
@[simp] theorem State.setPart_blks (s : State) (p : Nat) (x : Part) : (s.setPart p x).blks = s.blks := rfl
@[simp] theorem State.setPart_ctxs (s : State) (p : Nat) (x : Part) : (s.setPart p x).ctxs = s.ctxs := rfl
@[simp] theorem State.setPart_mem (s : State) (p : Nat) (x : Part) : (s.setPart p x).mem = s.mem := rfl
@[simp] theorem State.setPart_poison (s : State) (p : Nat) (x : Part) : (s.setPart p x).poison = s.poison := rfl
@[simp] theorem State.setPart_lost (s : State) (p : Nat) (x : Part) : (s.setPart p x).lost = s.lost := rfl
@[simp] theorem State.setPart_joins (s : State) (p : Nat) (x : Part) : (s.setPart p x).joins = s.joins := rfl
@[simp] theorem State.setPart_pteEvt (s : State) (p : Nat) (x : Part) : (s.setPart p x).pteEvt = s.pteEvt := rfl
@[simp] theorem State.setPart_joinNext (s : State) (p : Nat) (x : Part) : (s.setPart p x).joinNext = s.joinNext := rfl
@[simp] theorem State.setPart_sqOut (s : State) (p : Nat) (x : Part) : (s.setPart p x).sqOut = s.sqOut := rfl
@[simp] theorem State.setPart_winP (s : State) (p : Nat) (x : Part) : (s.setPart p x).winP = s.winP := rfl
@[simp] theorem State.setPart_winI (s : State) (p : Nat) (x : Part) : (s.setPart p x).winI = s.winI := rfl
@[simp] theorem State.setPart_ctlq (s : State) (p : Nat) (x : Part) : (s.setPart p x).ctlq = s.ctlq := rfl
@[simp] theorem State.setPart_calset (s : State) (p : Nat) (x : Part) : (s.setPart p x).calset = s.calset := rfl
@[simp] theorem State.setPart_flash (s : State) (p : Nat) (x : Part) : (s.setPart p x).flash = s.flash := rfl
@[simp] theorem State.setPart_flashOld (s : State) (p : Nat) (x : Part) : (s.setPart p x).flashOld = s.flashOld := rfl
@[simp] theorem State.setPart_save (s : State) (p : Nat) (x : Part) : (s.setPart p x).save = s.save := rfl
@[simp] theorem State.setPart_hdrop (s : State) (p : Nat) (x : Part) : (s.setPart p x).hdrop = s.hdrop := rfl

/-! ### updPart -/

@[simp] theorem State.updPart_pending (s : State) (p : Nat) (f : Part → Part) : (s.updPart p f).pending = s.pending := rfl
@[simp] theorem State.updPart_freeCtr (s : State) (p : Nat) (f : Part → Part) : (s.updPart p f).freeCtr = s.freeCtr := rfl
@[simp] theorem State.updPart_out (s : State) (p : Nat) (f : Part → Part) : (s.updPart p f).out = s.out := rfl
@[simp] theorem State.updPart_fuse (s : State) (p : Nat) (f : Part → Part) : (s.updPart p f).fuse = s.fuse := rfl
@[simp] theorem State.updPart_boot (s : State) (p : Nat) (f : Part → Part) : (s.updPart p f).boot = s.boot := rfl
@[simp] theorem State.updPart_pw (s : State) (p : Nat) (f : Part → Part) : (s.updPart p f).pw = s.pw := rfl
@[simp] theorem State.updPart_tb (s : State) (p : Nat) (f : Part → Part) : (s.updPart p f).tb = s.tb := rfl
@[simp] theorem State.updPart_sec (s : State) (p : Nat) (f : Part → Part) : (s.updPart p f).sec = s.sec := rfl
@[simp] theorem State.updPart_mod (s : State) (p : Nat) (f : Part → Part) : (s.updPart p f).mod = s.mod := rfl
@[simp] theorem State.updPart_selfEid (s : State) (p : Nat) (f : Part → Part) : (s.updPart p f).selfEid = s.selfEid := rfl
@[simp] theorem State.updPart_selfInc (s : State) (p : Nat) (f : Part → Part) : (s.updPart p f).selfInc = s.selfInc := rfl
@[simp] theorem State.updPart_eidInc (s : State) (p : Nat) (f : Part → Part) : (s.updPart p f).eidInc = s.eidInc := rfl
@[simp] theorem State.updPart_mgrs (s : State) (p : Nat) (f : Part → Part) : (s.updPart p f).mgrs = s.mgrs := rfl
@[simp] theorem State.updPart_ports (s : State) (p : Nat) (f : Part → Part) : (s.updPart p f).ports = s.ports := rfl
@[simp] theorem State.updPart_cage (s : State) (p : Nat) (f : Part → Part) : (s.updPart p f).cage = s.cage := rfl
@[simp] theorem State.updPart_spray (s : State) (p : Nat) (f : Part → Part) : (s.updPart p f).spray = s.spray := rfl
@[simp] theorem State.updPart_rsto (s : State) (p : Nat) (f : Part → Part) : (s.updPart p f).rsto = s.rsto := rfl
@[simp] theorem State.updPart_qs (s : State) (p : Nat) (f : Part → Part) : (s.updPart p f).qs = s.qs := rfl
@[simp] theorem State.updPart_trunks (s : State) (p : Nat) (f : Part → Part) : (s.updPart p f).trunks = s.trunks := rfl
@[simp] theorem State.updPart_trays (s : State) (p : Nat) (f : Part → Part) : (s.updPart p f).trays = s.trays := rfl
@[simp] theorem State.updPart_blks (s : State) (p : Nat) (f : Part → Part) : (s.updPart p f).blks = s.blks := rfl
@[simp] theorem State.updPart_ctxs (s : State) (p : Nat) (f : Part → Part) : (s.updPart p f).ctxs = s.ctxs := rfl
@[simp] theorem State.updPart_mem (s : State) (p : Nat) (f : Part → Part) : (s.updPart p f).mem = s.mem := rfl
@[simp] theorem State.updPart_poison (s : State) (p : Nat) (f : Part → Part) : (s.updPart p f).poison = s.poison := rfl
@[simp] theorem State.updPart_lost (s : State) (p : Nat) (f : Part → Part) : (s.updPart p f).lost = s.lost := rfl
@[simp] theorem State.updPart_joins (s : State) (p : Nat) (f : Part → Part) : (s.updPart p f).joins = s.joins := rfl
@[simp] theorem State.updPart_pteEvt (s : State) (p : Nat) (f : Part → Part) : (s.updPart p f).pteEvt = s.pteEvt := rfl
@[simp] theorem State.updPart_joinNext (s : State) (p : Nat) (f : Part → Part) : (s.updPart p f).joinNext = s.joinNext := rfl
@[simp] theorem State.updPart_sqOut (s : State) (p : Nat) (f : Part → Part) : (s.updPart p f).sqOut = s.sqOut := rfl
@[simp] theorem State.updPart_winP (s : State) (p : Nat) (f : Part → Part) : (s.updPart p f).winP = s.winP := rfl
@[simp] theorem State.updPart_winI (s : State) (p : Nat) (f : Part → Part) : (s.updPart p f).winI = s.winI := rfl
@[simp] theorem State.updPart_ctlq (s : State) (p : Nat) (f : Part → Part) : (s.updPart p f).ctlq = s.ctlq := rfl
@[simp] theorem State.updPart_calset (s : State) (p : Nat) (f : Part → Part) : (s.updPart p f).calset = s.calset := rfl
@[simp] theorem State.updPart_flash (s : State) (p : Nat) (f : Part → Part) : (s.updPart p f).flash = s.flash := rfl
@[simp] theorem State.updPart_flashOld (s : State) (p : Nat) (f : Part → Part) : (s.updPart p f).flashOld = s.flashOld := rfl
@[simp] theorem State.updPart_save (s : State) (p : Nat) (f : Part → Part) : (s.updPart p f).save = s.save := rfl
@[simp] theorem State.updPart_hdrop (s : State) (p : Nat) (f : Part → Part) : (s.updPart p f).hdrop = s.hdrop := rfl

/-! ### setTray -/

@[simp] theorem State.setTray_pending (s : State) (t : Nat) (x : Tray) : (s.setTray t x).pending = s.pending := rfl
@[simp] theorem State.setTray_freeCtr (s : State) (t : Nat) (x : Tray) : (s.setTray t x).freeCtr = s.freeCtr := rfl
@[simp] theorem State.setTray_out (s : State) (t : Nat) (x : Tray) : (s.setTray t x).out = s.out := rfl
@[simp] theorem State.setTray_fuse (s : State) (t : Nat) (x : Tray) : (s.setTray t x).fuse = s.fuse := rfl
@[simp] theorem State.setTray_boot (s : State) (t : Nat) (x : Tray) : (s.setTray t x).boot = s.boot := rfl
@[simp] theorem State.setTray_pw (s : State) (t : Nat) (x : Tray) : (s.setTray t x).pw = s.pw := rfl
@[simp] theorem State.setTray_tb (s : State) (t : Nat) (x : Tray) : (s.setTray t x).tb = s.tb := rfl
@[simp] theorem State.setTray_sec (s : State) (t : Nat) (x : Tray) : (s.setTray t x).sec = s.sec := rfl
@[simp] theorem State.setTray_mod (s : State) (t : Nat) (x : Tray) : (s.setTray t x).mod = s.mod := rfl
@[simp] theorem State.setTray_selfEid (s : State) (t : Nat) (x : Tray) : (s.setTray t x).selfEid = s.selfEid := rfl
@[simp] theorem State.setTray_selfInc (s : State) (t : Nat) (x : Tray) : (s.setTray t x).selfInc = s.selfInc := rfl
@[simp] theorem State.setTray_eidInc (s : State) (t : Nat) (x : Tray) : (s.setTray t x).eidInc = s.eidInc := rfl
@[simp] theorem State.setTray_mgrs (s : State) (t : Nat) (x : Tray) : (s.setTray t x).mgrs = s.mgrs := rfl
@[simp] theorem State.setTray_ports (s : State) (t : Nat) (x : Tray) : (s.setTray t x).ports = s.ports := rfl
@[simp] theorem State.setTray_cage (s : State) (t : Nat) (x : Tray) : (s.setTray t x).cage = s.cage := rfl
@[simp] theorem State.setTray_spray (s : State) (t : Nat) (x : Tray) : (s.setTray t x).spray = s.spray := rfl
@[simp] theorem State.setTray_rsto (s : State) (t : Nat) (x : Tray) : (s.setTray t x).rsto = s.rsto := rfl
@[simp] theorem State.setTray_qs (s : State) (t : Nat) (x : Tray) : (s.setTray t x).qs = s.qs := rfl
@[simp] theorem State.setTray_trunks (s : State) (t : Nat) (x : Tray) : (s.setTray t x).trunks = s.trunks := rfl
@[simp] theorem State.setTray_parts (s : State) (t : Nat) (x : Tray) : (s.setTray t x).parts = s.parts := rfl
@[simp] theorem State.setTray_blks (s : State) (t : Nat) (x : Tray) : (s.setTray t x).blks = s.blks := rfl
@[simp] theorem State.setTray_ctxs (s : State) (t : Nat) (x : Tray) : (s.setTray t x).ctxs = s.ctxs := rfl
@[simp] theorem State.setTray_mem (s : State) (t : Nat) (x : Tray) : (s.setTray t x).mem = s.mem := rfl
@[simp] theorem State.setTray_poison (s : State) (t : Nat) (x : Tray) : (s.setTray t x).poison = s.poison := rfl
@[simp] theorem State.setTray_lost (s : State) (t : Nat) (x : Tray) : (s.setTray t x).lost = s.lost := rfl
@[simp] theorem State.setTray_joins (s : State) (t : Nat) (x : Tray) : (s.setTray t x).joins = s.joins := rfl
@[simp] theorem State.setTray_pteEvt (s : State) (t : Nat) (x : Tray) : (s.setTray t x).pteEvt = s.pteEvt := rfl
@[simp] theorem State.setTray_joinNext (s : State) (t : Nat) (x : Tray) : (s.setTray t x).joinNext = s.joinNext := rfl
@[simp] theorem State.setTray_sqOut (s : State) (t : Nat) (x : Tray) : (s.setTray t x).sqOut = s.sqOut := rfl
@[simp] theorem State.setTray_winP (s : State) (t : Nat) (x : Tray) : (s.setTray t x).winP = s.winP := rfl
@[simp] theorem State.setTray_winI (s : State) (t : Nat) (x : Tray) : (s.setTray t x).winI = s.winI := rfl
@[simp] theorem State.setTray_ctlq (s : State) (t : Nat) (x : Tray) : (s.setTray t x).ctlq = s.ctlq := rfl
@[simp] theorem State.setTray_calset (s : State) (t : Nat) (x : Tray) : (s.setTray t x).calset = s.calset := rfl
@[simp] theorem State.setTray_flash (s : State) (t : Nat) (x : Tray) : (s.setTray t x).flash = s.flash := rfl
@[simp] theorem State.setTray_flashOld (s : State) (t : Nat) (x : Tray) : (s.setTray t x).flashOld = s.flashOld := rfl
@[simp] theorem State.setTray_save (s : State) (t : Nat) (x : Tray) : (s.setTray t x).save = s.save := rfl
@[simp] theorem State.setTray_hdrop (s : State) (t : Nat) (x : Tray) : (s.setTray t x).hdrop = s.hdrop := rfl

/-! ### updTray -/

@[simp] theorem State.updTray_pending (s : State) (t : Nat) (f : Tray → Tray) : (s.updTray t f).pending = s.pending := rfl
@[simp] theorem State.updTray_freeCtr (s : State) (t : Nat) (f : Tray → Tray) : (s.updTray t f).freeCtr = s.freeCtr := rfl
@[simp] theorem State.updTray_out (s : State) (t : Nat) (f : Tray → Tray) : (s.updTray t f).out = s.out := rfl
@[simp] theorem State.updTray_fuse (s : State) (t : Nat) (f : Tray → Tray) : (s.updTray t f).fuse = s.fuse := rfl
@[simp] theorem State.updTray_boot (s : State) (t : Nat) (f : Tray → Tray) : (s.updTray t f).boot = s.boot := rfl
@[simp] theorem State.updTray_pw (s : State) (t : Nat) (f : Tray → Tray) : (s.updTray t f).pw = s.pw := rfl
@[simp] theorem State.updTray_tb (s : State) (t : Nat) (f : Tray → Tray) : (s.updTray t f).tb = s.tb := rfl
@[simp] theorem State.updTray_sec (s : State) (t : Nat) (f : Tray → Tray) : (s.updTray t f).sec = s.sec := rfl
@[simp] theorem State.updTray_mod (s : State) (t : Nat) (f : Tray → Tray) : (s.updTray t f).mod = s.mod := rfl
@[simp] theorem State.updTray_selfEid (s : State) (t : Nat) (f : Tray → Tray) : (s.updTray t f).selfEid = s.selfEid := rfl
@[simp] theorem State.updTray_selfInc (s : State) (t : Nat) (f : Tray → Tray) : (s.updTray t f).selfInc = s.selfInc := rfl
@[simp] theorem State.updTray_eidInc (s : State) (t : Nat) (f : Tray → Tray) : (s.updTray t f).eidInc = s.eidInc := rfl
@[simp] theorem State.updTray_mgrs (s : State) (t : Nat) (f : Tray → Tray) : (s.updTray t f).mgrs = s.mgrs := rfl
@[simp] theorem State.updTray_ports (s : State) (t : Nat) (f : Tray → Tray) : (s.updTray t f).ports = s.ports := rfl
@[simp] theorem State.updTray_cage (s : State) (t : Nat) (f : Tray → Tray) : (s.updTray t f).cage = s.cage := rfl
@[simp] theorem State.updTray_spray (s : State) (t : Nat) (f : Tray → Tray) : (s.updTray t f).spray = s.spray := rfl
@[simp] theorem State.updTray_rsto (s : State) (t : Nat) (f : Tray → Tray) : (s.updTray t f).rsto = s.rsto := rfl
@[simp] theorem State.updTray_qs (s : State) (t : Nat) (f : Tray → Tray) : (s.updTray t f).qs = s.qs := rfl
@[simp] theorem State.updTray_trunks (s : State) (t : Nat) (f : Tray → Tray) : (s.updTray t f).trunks = s.trunks := rfl
@[simp] theorem State.updTray_parts (s : State) (t : Nat) (f : Tray → Tray) : (s.updTray t f).parts = s.parts := rfl
@[simp] theorem State.updTray_blks (s : State) (t : Nat) (f : Tray → Tray) : (s.updTray t f).blks = s.blks := rfl
@[simp] theorem State.updTray_ctxs (s : State) (t : Nat) (f : Tray → Tray) : (s.updTray t f).ctxs = s.ctxs := rfl
@[simp] theorem State.updTray_mem (s : State) (t : Nat) (f : Tray → Tray) : (s.updTray t f).mem = s.mem := rfl
@[simp] theorem State.updTray_poison (s : State) (t : Nat) (f : Tray → Tray) : (s.updTray t f).poison = s.poison := rfl
@[simp] theorem State.updTray_lost (s : State) (t : Nat) (f : Tray → Tray) : (s.updTray t f).lost = s.lost := rfl
@[simp] theorem State.updTray_joins (s : State) (t : Nat) (f : Tray → Tray) : (s.updTray t f).joins = s.joins := rfl
@[simp] theorem State.updTray_pteEvt (s : State) (t : Nat) (f : Tray → Tray) : (s.updTray t f).pteEvt = s.pteEvt := rfl
@[simp] theorem State.updTray_joinNext (s : State) (t : Nat) (f : Tray → Tray) : (s.updTray t f).joinNext = s.joinNext := rfl
@[simp] theorem State.updTray_sqOut (s : State) (t : Nat) (f : Tray → Tray) : (s.updTray t f).sqOut = s.sqOut := rfl
@[simp] theorem State.updTray_winP (s : State) (t : Nat) (f : Tray → Tray) : (s.updTray t f).winP = s.winP := rfl
@[simp] theorem State.updTray_winI (s : State) (t : Nat) (f : Tray → Tray) : (s.updTray t f).winI = s.winI := rfl
@[simp] theorem State.updTray_ctlq (s : State) (t : Nat) (f : Tray → Tray) : (s.updTray t f).ctlq = s.ctlq := rfl
@[simp] theorem State.updTray_calset (s : State) (t : Nat) (f : Tray → Tray) : (s.updTray t f).calset = s.calset := rfl
@[simp] theorem State.updTray_flash (s : State) (t : Nat) (f : Tray → Tray) : (s.updTray t f).flash = s.flash := rfl
@[simp] theorem State.updTray_flashOld (s : State) (t : Nat) (f : Tray → Tray) : (s.updTray t f).flashOld = s.flashOld := rfl
@[simp] theorem State.updTray_save (s : State) (t : Nat) (f : Tray → Tray) : (s.updTray t f).save = s.save := rfl
@[simp] theorem State.updTray_hdrop (s : State) (t : Nat) (f : Tray → Tray) : (s.updTray t f).hdrop = s.hdrop := rfl

/-! ### setBlk -/

@[simp] theorem State.setBlk_pending (s : State) (g : Nat) (x : Block) : (s.setBlk g x).pending = s.pending := rfl
@[simp] theorem State.setBlk_freeCtr (s : State) (g : Nat) (x : Block) : (s.setBlk g x).freeCtr = s.freeCtr := rfl
@[simp] theorem State.setBlk_out (s : State) (g : Nat) (x : Block) : (s.setBlk g x).out = s.out := rfl
@[simp] theorem State.setBlk_fuse (s : State) (g : Nat) (x : Block) : (s.setBlk g x).fuse = s.fuse := rfl
@[simp] theorem State.setBlk_boot (s : State) (g : Nat) (x : Block) : (s.setBlk g x).boot = s.boot := rfl
@[simp] theorem State.setBlk_pw (s : State) (g : Nat) (x : Block) : (s.setBlk g x).pw = s.pw := rfl
@[simp] theorem State.setBlk_tb (s : State) (g : Nat) (x : Block) : (s.setBlk g x).tb = s.tb := rfl
@[simp] theorem State.setBlk_sec (s : State) (g : Nat) (x : Block) : (s.setBlk g x).sec = s.sec := rfl
@[simp] theorem State.setBlk_mod (s : State) (g : Nat) (x : Block) : (s.setBlk g x).mod = s.mod := rfl
@[simp] theorem State.setBlk_selfEid (s : State) (g : Nat) (x : Block) : (s.setBlk g x).selfEid = s.selfEid := rfl
@[simp] theorem State.setBlk_selfInc (s : State) (g : Nat) (x : Block) : (s.setBlk g x).selfInc = s.selfInc := rfl
@[simp] theorem State.setBlk_eidInc (s : State) (g : Nat) (x : Block) : (s.setBlk g x).eidInc = s.eidInc := rfl
@[simp] theorem State.setBlk_mgrs (s : State) (g : Nat) (x : Block) : (s.setBlk g x).mgrs = s.mgrs := rfl
@[simp] theorem State.setBlk_ports (s : State) (g : Nat) (x : Block) : (s.setBlk g x).ports = s.ports := rfl
@[simp] theorem State.setBlk_cage (s : State) (g : Nat) (x : Block) : (s.setBlk g x).cage = s.cage := rfl
@[simp] theorem State.setBlk_spray (s : State) (g : Nat) (x : Block) : (s.setBlk g x).spray = s.spray := rfl
@[simp] theorem State.setBlk_rsto (s : State) (g : Nat) (x : Block) : (s.setBlk g x).rsto = s.rsto := rfl
@[simp] theorem State.setBlk_qs (s : State) (g : Nat) (x : Block) : (s.setBlk g x).qs = s.qs := rfl
@[simp] theorem State.setBlk_trunks (s : State) (g : Nat) (x : Block) : (s.setBlk g x).trunks = s.trunks := rfl
@[simp] theorem State.setBlk_parts (s : State) (g : Nat) (x : Block) : (s.setBlk g x).parts = s.parts := rfl
@[simp] theorem State.setBlk_trays (s : State) (g : Nat) (x : Block) : (s.setBlk g x).trays = s.trays := rfl
@[simp] theorem State.setBlk_ctxs (s : State) (g : Nat) (x : Block) : (s.setBlk g x).ctxs = s.ctxs := rfl
@[simp] theorem State.setBlk_mem (s : State) (g : Nat) (x : Block) : (s.setBlk g x).mem = s.mem := rfl
@[simp] theorem State.setBlk_poison (s : State) (g : Nat) (x : Block) : (s.setBlk g x).poison = s.poison := rfl
@[simp] theorem State.setBlk_lost (s : State) (g : Nat) (x : Block) : (s.setBlk g x).lost = s.lost := rfl
@[simp] theorem State.setBlk_joins (s : State) (g : Nat) (x : Block) : (s.setBlk g x).joins = s.joins := rfl
@[simp] theorem State.setBlk_pteEvt (s : State) (g : Nat) (x : Block) : (s.setBlk g x).pteEvt = s.pteEvt := rfl
@[simp] theorem State.setBlk_joinNext (s : State) (g : Nat) (x : Block) : (s.setBlk g x).joinNext = s.joinNext := rfl
@[simp] theorem State.setBlk_sqOut (s : State) (g : Nat) (x : Block) : (s.setBlk g x).sqOut = s.sqOut := rfl
@[simp] theorem State.setBlk_winP (s : State) (g : Nat) (x : Block) : (s.setBlk g x).winP = s.winP := rfl
@[simp] theorem State.setBlk_winI (s : State) (g : Nat) (x : Block) : (s.setBlk g x).winI = s.winI := rfl
@[simp] theorem State.setBlk_ctlq (s : State) (g : Nat) (x : Block) : (s.setBlk g x).ctlq = s.ctlq := rfl
@[simp] theorem State.setBlk_calset (s : State) (g : Nat) (x : Block) : (s.setBlk g x).calset = s.calset := rfl
@[simp] theorem State.setBlk_flash (s : State) (g : Nat) (x : Block) : (s.setBlk g x).flash = s.flash := rfl
@[simp] theorem State.setBlk_flashOld (s : State) (g : Nat) (x : Block) : (s.setBlk g x).flashOld = s.flashOld := rfl
@[simp] theorem State.setBlk_save (s : State) (g : Nat) (x : Block) : (s.setBlk g x).save = s.save := rfl
@[simp] theorem State.setBlk_hdrop (s : State) (g : Nat) (x : Block) : (s.setBlk g x).hdrop = s.hdrop := rfl

/-! ### updBlk -/

@[simp] theorem State.updBlk_pending (s : State) (g : Nat) (f : Block → Block) : (s.updBlk g f).pending = s.pending := rfl
@[simp] theorem State.updBlk_freeCtr (s : State) (g : Nat) (f : Block → Block) : (s.updBlk g f).freeCtr = s.freeCtr := rfl
@[simp] theorem State.updBlk_out (s : State) (g : Nat) (f : Block → Block) : (s.updBlk g f).out = s.out := rfl
@[simp] theorem State.updBlk_fuse (s : State) (g : Nat) (f : Block → Block) : (s.updBlk g f).fuse = s.fuse := rfl
@[simp] theorem State.updBlk_boot (s : State) (g : Nat) (f : Block → Block) : (s.updBlk g f).boot = s.boot := rfl
@[simp] theorem State.updBlk_pw (s : State) (g : Nat) (f : Block → Block) : (s.updBlk g f).pw = s.pw := rfl
@[simp] theorem State.updBlk_tb (s : State) (g : Nat) (f : Block → Block) : (s.updBlk g f).tb = s.tb := rfl
@[simp] theorem State.updBlk_sec (s : State) (g : Nat) (f : Block → Block) : (s.updBlk g f).sec = s.sec := rfl
@[simp] theorem State.updBlk_mod (s : State) (g : Nat) (f : Block → Block) : (s.updBlk g f).mod = s.mod := rfl
@[simp] theorem State.updBlk_selfEid (s : State) (g : Nat) (f : Block → Block) : (s.updBlk g f).selfEid = s.selfEid := rfl
@[simp] theorem State.updBlk_selfInc (s : State) (g : Nat) (f : Block → Block) : (s.updBlk g f).selfInc = s.selfInc := rfl
@[simp] theorem State.updBlk_eidInc (s : State) (g : Nat) (f : Block → Block) : (s.updBlk g f).eidInc = s.eidInc := rfl
@[simp] theorem State.updBlk_mgrs (s : State) (g : Nat) (f : Block → Block) : (s.updBlk g f).mgrs = s.mgrs := rfl
@[simp] theorem State.updBlk_ports (s : State) (g : Nat) (f : Block → Block) : (s.updBlk g f).ports = s.ports := rfl
@[simp] theorem State.updBlk_cage (s : State) (g : Nat) (f : Block → Block) : (s.updBlk g f).cage = s.cage := rfl
@[simp] theorem State.updBlk_spray (s : State) (g : Nat) (f : Block → Block) : (s.updBlk g f).spray = s.spray := rfl
@[simp] theorem State.updBlk_rsto (s : State) (g : Nat) (f : Block → Block) : (s.updBlk g f).rsto = s.rsto := rfl
@[simp] theorem State.updBlk_qs (s : State) (g : Nat) (f : Block → Block) : (s.updBlk g f).qs = s.qs := rfl
@[simp] theorem State.updBlk_trunks (s : State) (g : Nat) (f : Block → Block) : (s.updBlk g f).trunks = s.trunks := rfl
@[simp] theorem State.updBlk_parts (s : State) (g : Nat) (f : Block → Block) : (s.updBlk g f).parts = s.parts := rfl
@[simp] theorem State.updBlk_trays (s : State) (g : Nat) (f : Block → Block) : (s.updBlk g f).trays = s.trays := rfl
@[simp] theorem State.updBlk_ctxs (s : State) (g : Nat) (f : Block → Block) : (s.updBlk g f).ctxs = s.ctxs := rfl
@[simp] theorem State.updBlk_mem (s : State) (g : Nat) (f : Block → Block) : (s.updBlk g f).mem = s.mem := rfl
@[simp] theorem State.updBlk_poison (s : State) (g : Nat) (f : Block → Block) : (s.updBlk g f).poison = s.poison := rfl
@[simp] theorem State.updBlk_lost (s : State) (g : Nat) (f : Block → Block) : (s.updBlk g f).lost = s.lost := rfl
@[simp] theorem State.updBlk_joins (s : State) (g : Nat) (f : Block → Block) : (s.updBlk g f).joins = s.joins := rfl
@[simp] theorem State.updBlk_pteEvt (s : State) (g : Nat) (f : Block → Block) : (s.updBlk g f).pteEvt = s.pteEvt := rfl
@[simp] theorem State.updBlk_joinNext (s : State) (g : Nat) (f : Block → Block) : (s.updBlk g f).joinNext = s.joinNext := rfl
@[simp] theorem State.updBlk_sqOut (s : State) (g : Nat) (f : Block → Block) : (s.updBlk g f).sqOut = s.sqOut := rfl
@[simp] theorem State.updBlk_winP (s : State) (g : Nat) (f : Block → Block) : (s.updBlk g f).winP = s.winP := rfl
@[simp] theorem State.updBlk_winI (s : State) (g : Nat) (f : Block → Block) : (s.updBlk g f).winI = s.winI := rfl
@[simp] theorem State.updBlk_ctlq (s : State) (g : Nat) (f : Block → Block) : (s.updBlk g f).ctlq = s.ctlq := rfl
@[simp] theorem State.updBlk_calset (s : State) (g : Nat) (f : Block → Block) : (s.updBlk g f).calset = s.calset := rfl
@[simp] theorem State.updBlk_flash (s : State) (g : Nat) (f : Block → Block) : (s.updBlk g f).flash = s.flash := rfl
@[simp] theorem State.updBlk_flashOld (s : State) (g : Nat) (f : Block → Block) : (s.updBlk g f).flashOld = s.flashOld := rfl
@[simp] theorem State.updBlk_save (s : State) (g : Nat) (f : Block → Block) : (s.updBlk g f).save = s.save := rfl
@[simp] theorem State.updBlk_hdrop (s : State) (g : Nat) (f : Block → Block) : (s.updBlk g f).hdrop = s.hdrop := rfl

/-! ### setCtx -/

@[simp] theorem State.setCtx_pending (s : State) (c : Nat) (x : Ctx) : (s.setCtx c x).pending = s.pending := rfl
@[simp] theorem State.setCtx_freeCtr (s : State) (c : Nat) (x : Ctx) : (s.setCtx c x).freeCtr = s.freeCtr := rfl
@[simp] theorem State.setCtx_out (s : State) (c : Nat) (x : Ctx) : (s.setCtx c x).out = s.out := rfl
@[simp] theorem State.setCtx_fuse (s : State) (c : Nat) (x : Ctx) : (s.setCtx c x).fuse = s.fuse := rfl
@[simp] theorem State.setCtx_boot (s : State) (c : Nat) (x : Ctx) : (s.setCtx c x).boot = s.boot := rfl
@[simp] theorem State.setCtx_pw (s : State) (c : Nat) (x : Ctx) : (s.setCtx c x).pw = s.pw := rfl
@[simp] theorem State.setCtx_tb (s : State) (c : Nat) (x : Ctx) : (s.setCtx c x).tb = s.tb := rfl
@[simp] theorem State.setCtx_sec (s : State) (c : Nat) (x : Ctx) : (s.setCtx c x).sec = s.sec := rfl
@[simp] theorem State.setCtx_mod (s : State) (c : Nat) (x : Ctx) : (s.setCtx c x).mod = s.mod := rfl
@[simp] theorem State.setCtx_selfEid (s : State) (c : Nat) (x : Ctx) : (s.setCtx c x).selfEid = s.selfEid := rfl
@[simp] theorem State.setCtx_selfInc (s : State) (c : Nat) (x : Ctx) : (s.setCtx c x).selfInc = s.selfInc := rfl
@[simp] theorem State.setCtx_eidInc (s : State) (c : Nat) (x : Ctx) : (s.setCtx c x).eidInc = s.eidInc := rfl
@[simp] theorem State.setCtx_mgrs (s : State) (c : Nat) (x : Ctx) : (s.setCtx c x).mgrs = s.mgrs := rfl
@[simp] theorem State.setCtx_ports (s : State) (c : Nat) (x : Ctx) : (s.setCtx c x).ports = s.ports := rfl
@[simp] theorem State.setCtx_cage (s : State) (c : Nat) (x : Ctx) : (s.setCtx c x).cage = s.cage := rfl
@[simp] theorem State.setCtx_spray (s : State) (c : Nat) (x : Ctx) : (s.setCtx c x).spray = s.spray := rfl
@[simp] theorem State.setCtx_rsto (s : State) (c : Nat) (x : Ctx) : (s.setCtx c x).rsto = s.rsto := rfl
@[simp] theorem State.setCtx_qs (s : State) (c : Nat) (x : Ctx) : (s.setCtx c x).qs = s.qs := rfl
@[simp] theorem State.setCtx_trunks (s : State) (c : Nat) (x : Ctx) : (s.setCtx c x).trunks = s.trunks := rfl
@[simp] theorem State.setCtx_parts (s : State) (c : Nat) (x : Ctx) : (s.setCtx c x).parts = s.parts := rfl
@[simp] theorem State.setCtx_trays (s : State) (c : Nat) (x : Ctx) : (s.setCtx c x).trays = s.trays := rfl
@[simp] theorem State.setCtx_blks (s : State) (c : Nat) (x : Ctx) : (s.setCtx c x).blks = s.blks := rfl
@[simp] theorem State.setCtx_mem (s : State) (c : Nat) (x : Ctx) : (s.setCtx c x).mem = s.mem := rfl
@[simp] theorem State.setCtx_poison (s : State) (c : Nat) (x : Ctx) : (s.setCtx c x).poison = s.poison := rfl
@[simp] theorem State.setCtx_lost (s : State) (c : Nat) (x : Ctx) : (s.setCtx c x).lost = s.lost := rfl
@[simp] theorem State.setCtx_joins (s : State) (c : Nat) (x : Ctx) : (s.setCtx c x).joins = s.joins := rfl
@[simp] theorem State.setCtx_pteEvt (s : State) (c : Nat) (x : Ctx) : (s.setCtx c x).pteEvt = s.pteEvt := rfl
@[simp] theorem State.setCtx_joinNext (s : State) (c : Nat) (x : Ctx) : (s.setCtx c x).joinNext = s.joinNext := rfl
@[simp] theorem State.setCtx_sqOut (s : State) (c : Nat) (x : Ctx) : (s.setCtx c x).sqOut = s.sqOut := rfl
@[simp] theorem State.setCtx_winP (s : State) (c : Nat) (x : Ctx) : (s.setCtx c x).winP = s.winP := rfl
@[simp] theorem State.setCtx_winI (s : State) (c : Nat) (x : Ctx) : (s.setCtx c x).winI = s.winI := rfl
@[simp] theorem State.setCtx_ctlq (s : State) (c : Nat) (x : Ctx) : (s.setCtx c x).ctlq = s.ctlq := rfl
@[simp] theorem State.setCtx_calset (s : State) (c : Nat) (x : Ctx) : (s.setCtx c x).calset = s.calset := rfl
@[simp] theorem State.setCtx_flash (s : State) (c : Nat) (x : Ctx) : (s.setCtx c x).flash = s.flash := rfl
@[simp] theorem State.setCtx_flashOld (s : State) (c : Nat) (x : Ctx) : (s.setCtx c x).flashOld = s.flashOld := rfl
@[simp] theorem State.setCtx_save (s : State) (c : Nat) (x : Ctx) : (s.setCtx c x).save = s.save := rfl
@[simp] theorem State.setCtx_hdrop (s : State) (c : Nat) (x : Ctx) : (s.setCtx c x).hdrop = s.hdrop := rfl

/-! ### updCtx -/

@[simp] theorem State.updCtx_pending (s : State) (c : Nat) (f : Ctx → Ctx) : (s.updCtx c f).pending = s.pending := rfl
@[simp] theorem State.updCtx_freeCtr (s : State) (c : Nat) (f : Ctx → Ctx) : (s.updCtx c f).freeCtr = s.freeCtr := rfl
@[simp] theorem State.updCtx_out (s : State) (c : Nat) (f : Ctx → Ctx) : (s.updCtx c f).out = s.out := rfl
@[simp] theorem State.updCtx_fuse (s : State) (c : Nat) (f : Ctx → Ctx) : (s.updCtx c f).fuse = s.fuse := rfl
@[simp] theorem State.updCtx_boot (s : State) (c : Nat) (f : Ctx → Ctx) : (s.updCtx c f).boot = s.boot := rfl
@[simp] theorem State.updCtx_pw (s : State) (c : Nat) (f : Ctx → Ctx) : (s.updCtx c f).pw = s.pw := rfl
@[simp] theorem State.updCtx_tb (s : State) (c : Nat) (f : Ctx → Ctx) : (s.updCtx c f).tb = s.tb := rfl
@[simp] theorem State.updCtx_sec (s : State) (c : Nat) (f : Ctx → Ctx) : (s.updCtx c f).sec = s.sec := rfl
@[simp] theorem State.updCtx_mod (s : State) (c : Nat) (f : Ctx → Ctx) : (s.updCtx c f).mod = s.mod := rfl
@[simp] theorem State.updCtx_selfEid (s : State) (c : Nat) (f : Ctx → Ctx) : (s.updCtx c f).selfEid = s.selfEid := rfl
@[simp] theorem State.updCtx_selfInc (s : State) (c : Nat) (f : Ctx → Ctx) : (s.updCtx c f).selfInc = s.selfInc := rfl
@[simp] theorem State.updCtx_eidInc (s : State) (c : Nat) (f : Ctx → Ctx) : (s.updCtx c f).eidInc = s.eidInc := rfl
@[simp] theorem State.updCtx_mgrs (s : State) (c : Nat) (f : Ctx → Ctx) : (s.updCtx c f).mgrs = s.mgrs := rfl
@[simp] theorem State.updCtx_ports (s : State) (c : Nat) (f : Ctx → Ctx) : (s.updCtx c f).ports = s.ports := rfl
@[simp] theorem State.updCtx_cage (s : State) (c : Nat) (f : Ctx → Ctx) : (s.updCtx c f).cage = s.cage := rfl
@[simp] theorem State.updCtx_spray (s : State) (c : Nat) (f : Ctx → Ctx) : (s.updCtx c f).spray = s.spray := rfl
@[simp] theorem State.updCtx_rsto (s : State) (c : Nat) (f : Ctx → Ctx) : (s.updCtx c f).rsto = s.rsto := rfl
@[simp] theorem State.updCtx_qs (s : State) (c : Nat) (f : Ctx → Ctx) : (s.updCtx c f).qs = s.qs := rfl
@[simp] theorem State.updCtx_trunks (s : State) (c : Nat) (f : Ctx → Ctx) : (s.updCtx c f).trunks = s.trunks := rfl
@[simp] theorem State.updCtx_parts (s : State) (c : Nat) (f : Ctx → Ctx) : (s.updCtx c f).parts = s.parts := rfl
@[simp] theorem State.updCtx_trays (s : State) (c : Nat) (f : Ctx → Ctx) : (s.updCtx c f).trays = s.trays := rfl
@[simp] theorem State.updCtx_blks (s : State) (c : Nat) (f : Ctx → Ctx) : (s.updCtx c f).blks = s.blks := rfl
@[simp] theorem State.updCtx_mem (s : State) (c : Nat) (f : Ctx → Ctx) : (s.updCtx c f).mem = s.mem := rfl
@[simp] theorem State.updCtx_poison (s : State) (c : Nat) (f : Ctx → Ctx) : (s.updCtx c f).poison = s.poison := rfl
@[simp] theorem State.updCtx_lost (s : State) (c : Nat) (f : Ctx → Ctx) : (s.updCtx c f).lost = s.lost := rfl
@[simp] theorem State.updCtx_joins (s : State) (c : Nat) (f : Ctx → Ctx) : (s.updCtx c f).joins = s.joins := rfl
@[simp] theorem State.updCtx_pteEvt (s : State) (c : Nat) (f : Ctx → Ctx) : (s.updCtx c f).pteEvt = s.pteEvt := rfl
@[simp] theorem State.updCtx_joinNext (s : State) (c : Nat) (f : Ctx → Ctx) : (s.updCtx c f).joinNext = s.joinNext := rfl
@[simp] theorem State.updCtx_sqOut (s : State) (c : Nat) (f : Ctx → Ctx) : (s.updCtx c f).sqOut = s.sqOut := rfl
@[simp] theorem State.updCtx_winP (s : State) (c : Nat) (f : Ctx → Ctx) : (s.updCtx c f).winP = s.winP := rfl
@[simp] theorem State.updCtx_winI (s : State) (c : Nat) (f : Ctx → Ctx) : (s.updCtx c f).winI = s.winI := rfl
@[simp] theorem State.updCtx_ctlq (s : State) (c : Nat) (f : Ctx → Ctx) : (s.updCtx c f).ctlq = s.ctlq := rfl
@[simp] theorem State.updCtx_calset (s : State) (c : Nat) (f : Ctx → Ctx) : (s.updCtx c f).calset = s.calset := rfl
@[simp] theorem State.updCtx_flash (s : State) (c : Nat) (f : Ctx → Ctx) : (s.updCtx c f).flash = s.flash := rfl
@[simp] theorem State.updCtx_flashOld (s : State) (c : Nat) (f : Ctx → Ctx) : (s.updCtx c f).flashOld = s.flashOld := rfl
@[simp] theorem State.updCtx_save (s : State) (c : Nat) (f : Ctx → Ctx) : (s.updCtx c f).save = s.save := rfl
@[simp] theorem State.updCtx_hdrop (s : State) (c : Nat) (f : Ctx → Ctx) : (s.updCtx c f).hdrop = s.hdrop := rfl

/-! ### setInc -/

@[simp] theorem State.setInc_pending (s : State) (e : Eid) (i : Inc) : (s.setInc e i).pending = s.pending := rfl
@[simp] theorem State.setInc_freeCtr (s : State) (e : Eid) (i : Inc) : (s.setInc e i).freeCtr = s.freeCtr := rfl
@[simp] theorem State.setInc_out (s : State) (e : Eid) (i : Inc) : (s.setInc e i).out = s.out := rfl
@[simp] theorem State.setInc_fuse (s : State) (e : Eid) (i : Inc) : (s.setInc e i).fuse = s.fuse := rfl
@[simp] theorem State.setInc_boot (s : State) (e : Eid) (i : Inc) : (s.setInc e i).boot = s.boot := rfl
@[simp] theorem State.setInc_pw (s : State) (e : Eid) (i : Inc) : (s.setInc e i).pw = s.pw := rfl
@[simp] theorem State.setInc_tb (s : State) (e : Eid) (i : Inc) : (s.setInc e i).tb = s.tb := rfl
@[simp] theorem State.setInc_sec (s : State) (e : Eid) (i : Inc) : (s.setInc e i).sec = s.sec := rfl
@[simp] theorem State.setInc_mod (s : State) (e : Eid) (i : Inc) : (s.setInc e i).mod = s.mod := rfl
@[simp] theorem State.setInc_selfEid (s : State) (e : Eid) (i : Inc) : (s.setInc e i).selfEid = s.selfEid := rfl
@[simp] theorem State.setInc_selfInc (s : State) (e : Eid) (i : Inc) : (s.setInc e i).selfInc = s.selfInc := rfl
@[simp] theorem State.setInc_mgrs (s : State) (e : Eid) (i : Inc) : (s.setInc e i).mgrs = s.mgrs := rfl
@[simp] theorem State.setInc_ports (s : State) (e : Eid) (i : Inc) : (s.setInc e i).ports = s.ports := rfl
@[simp] theorem State.setInc_cage (s : State) (e : Eid) (i : Inc) : (s.setInc e i).cage = s.cage := rfl
@[simp] theorem State.setInc_spray (s : State) (e : Eid) (i : Inc) : (s.setInc e i).spray = s.spray := rfl
@[simp] theorem State.setInc_rsto (s : State) (e : Eid) (i : Inc) : (s.setInc e i).rsto = s.rsto := rfl
@[simp] theorem State.setInc_qs (s : State) (e : Eid) (i : Inc) : (s.setInc e i).qs = s.qs := rfl
@[simp] theorem State.setInc_trunks (s : State) (e : Eid) (i : Inc) : (s.setInc e i).trunks = s.trunks := rfl
@[simp] theorem State.setInc_parts (s : State) (e : Eid) (i : Inc) : (s.setInc e i).parts = s.parts := rfl
@[simp] theorem State.setInc_trays (s : State) (e : Eid) (i : Inc) : (s.setInc e i).trays = s.trays := rfl
@[simp] theorem State.setInc_blks (s : State) (e : Eid) (i : Inc) : (s.setInc e i).blks = s.blks := rfl
@[simp] theorem State.setInc_ctxs (s : State) (e : Eid) (i : Inc) : (s.setInc e i).ctxs = s.ctxs := rfl
@[simp] theorem State.setInc_mem (s : State) (e : Eid) (i : Inc) : (s.setInc e i).mem = s.mem := rfl
@[simp] theorem State.setInc_poison (s : State) (e : Eid) (i : Inc) : (s.setInc e i).poison = s.poison := rfl
@[simp] theorem State.setInc_lost (s : State) (e : Eid) (i : Inc) : (s.setInc e i).lost = s.lost := rfl
@[simp] theorem State.setInc_joins (s : State) (e : Eid) (i : Inc) : (s.setInc e i).joins = s.joins := rfl
@[simp] theorem State.setInc_pteEvt (s : State) (e : Eid) (i : Inc) : (s.setInc e i).pteEvt = s.pteEvt := rfl
@[simp] theorem State.setInc_joinNext (s : State) (e : Eid) (i : Inc) : (s.setInc e i).joinNext = s.joinNext := rfl
@[simp] theorem State.setInc_sqOut (s : State) (e : Eid) (i : Inc) : (s.setInc e i).sqOut = s.sqOut := rfl
@[simp] theorem State.setInc_winP (s : State) (e : Eid) (i : Inc) : (s.setInc e i).winP = s.winP := rfl
@[simp] theorem State.setInc_winI (s : State) (e : Eid) (i : Inc) : (s.setInc e i).winI = s.winI := rfl
@[simp] theorem State.setInc_ctlq (s : State) (e : Eid) (i : Inc) : (s.setInc e i).ctlq = s.ctlq := rfl
@[simp] theorem State.setInc_calset (s : State) (e : Eid) (i : Inc) : (s.setInc e i).calset = s.calset := rfl
@[simp] theorem State.setInc_flash (s : State) (e : Eid) (i : Inc) : (s.setInc e i).flash = s.flash := rfl
@[simp] theorem State.setInc_flashOld (s : State) (e : Eid) (i : Inc) : (s.setInc e i).flashOld = s.flashOld := rfl
@[simp] theorem State.setInc_save (s : State) (e : Eid) (i : Inc) : (s.setInc e i).save = s.save := rfl
@[simp] theorem State.setInc_hdrop (s : State) (e : Eid) (i : Inc) : (s.setInc e i).hdrop = s.hdrop := rfl

/-! ### emit -/

@[simp] theorem State.emit_pending (s : State) (o : Output) : (s.emit o).pending = s.pending := rfl
@[simp] theorem State.emit_freeCtr (s : State) (o : Output) : (s.emit o).freeCtr = s.freeCtr := rfl
@[simp] theorem State.emit_fuse (s : State) (o : Output) : (s.emit o).fuse = s.fuse := rfl
@[simp] theorem State.emit_boot (s : State) (o : Output) : (s.emit o).boot = s.boot := rfl
@[simp] theorem State.emit_pw (s : State) (o : Output) : (s.emit o).pw = s.pw := rfl
@[simp] theorem State.emit_tb (s : State) (o : Output) : (s.emit o).tb = s.tb := rfl
@[simp] theorem State.emit_sec (s : State) (o : Output) : (s.emit o).sec = s.sec := rfl
@[simp] theorem State.emit_mod (s : State) (o : Output) : (s.emit o).mod = s.mod := rfl
@[simp] theorem State.emit_selfEid (s : State) (o : Output) : (s.emit o).selfEid = s.selfEid := rfl
@[simp] theorem State.emit_selfInc (s : State) (o : Output) : (s.emit o).selfInc = s.selfInc := rfl
@[simp] theorem State.emit_eidInc (s : State) (o : Output) : (s.emit o).eidInc = s.eidInc := rfl
@[simp] theorem State.emit_mgrs (s : State) (o : Output) : (s.emit o).mgrs = s.mgrs := rfl
@[simp] theorem State.emit_ports (s : State) (o : Output) : (s.emit o).ports = s.ports := rfl
@[simp] theorem State.emit_cage (s : State) (o : Output) : (s.emit o).cage = s.cage := rfl
@[simp] theorem State.emit_spray (s : State) (o : Output) : (s.emit o).spray = s.spray := rfl
@[simp] theorem State.emit_rsto (s : State) (o : Output) : (s.emit o).rsto = s.rsto := rfl
@[simp] theorem State.emit_qs (s : State) (o : Output) : (s.emit o).qs = s.qs := rfl
@[simp] theorem State.emit_trunks (s : State) (o : Output) : (s.emit o).trunks = s.trunks := rfl
@[simp] theorem State.emit_parts (s : State) (o : Output) : (s.emit o).parts = s.parts := rfl
@[simp] theorem State.emit_trays (s : State) (o : Output) : (s.emit o).trays = s.trays := rfl
@[simp] theorem State.emit_blks (s : State) (o : Output) : (s.emit o).blks = s.blks := rfl
@[simp] theorem State.emit_ctxs (s : State) (o : Output) : (s.emit o).ctxs = s.ctxs := rfl
@[simp] theorem State.emit_mem (s : State) (o : Output) : (s.emit o).mem = s.mem := rfl
@[simp] theorem State.emit_poison (s : State) (o : Output) : (s.emit o).poison = s.poison := rfl
@[simp] theorem State.emit_lost (s : State) (o : Output) : (s.emit o).lost = s.lost := rfl
@[simp] theorem State.emit_joins (s : State) (o : Output) : (s.emit o).joins = s.joins := rfl
@[simp] theorem State.emit_pteEvt (s : State) (o : Output) : (s.emit o).pteEvt = s.pteEvt := rfl
@[simp] theorem State.emit_joinNext (s : State) (o : Output) : (s.emit o).joinNext = s.joinNext := rfl
@[simp] theorem State.emit_sqOut (s : State) (o : Output) : (s.emit o).sqOut = s.sqOut := rfl
@[simp] theorem State.emit_winP (s : State) (o : Output) : (s.emit o).winP = s.winP := rfl
@[simp] theorem State.emit_winI (s : State) (o : Output) : (s.emit o).winI = s.winI := rfl
@[simp] theorem State.emit_ctlq (s : State) (o : Output) : (s.emit o).ctlq = s.ctlq := rfl
@[simp] theorem State.emit_calset (s : State) (o : Output) : (s.emit o).calset = s.calset := rfl
@[simp] theorem State.emit_flash (s : State) (o : Output) : (s.emit o).flash = s.flash := rfl
@[simp] theorem State.emit_flashOld (s : State) (o : Output) : (s.emit o).flashOld = s.flashOld := rfl
@[simp] theorem State.emit_save (s : State) (o : Output) : (s.emit o).save = s.save := rfl
@[simp] theorem State.emit_hdrop (s : State) (o : Output) : (s.emit o).hdrop = s.hdrop := rfl

/-! ### poke -/

@[simp] theorem State.poke_pending (s : State) (p a : Nat) (b : Byte) : (s.poke p a b).pending = s.pending := rfl
@[simp] theorem State.poke_freeCtr (s : State) (p a : Nat) (b : Byte) : (s.poke p a b).freeCtr = s.freeCtr := rfl
@[simp] theorem State.poke_out (s : State) (p a : Nat) (b : Byte) : (s.poke p a b).out = s.out := rfl
@[simp] theorem State.poke_fuse (s : State) (p a : Nat) (b : Byte) : (s.poke p a b).fuse = s.fuse := rfl
@[simp] theorem State.poke_boot (s : State) (p a : Nat) (b : Byte) : (s.poke p a b).boot = s.boot := rfl
@[simp] theorem State.poke_pw (s : State) (p a : Nat) (b : Byte) : (s.poke p a b).pw = s.pw := rfl
@[simp] theorem State.poke_tb (s : State) (p a : Nat) (b : Byte) : (s.poke p a b).tb = s.tb := rfl
@[simp] theorem State.poke_sec (s : State) (p a : Nat) (b : Byte) : (s.poke p a b).sec = s.sec := rfl
@[simp] theorem State.poke_mod (s : State) (p a : Nat) (b : Byte) : (s.poke p a b).mod = s.mod := rfl
@[simp] theorem State.poke_selfEid (s : State) (p a : Nat) (b : Byte) : (s.poke p a b).selfEid = s.selfEid := rfl
@[simp] theorem State.poke_selfInc (s : State) (p a : Nat) (b : Byte) : (s.poke p a b).selfInc = s.selfInc := rfl
@[simp] theorem State.poke_eidInc (s : State) (p a : Nat) (b : Byte) : (s.poke p a b).eidInc = s.eidInc := rfl
@[simp] theorem State.poke_mgrs (s : State) (p a : Nat) (b : Byte) : (s.poke p a b).mgrs = s.mgrs := rfl
@[simp] theorem State.poke_ports (s : State) (p a : Nat) (b : Byte) : (s.poke p a b).ports = s.ports := rfl
@[simp] theorem State.poke_cage (s : State) (p a : Nat) (b : Byte) : (s.poke p a b).cage = s.cage := rfl
@[simp] theorem State.poke_spray (s : State) (p a : Nat) (b : Byte) : (s.poke p a b).spray = s.spray := rfl
@[simp] theorem State.poke_rsto (s : State) (p a : Nat) (b : Byte) : (s.poke p a b).rsto = s.rsto := rfl
@[simp] theorem State.poke_qs (s : State) (p a : Nat) (b : Byte) : (s.poke p a b).qs = s.qs := rfl
@[simp] theorem State.poke_trunks (s : State) (p a : Nat) (b : Byte) : (s.poke p a b).trunks = s.trunks := rfl
@[simp] theorem State.poke_parts (s : State) (p a : Nat) (b : Byte) : (s.poke p a b).parts = s.parts := rfl
@[simp] theorem State.poke_trays (s : State) (p a : Nat) (b : Byte) : (s.poke p a b).trays = s.trays := rfl
@[simp] theorem State.poke_blks (s : State) (p a : Nat) (b : Byte) : (s.poke p a b).blks = s.blks := rfl
@[simp] theorem State.poke_ctxs (s : State) (p a : Nat) (b : Byte) : (s.poke p a b).ctxs = s.ctxs := rfl
@[simp] theorem State.poke_poison (s : State) (p a : Nat) (b : Byte) : (s.poke p a b).poison = s.poison := rfl
@[simp] theorem State.poke_lost (s : State) (p a : Nat) (b : Byte) : (s.poke p a b).lost = s.lost := rfl
@[simp] theorem State.poke_joins (s : State) (p a : Nat) (b : Byte) : (s.poke p a b).joins = s.joins := rfl
@[simp] theorem State.poke_pteEvt (s : State) (p a : Nat) (b : Byte) : (s.poke p a b).pteEvt = s.pteEvt := rfl
@[simp] theorem State.poke_joinNext (s : State) (p a : Nat) (b : Byte) : (s.poke p a b).joinNext = s.joinNext := rfl
@[simp] theorem State.poke_sqOut (s : State) (p a : Nat) (b : Byte) : (s.poke p a b).sqOut = s.sqOut := rfl
@[simp] theorem State.poke_winP (s : State) (p a : Nat) (b : Byte) : (s.poke p a b).winP = s.winP := rfl
@[simp] theorem State.poke_winI (s : State) (p a : Nat) (b : Byte) : (s.poke p a b).winI = s.winI := rfl
@[simp] theorem State.poke_ctlq (s : State) (p a : Nat) (b : Byte) : (s.poke p a b).ctlq = s.ctlq := rfl
@[simp] theorem State.poke_calset (s : State) (p a : Nat) (b : Byte) : (s.poke p a b).calset = s.calset := rfl
@[simp] theorem State.poke_flash (s : State) (p a : Nat) (b : Byte) : (s.poke p a b).flash = s.flash := rfl
@[simp] theorem State.poke_flashOld (s : State) (p a : Nat) (b : Byte) : (s.poke p a b).flashOld = s.flashOld := rfl
@[simp] theorem State.poke_save (s : State) (p a : Nat) (b : Byte) : (s.poke p a b).save = s.save := rfl
@[simp] theorem State.poke_hdrop (s : State) (p a : Nat) (b : Byte) : (s.poke p a b).hdrop = s.hdrop := rfl

/-! ### setPoison -/

@[simp] theorem State.setPoison_pending (s : State) (p l : Nat) (b : Bool) : (s.setPoison p l b).pending = s.pending := rfl
@[simp] theorem State.setPoison_freeCtr (s : State) (p l : Nat) (b : Bool) : (s.setPoison p l b).freeCtr = s.freeCtr := rfl
@[simp] theorem State.setPoison_out (s : State) (p l : Nat) (b : Bool) : (s.setPoison p l b).out = s.out := rfl
@[simp] theorem State.setPoison_fuse (s : State) (p l : Nat) (b : Bool) : (s.setPoison p l b).fuse = s.fuse := rfl
@[simp] theorem State.setPoison_boot (s : State) (p l : Nat) (b : Bool) : (s.setPoison p l b).boot = s.boot := rfl
@[simp] theorem State.setPoison_pw (s : State) (p l : Nat) (b : Bool) : (s.setPoison p l b).pw = s.pw := rfl
@[simp] theorem State.setPoison_tb (s : State) (p l : Nat) (b : Bool) : (s.setPoison p l b).tb = s.tb := rfl
@[simp] theorem State.setPoison_sec (s : State) (p l : Nat) (b : Bool) : (s.setPoison p l b).sec = s.sec := rfl
@[simp] theorem State.setPoison_mod (s : State) (p l : Nat) (b : Bool) : (s.setPoison p l b).mod = s.mod := rfl
@[simp] theorem State.setPoison_selfEid (s : State) (p l : Nat) (b : Bool) : (s.setPoison p l b).selfEid = s.selfEid := rfl
@[simp] theorem State.setPoison_selfInc (s : State) (p l : Nat) (b : Bool) : (s.setPoison p l b).selfInc = s.selfInc := rfl
@[simp] theorem State.setPoison_eidInc (s : State) (p l : Nat) (b : Bool) : (s.setPoison p l b).eidInc = s.eidInc := rfl
@[simp] theorem State.setPoison_mgrs (s : State) (p l : Nat) (b : Bool) : (s.setPoison p l b).mgrs = s.mgrs := rfl
@[simp] theorem State.setPoison_ports (s : State) (p l : Nat) (b : Bool) : (s.setPoison p l b).ports = s.ports := rfl
@[simp] theorem State.setPoison_cage (s : State) (p l : Nat) (b : Bool) : (s.setPoison p l b).cage = s.cage := rfl
@[simp] theorem State.setPoison_spray (s : State) (p l : Nat) (b : Bool) : (s.setPoison p l b).spray = s.spray := rfl
@[simp] theorem State.setPoison_rsto (s : State) (p l : Nat) (b : Bool) : (s.setPoison p l b).rsto = s.rsto := rfl
@[simp] theorem State.setPoison_qs (s : State) (p l : Nat) (b : Bool) : (s.setPoison p l b).qs = s.qs := rfl
@[simp] theorem State.setPoison_trunks (s : State) (p l : Nat) (b : Bool) : (s.setPoison p l b).trunks = s.trunks := rfl
@[simp] theorem State.setPoison_parts (s : State) (p l : Nat) (b : Bool) : (s.setPoison p l b).parts = s.parts := rfl
@[simp] theorem State.setPoison_trays (s : State) (p l : Nat) (b : Bool) : (s.setPoison p l b).trays = s.trays := rfl
@[simp] theorem State.setPoison_blks (s : State) (p l : Nat) (b : Bool) : (s.setPoison p l b).blks = s.blks := rfl
@[simp] theorem State.setPoison_ctxs (s : State) (p l : Nat) (b : Bool) : (s.setPoison p l b).ctxs = s.ctxs := rfl
@[simp] theorem State.setPoison_mem (s : State) (p l : Nat) (b : Bool) : (s.setPoison p l b).mem = s.mem := rfl
@[simp] theorem State.setPoison_lost (s : State) (p l : Nat) (b : Bool) : (s.setPoison p l b).lost = s.lost := rfl
@[simp] theorem State.setPoison_joins (s : State) (p l : Nat) (b : Bool) : (s.setPoison p l b).joins = s.joins := rfl
@[simp] theorem State.setPoison_pteEvt (s : State) (p l : Nat) (b : Bool) : (s.setPoison p l b).pteEvt = s.pteEvt := rfl
@[simp] theorem State.setPoison_joinNext (s : State) (p l : Nat) (b : Bool) : (s.setPoison p l b).joinNext = s.joinNext := rfl
@[simp] theorem State.setPoison_sqOut (s : State) (p l : Nat) (b : Bool) : (s.setPoison p l b).sqOut = s.sqOut := rfl
@[simp] theorem State.setPoison_winP (s : State) (p l : Nat) (b : Bool) : (s.setPoison p l b).winP = s.winP := rfl
@[simp] theorem State.setPoison_winI (s : State) (p l : Nat) (b : Bool) : (s.setPoison p l b).winI = s.winI := rfl
@[simp] theorem State.setPoison_ctlq (s : State) (p l : Nat) (b : Bool) : (s.setPoison p l b).ctlq = s.ctlq := rfl
@[simp] theorem State.setPoison_calset (s : State) (p l : Nat) (b : Bool) : (s.setPoison p l b).calset = s.calset := rfl
@[simp] theorem State.setPoison_flash (s : State) (p l : Nat) (b : Bool) : (s.setPoison p l b).flash = s.flash := rfl
@[simp] theorem State.setPoison_flashOld (s : State) (p l : Nat) (b : Bool) : (s.setPoison p l b).flashOld = s.flashOld := rfl
@[simp] theorem State.setPoison_save (s : State) (p l : Nat) (b : Bool) : (s.setPoison p l b).save = s.save := rfl
@[simp] theorem State.setPoison_hdrop (s : State) (p l : Nat) (b : Bool) : (s.setPoison p l b).hdrop = s.hdrop := rfl

/-! ### setLost -/

@[simp] theorem State.setLost_pending (s : State) (p l : Nat) (b : Bool) : (s.setLost p l b).pending = s.pending := rfl
@[simp] theorem State.setLost_freeCtr (s : State) (p l : Nat) (b : Bool) : (s.setLost p l b).freeCtr = s.freeCtr := rfl
@[simp] theorem State.setLost_out (s : State) (p l : Nat) (b : Bool) : (s.setLost p l b).out = s.out := rfl
@[simp] theorem State.setLost_fuse (s : State) (p l : Nat) (b : Bool) : (s.setLost p l b).fuse = s.fuse := rfl
@[simp] theorem State.setLost_boot (s : State) (p l : Nat) (b : Bool) : (s.setLost p l b).boot = s.boot := rfl
@[simp] theorem State.setLost_pw (s : State) (p l : Nat) (b : Bool) : (s.setLost p l b).pw = s.pw := rfl
@[simp] theorem State.setLost_tb (s : State) (p l : Nat) (b : Bool) : (s.setLost p l b).tb = s.tb := rfl
@[simp] theorem State.setLost_sec (s : State) (p l : Nat) (b : Bool) : (s.setLost p l b).sec = s.sec := rfl
@[simp] theorem State.setLost_mod (s : State) (p l : Nat) (b : Bool) : (s.setLost p l b).mod = s.mod := rfl
@[simp] theorem State.setLost_selfEid (s : State) (p l : Nat) (b : Bool) : (s.setLost p l b).selfEid = s.selfEid := rfl
@[simp] theorem State.setLost_selfInc (s : State) (p l : Nat) (b : Bool) : (s.setLost p l b).selfInc = s.selfInc := rfl
@[simp] theorem State.setLost_eidInc (s : State) (p l : Nat) (b : Bool) : (s.setLost p l b).eidInc = s.eidInc := rfl
@[simp] theorem State.setLost_mgrs (s : State) (p l : Nat) (b : Bool) : (s.setLost p l b).mgrs = s.mgrs := rfl
@[simp] theorem State.setLost_ports (s : State) (p l : Nat) (b : Bool) : (s.setLost p l b).ports = s.ports := rfl
@[simp] theorem State.setLost_cage (s : State) (p l : Nat) (b : Bool) : (s.setLost p l b).cage = s.cage := rfl
@[simp] theorem State.setLost_spray (s : State) (p l : Nat) (b : Bool) : (s.setLost p l b).spray = s.spray := rfl
@[simp] theorem State.setLost_rsto (s : State) (p l : Nat) (b : Bool) : (s.setLost p l b).rsto = s.rsto := rfl
@[simp] theorem State.setLost_qs (s : State) (p l : Nat) (b : Bool) : (s.setLost p l b).qs = s.qs := rfl
@[simp] theorem State.setLost_trunks (s : State) (p l : Nat) (b : Bool) : (s.setLost p l b).trunks = s.trunks := rfl
@[simp] theorem State.setLost_parts (s : State) (p l : Nat) (b : Bool) : (s.setLost p l b).parts = s.parts := rfl
@[simp] theorem State.setLost_trays (s : State) (p l : Nat) (b : Bool) : (s.setLost p l b).trays = s.trays := rfl
@[simp] theorem State.setLost_blks (s : State) (p l : Nat) (b : Bool) : (s.setLost p l b).blks = s.blks := rfl
@[simp] theorem State.setLost_ctxs (s : State) (p l : Nat) (b : Bool) : (s.setLost p l b).ctxs = s.ctxs := rfl
@[simp] theorem State.setLost_mem (s : State) (p l : Nat) (b : Bool) : (s.setLost p l b).mem = s.mem := rfl
@[simp] theorem State.setLost_poison (s : State) (p l : Nat) (b : Bool) : (s.setLost p l b).poison = s.poison := rfl
@[simp] theorem State.setLost_joins (s : State) (p l : Nat) (b : Bool) : (s.setLost p l b).joins = s.joins := rfl
@[simp] theorem State.setLost_pteEvt (s : State) (p l : Nat) (b : Bool) : (s.setLost p l b).pteEvt = s.pteEvt := rfl
@[simp] theorem State.setLost_joinNext (s : State) (p l : Nat) (b : Bool) : (s.setLost p l b).joinNext = s.joinNext := rfl
@[simp] theorem State.setLost_sqOut (s : State) (p l : Nat) (b : Bool) : (s.setLost p l b).sqOut = s.sqOut := rfl
@[simp] theorem State.setLost_winP (s : State) (p l : Nat) (b : Bool) : (s.setLost p l b).winP = s.winP := rfl
@[simp] theorem State.setLost_winI (s : State) (p l : Nat) (b : Bool) : (s.setLost p l b).winI = s.winI := rfl
@[simp] theorem State.setLost_ctlq (s : State) (p l : Nat) (b : Bool) : (s.setLost p l b).ctlq = s.ctlq := rfl
@[simp] theorem State.setLost_calset (s : State) (p l : Nat) (b : Bool) : (s.setLost p l b).calset = s.calset := rfl
@[simp] theorem State.setLost_flash (s : State) (p l : Nat) (b : Bool) : (s.setLost p l b).flash = s.flash := rfl
@[simp] theorem State.setLost_flashOld (s : State) (p l : Nat) (b : Bool) : (s.setLost p l b).flashOld = s.flashOld := rfl
@[simp] theorem State.setLost_save (s : State) (p l : Nat) (b : Bool) : (s.setLost p l b).save = s.save := rfl
@[simp] theorem State.setLost_hdrop (s : State) (p l : Nat) (b : Bool) : (s.setLost p l b).hdrop = s.hdrop := rfl

/-! ### Reading a Port after a write -/

@[simp] theorem State.port_setPort (s : State) (k : Nat) (x : Port) : (s.setPort k x).port k = x := by simp [State.port, State.setPort]
@[simp] theorem State.port_updPort (s : State) (k : Nat) (f : Port → Port) : (s.updPort k f).port k = f (s.port k) := by simp [State.updPort]
theorem State.port_setPort_other (s : State) {k j : Nat} (x : Port) (h : j ≠ k) : (s.setPort k x).port j = s.port j := by simp [State.port, State.setPort, tget_tset_other _ _ _ h]
theorem State.port_updPort_other (s : State) {k j : Nat} (f : Port → Port) (h : j ≠ k) : (s.updPort k f).port j = s.port j := by simp [State.updPort, State.port_setPort_other _ _ h]

/-! ### Reading a Quarter after a write -/

@[simp] theorem State.qtr_setQtr (s : State) (k : Nat) (x : Quarter) : (s.setQtr k x).qtr k = x := by simp [State.qtr, State.setQtr]
@[simp] theorem State.qtr_updQtr (s : State) (k : Nat) (f : Quarter → Quarter) : (s.updQtr k f).qtr k = f (s.qtr k) := by simp [State.updQtr]
theorem State.qtr_setQtr_other (s : State) {k j : Nat} (x : Quarter) (h : j ≠ k) : (s.setQtr k x).qtr j = s.qtr j := by simp [State.qtr, State.setQtr, tget_tset_other _ _ _ h]
theorem State.qtr_updQtr_other (s : State) {k j : Nat} (f : Quarter → Quarter) (h : j ≠ k) : (s.updQtr k f).qtr j = s.qtr j := by simp [State.updQtr, State.qtr_setQtr_other _ _ h]

/-! ### Reading a Trunk after a write -/

@[simp] theorem State.trunk_setTrunk (s : State) (k : Nat) (x : Trunk) : (s.setTrunk k x).trunk k = x := by simp [State.trunk, State.setTrunk]
@[simp] theorem State.trunk_updTrunk (s : State) (k : Nat) (f : Trunk → Trunk) : (s.updTrunk k f).trunk k = f (s.trunk k) := by simp [State.updTrunk]
theorem State.trunk_setTrunk_other (s : State) {k j : Nat} (x : Trunk) (h : j ≠ k) : (s.setTrunk k x).trunk j = s.trunk j := by simp [State.trunk, State.setTrunk, tget_tset_other _ _ _ h]
theorem State.trunk_updTrunk_other (s : State) {k j : Nat} (f : Trunk → Trunk) (h : j ≠ k) : (s.updTrunk k f).trunk j = s.trunk j := by simp [State.updTrunk, State.trunk_setTrunk_other _ _ h]

/-! ### Reading a Part after a write -/

@[simp] theorem State.part_setPart (s : State) (k : Nat) (x : Part) : (s.setPart k x).part k = x := by simp [State.part, State.setPart]
@[simp] theorem State.part_updPart (s : State) (k : Nat) (f : Part → Part) : (s.updPart k f).part k = f (s.part k) := by simp [State.updPart]
theorem State.part_setPart_other (s : State) {k j : Nat} (x : Part) (h : j ≠ k) : (s.setPart k x).part j = s.part j := by simp [State.part, State.setPart, tget_tset_other _ _ _ h]
theorem State.part_updPart_other (s : State) {k j : Nat} (f : Part → Part) (h : j ≠ k) : (s.updPart k f).part j = s.part j := by simp [State.updPart, State.part_setPart_other _ _ h]

/-! ### Reading a Tray after a write -/

@[simp] theorem State.tray_setTray (s : State) (k : Nat) (x : Tray) : (s.setTray k x).tray k = x := by simp [State.tray, State.setTray]
@[simp] theorem State.tray_updTray (s : State) (k : Nat) (f : Tray → Tray) : (s.updTray k f).tray k = f (s.tray k) := by simp [State.updTray]
theorem State.tray_setTray_other (s : State) {k j : Nat} (x : Tray) (h : j ≠ k) : (s.setTray k x).tray j = s.tray j := by simp [State.tray, State.setTray, tget_tset_other _ _ _ h]
theorem State.tray_updTray_other (s : State) {k j : Nat} (f : Tray → Tray) (h : j ≠ k) : (s.updTray k f).tray j = s.tray j := by simp [State.updTray, State.tray_setTray_other _ _ h]

/-! ### Reading a Block after a write -/

@[simp] theorem State.blk_setBlk (s : State) (k : Nat) (x : Block) : (s.setBlk k x).blk k = x := by simp [State.blk, State.setBlk]
@[simp] theorem State.blk_updBlk (s : State) (k : Nat) (f : Block → Block) : (s.updBlk k f).blk k = f (s.blk k) := by simp [State.updBlk]
theorem State.blk_setBlk_other (s : State) {k j : Nat} (x : Block) (h : j ≠ k) : (s.setBlk k x).blk j = s.blk j := by simp [State.blk, State.setBlk, tget_tset_other _ _ _ h]
theorem State.blk_updBlk_other (s : State) {k j : Nat} (f : Block → Block) (h : j ≠ k) : (s.updBlk k f).blk j = s.blk j := by simp [State.updBlk, State.blk_setBlk_other _ _ h]

/-! ### Reading a Ctx after a write -/

@[simp] theorem State.ctx_setCtx (s : State) (k : Nat) (x : Ctx) : (s.setCtx k x).ctx k = x := by simp [State.ctx, State.setCtx]
@[simp] theorem State.ctx_updCtx (s : State) (k : Nat) (f : Ctx → Ctx) : (s.updCtx k f).ctx k = f (s.ctx k) := by simp [State.updCtx]
theorem State.ctx_setCtx_other (s : State) {k j : Nat} (x : Ctx) (h : j ≠ k) : (s.setCtx k x).ctx j = s.ctx j := by simp [State.ctx, State.setCtx, tget_tset_other _ _ _ h]
theorem State.ctx_updCtx_other (s : State) {k j : Nat} (f : Ctx → Ctx) (h : j ≠ k) : (s.updCtx k f).ctx j = s.ctx j := by simp [State.updCtx, State.ctx_setCtx_other _ _ h]

/-! ### Pool memory -/

/-- A pool byte reads what was last written to it. -/
@[simp] theorem State.peek_poke (s : State) (p a : Nat) (b : Byte) : (s.poke p a b).peek p a = b := by simp [State.peek, State.poke]

/-- A write leaves every other byte alone. -/
theorem State.peek_poke_other (s : State) {p a p' a' : Nat} (b : Byte) (h : memKey p' a' ≠ memKey p a) : (s.poke p a b).peek p' a' = s.peek p' a' := by
  simp [State.peek, State.poke, tget_tset_other _ _ _ h]

theorem State.poke_wf (s : State) (p a : Nat) (b : Byte) (h : Memory.wf s.mem = true) : Memory.wf (s.poke p a b).mem = true := twf_tset _ _ _ _ h

/-- Writing bytes keeps the canonical form of memory. -/
theorem State.pokes_wf (s : State) (p a : Nat) (l : List Byte) (h : Memory.wf s.mem = true) : Memory.wf (s.pokes p a l).mem = true := by
  induction l generalizing s a with
  | nil => exact h
  | cons b r ih => exact ih _ _ (State.poke_wf s p a b h)

/-- Clearing a pool range keeps the canonical form of memory. -/
theorem State.clearPool_wf (s : State) (p a n : Nat) (h : Memory.wf s.mem = true) : Memory.wf (s.clearPool p a n).mem = true := twf_filter _ _ _ h

/-- Memory has the canonical form at reset. -/
theorem State.reset_wf : Memory.wf State.reset.mem = true := rfl

end Sys2Proof.Machine
end

