-- ==== Sys2Proof/Laws/Control.lean ====
section
/-! SUPPORT. What running a control instruction can do: it is turned away by a gate, refused by its checks, waits, or takes effect. -/

namespace Sys2Proof.Machine

/-- An instruction that is ready and passes its checks takes its effect and completes OK. -/
theorem runCtl_ok {s w t : State} {via : Via} {ci : CtlInsn} {c : Caller} {opc sub r : Nat} {check : State → State × Verdict}
    {effect : State → Caller → State × Option Nat} (h : CtlReady s via ci opc sub c) (hk : ctlKnown opc sub = true)
    (hc : check (s.sinks via) = (w, .st stOk)) (he : effect (w.dropCtl via) c = (t, some r)) :
    s.runCtl via ci opc sub check effect = .next (t.ctlOk (w.dropCtl via) c opc sub r) := by
  obtain ⟨⟨h1, h2⟩, h3⟩ := h
  simp [State.runCtl, h1, h2, h3, hk, hc, he]

/-- An instruction that is ready and passes its checks, and completes later. -/
theorem runCtl_later {s w t : State} {via : Via} {ci : CtlInsn} {c : Caller} {opc sub : Nat} {check : State → State × Verdict}
    {effect : State → Caller → State × Option Nat} (h : CtlReady s via ci opc sub c) (hk : ctlKnown opc sub = true)
    (hc : check (s.sinks via) = (w, .st stOk)) (he : effect (w.dropCtl via) c = (t, none)) :
    s.runCtl via ci opc sub check effect = .next t := by
  obtain ⟨⟨h1, h2⟩, h3⟩ := h
  simp [State.runCtl, h1, h2, h3, hk, hc, he]

/-- An instruction that a gate turns away completes with the gate's status and has no effect. -/
theorem runCtl_gate {s : State} {via : Via} {ci : CtlInsn} {c : Caller} {opc sub : Nat} {check : State → State × Verdict}
    {effect : State → Caller → State × Option Nat} {st : Status} (h : CtlHead s via ci opc sub c) (hg : (s.sinks via).ctlGate c opc = some st) :
    s.runCtl via ci opc sub check effect = .next (((s.sinks via).dropCtl via).ctlAnswer c (ctlRecord st opc sub none 0)) := by
  obtain ⟨h1, h2⟩ := h
  simp [State.runCtl, h1, h2, hg]

/-- An instruction that its checks refuse completes with their status and has no other effect. -/
theorem runCtl_refused {s w : State} {via : Via} {ci : CtlInsn} {c : Caller} {opc sub : Nat} {check : State → State × Verdict}
    {effect : State → Caller → State × Option Nat} {st : Status} (h : CtlReady s via ci opc sub c) (hk : ctlKnown opc sub = true)
    (hc : check (s.sinks via) = (w, .st st)) (hs : st ≠ stOk) :
    s.runCtl via ci opc sub check effect = .next ((w.dropCtl via).ctlAnswer c (ctlRecord st opc sub none 0)) := by
  obtain ⟨⟨h1, h2⟩, h3⟩ := h
  simp only [State.runCtl, h1, h2, h3, hk, hc, hs, if_pos, not_true, if_false, Bool.false_eq_true, ne_eq, not_false_eq_true]

theorem looks_eq {f : State → Status} {s : State} {st : Status} (h : f s = st) : looks f s = (s, .st st) := by rw [looks, h]

end Sys2Proof.Machine
end

