-- ==== Sys2Proof/Laws/Link.lean ====
section
/-! SUPPORT. Laws of flits: what the builder of flits answers passes the receiver's checks. -/

namespace Sys2Proof

@[simp] theorem mkFlit_good (h : BitVec 64) (ss : List Slot) : (Machine.mkFlit h ss).good = true := by
  simp [Flit.good, Machine.mkFlit, Flit.bytes]

@[simp] theorem mkFlit_hdr (h : BitVec 64) (ss : List Slot) : (Machine.mkFlit h ss).hdr = h := rfl

theorem mkFlit_length (h : BitVec 64) (ss : List Slot) (hs : ss.length ≤ 15) : (Machine.mkFlit h ss).slots.length = 15 := by
  simp only [Machine.mkFlit, List.length_append, List.length_replicate]; omega

@[simp] theorem hdr_joinFlitOf (h : BitVec 64) (m : JoinMsg) : (joinFlitOf h m).hdr = h := rfl

@[simp] theorem join_joinFlitOf (h : BitVec 64) (m : JoinMsg) : (joinFlitOf h m).join = m := by cases m; rfl

@[simp] theorem joinOk_joinFlitOf (h : BitVec 64) (m : JoinMsg) : (joinFlitOf h m).joinOk = m.legal := by
  cases m; simp [Flit.joinOk, Flit.join, joinFlitOf, Machine.mkFlit]

/-- A join message laid out as a JOIN flit is one that a port acts on, when its fields are legal (R14, R59, R73). -/
theorem joinFlit_joinFlitOf {m : JoinMsg} (h : m.legal = true) : JoinFlit (joinFlitOf 2 m) :=
  ⟨mkFlit_length _ _ (by simp), mkFlit_good _ _, (by decide : (Machine.mkFlit 2 []).headOk = true), (by decide : (Machine.mkFlit 2 []).ftype = 2), by simp [h]⟩

end Sys2Proof
end

