-- ==== Sys2Proof/WellFormed.lean ====
section
/-! DEFINITION. Well-formed commands: operands that an event of the hardware can have. -/

namespace Sys2Proof

/-- A control instruction with as many argument slots as ARGLEN says (R373). -/
def CtlInsn.wf (c : CtlInsn) : Bool := c.args.length = c.arglen.toNat

/-- A flit of fifteen slots (R59). -/
def Flit.wf (f : Flit) : Bool := f.slots.length = 15

/-- A place where a packet of TC0 to TC6 waits: TC7 is never queued. -/
def Place.wf : Place → Bool
  | .landing _ tc => tc ≠ 7
  | .direct _ _ tc => tc ≠ 7
  | .block _ tc => tc ≠ 7
  | .square _ => true

/-- A site of an uncorrectable error that exists: a queue index up to the Square's, one of a Block's ten channels. -/
def UeSite.wf : UeSite → Bool
  | .packet _ n => n.toNat ≤ 1152
  | .channelRetrain _ ch => ch.toNat < 10
  | .transCache _ u _ => u.toNat < 352
  | .line _ _ _ | .hotSlot _ _ | .bankWord _ _ | .reqEntry _ _ | .issueState _ | .parkRecord _ | .collBuffer _ _ _ | .collRecord _ _ _
  | .replay _ | .lostLog _ _ | .directory _ | .conflictTable _ | .txnRecord _ | .metadata _ | .freeList _ | .dieLink _
  | .mgmtCore => true

/-- A site of a corrected error that exists: one of a Quarter's 160 channels. -/
def CeSite.wf : CeSite → Bool
  | .channelSymbol _ c => c.toNat < 160
  | .channelRetry _ c => c.toNat < 160
  | .fec _ | .blockWord _ | .bufferWord _ => true

/-- The REQ field of a value written to PW_REQ. -/
def pwReqOf (v : BitVec 64) : Nat := v.toNat % 8

/-- A command whose operands an event of the hardware can have. -/
def Instr.wf : Instr → Bool
  | .mapsetBind _ ci => ci.wf
  | .mapsetRoute _ ci => ci.wf
  | .mapsetGroup _ ci => ci.wf
  | .mapsetCommit _ ci => ci.wf
  | .mapsetUnbind _ ci => ci.wf
  | .partsetCreate _ ci => ci.wf
  | .partsetResize _ ci => ci.wf
  | .partsetRelease _ ci => ci.wf
  | .partsetTray _ ci => ci.wf
  | .bankgive _ ci => ci.wf
  | .bankHandover _ => true
  | .scrub _ ci => ci.wf
  | .jobkill _ ci => ci.wf
  | .ctxparkPark _ ci => ci.wf
  | .ctxparkResume _ ci => ci.wf
  | .tiermoveMove _ ci => ci.wf
  | .tiermoveRelease _ ci => ci.wf
  | .tiermoveEvacuate _ ci => ci.wf
  | .tiermoveConfig _ ci => ci.wf
  | .linkctlPortcfg _ ci => ci.wf
  | .linkctlRestart _ ci => ci.wf
  | .linkctlCredit _ ci => ci.wf
  | .linkctlAdmit _ ci => ci.wf
  | .linkctlTrunkent _ ci => ci.wf
  | .linkctlDead _ ci => ci.wf
  | .linkctlTicksrc _ ci => ci.wf
  | .linkctlQcfg _ ci => ci.wf
  | .linkctlBufcfg _ ci => ci.wf
  | .linkctlOrder _ ci => ci.wf
  | .linkctlTrunk _ ci => ci.wf
  | .linkctlShaper _ ci => ci.wf
  | .linkctlPolicer _ ci => ci.wf
  | .linkctlLoadcfg _ ci => ci.wf
  | .linkctlEgress _ ci => ci.wf
  | .linkctlManager _ ci => ci.wf
  | .linkctlTraycfg _ ci => ci.wf
  | .linkctlRemote _ ci => ci.wf
  | .calsetApply _ ci => ci.wf
  | .calsetRemove _ ci => ci.wf
  | .calsetSave _ ci => ci.wf
  | .calsetSaveDone _ _ => true
  | .submit _ => true
  | .programImageLoaded _ => true
  | .ld _ => true
  | .st _ => true
  | .stLostclr _ => true
  | .move _ => true
  | .fill _ => true
  | .prefetch _ => true
  | .aadd _ => true
  | .amin _ => true
  | .amax _ => true
  | .acas _ => true
  | .rjoin _ => true
  | .rcontrib _ => true
  | .rwait _ => true
  | .gather _ => true
  | .scatter _ => true
  | .mcast _ => true
  | .fscan _ => true
  | .tallyClear _ => true
  | .tallyAccum _ => true
  | .tallyMerge _ => true
  | .tallyImage _ => true
  | .tallyFinal _ => true
  | .score _ => true
  | .simb _ => true
  | .publish _ => true
  | .publishDecision _ => true
  | .publishComplete _ => true
  | .hint _ => true
  | .pin _ => true
  | .loop _ => true
  | .endloop _ => true
  | .skip _ => true
  | .waitt _ => true
  | .waittExpiry _ => true
  | .fence _ => true
  | .yield _ => true
  | .endProg _ => true
  | .sliceStart _ _ => true
  | .sliceOverrun _ _ _ => true
  | .sliceAbort _ _ => true
  | .contextSettled _ => true
  | .contextPark _ => true
  | .contextBringIn _ => true
  | .streamConsPoll _ => true
  | .dataFlit _ f => f.wf
  | .idleFlit _ f => f.wf
  | .alignDone _ => true
  | .replayTimeout _ => true
  | .lanesLocked _ _ => true
  | .trainTimeout _ => true
  | .alignTimeout _ => true
  | .retrainSuccess _ => true
  | .retrainTimeout _ => true
  | .lossOfSignal _ => true
  | .jreq _ f => f.wf
  | .jconfirm _ f => f.wf
  | .jconfirmTimeout _ => true
  | .joinDecisionTimeout _ => true
  | .jreqResend _ _ => true
  | .probeSend _ _ => true
  | .probe _ f _ _ => f.wf
  | .echo _ f _ => f.wf
  | .notice _ (.packet _) => true
  | .notice _ (.join f) => f.wf
  | .cableIn _ => true
  | .cableOut _ => true
  | .packetIngress _ tc => decide (tc ≠ 7)
  | .queueAdmissionRetry p => p.wf
  | .reseqGapTimeout _ tc => decide (tc ≠ 7)
  | .packetEgress _ _ => true
  | .ldRequest _ => true
  | .stRequest _ => true
  | .atRequest _ => true
  | .pflistRequest _ => true
  | .rdshared _ => true
  | .rdown _ => true
  | .wrinv _ => true
  | .wrback _ => true
  | .evict _ => true
  | .lostclr _ => true
  | .snpresp _ => true
  | .snprespd _ => true
  | .conflictTableServe _ => true
  | .hotPinEnd _ _ => true
  | .snoopSlow _ _ => true
  | .deathWalkDone _ _ => true
  | .nakResponse _ => true
  | .lddataResponse _ => true
  | .stdoneResponse _ => true
  | .atdoneResponse _ => true
  | .pfdataResponse _ => true
  | .requestResend _ _ => true
  | .requestTimeout _ _ => true
  | .tagHoldEnd _ _ _ => true
  | .replayCacheExpiry _ => true
  | .drainWindowEnd _ => true
  | .homeEntryArrival _ _ => true
  | .contrib _ => true
  | .partialSum _ => true
  | .slicego _ => true
  | .sliceOpen _ _ => true
  | .sliceDeliveryDone _ _ => true
  | .collEnd _ => true
  | .collectiveDeadline _ _ => true
  | .endWaitTimeout _ _ => true
  | .collReservationRelease _ _ => true
  | .tickBoundary _ => true
  | .healthSubwindowDrop => true
  | .accAging _ => true
  | .tickMarker _ _ _ => true
  | .tickInEdge _ => true
  | .markerLossTimeout => true
  | .holdoverExpiry => true
  | .migrationChunkCopy _ _ _ => true
  | .pageEviction _ _ => true
  | .pagePromotion _ _ => true
  | .recallWalkDone _ => true
  | .frameScrubbed _ tier => decide (tier ≠ 0)
  | .blockScrubDone _ => true
  | .trayScrubDone _ => true
  | .trayCableIn _ => true
  | .trayCableOut _ => true
  | .trayReady _ _ _ => true
  | .trayRetrainFail _ => true
  | .attnPressBegin _ => true
  | .attnPressEnd _ => true
  | .attnLongPress _ => true
  | .latchOpen => true
  | .latchClose => true
  | .caseOpen => true
  | .voltageGlitch => true
  | .temperatureGlitch => true
  | .pwReqP0 _ v => decide (pwReqOf v = 0)
  | .pwReqP2 _ v => decide (pwReqOf v = 2)
  | .pwReqP3 _ v => decide (pwReqOf v = 3)
  | .pwReqP4 _ v => decide (pwReqOf v = 4)
  | .pwReqSwreset _ v => decide (pwReqOf v = 7)
  | .powerTransitionDone => true
  | .p1IdleEntry => true
  | .thermalWarning _ _ => true
  | .thermalRecovery _ _ => true
  | .thermalShutdown _ _ => true
  | .stackThrottle _ _ => true
  | .throttleExit _ _ => true
  | .sensorWarning _ _ => true
  | .pwrGoodAssert => true
  | .pwrGoodDeassert => true
  | .squarePowerLoss => true
  | .modResetAssert => true
  | .modResetRelease => true
  | .watchdog => true
  | .startupStepDone _ _ => true
  | .stackTrainingDone _ _ _ => true
  | .crystalStable => true
  | .crystalRetry => true
  | .clockSourceLoss _ => true
  | .pcieHotReset => true
  | .i3cTargetReset => true
  | .i3cRegisterAccess req => decide (req.length = 16)
  | .registerWrite _ off width _ => decide ((width = 4 ∨ width = 8) ∧ off.toNat % width = 0)
  | .sqSelfWrite _ _ => true
  | .ckPeriphEnWrite _ _ => true
  | .sqLedCtlWrite _ _ => true
  | .spdmGetVersion _ => true
  | .spdmGetCapabilities _ => true
  | .spdmNegotiateAlgorithms _ _ _ => true
  | .spdmGetDigests _ => true
  | .spdmGetCertificate _ _ => true
  | .spdmChallenge _ _ _ => true
  | .spdmGetMeasurements _ _ _ _ => true
  | .spdmLcset _ _ _ => true
  | .jtagUnlock _ _ => true
  | .jtagLock _ => true
  | .uncorrectableError site => site.wf
  | .correctedError site _ => site.wf
  | .engineUnresponsive _ _ => true
  | .tagPoolRebuild _ _ => true
  | .reservedOpcode _ => true
  | .joinReply _ f => f.wf
  | .wrdoneResponse _ => true
  | .ctlwGoWrite _ _ => true
  | .trayTrainFail _ => true
  | .trayLinkLoss _ => true
  | .sensorWarningClear _ _ => true
  | .dividerRampDone domain => decide (domain.toNat < 18)

end Sys2Proof
end

