-- ==== Sys2Proof/Tests/Slice0.lean ====
section
/-! SUPPORT. Small tests: the checks of WellFormed refuse ill-formed commands, and every statement with hypotheses has a state that meets them. -/

namespace Sys2Proof.Tests
set_option Elab.async false
open Sys2Proof Sys2Proof.Machine

/-! ### Small states -/

/-- An operating machine: start-up is over. -/
def up : State := { State.reset with boot := { State.reset.boot with step := 6 }, selfEid := 0x020, selfInc := 1 }

/-- A control instruction with `imm` and arguments. -/
def insn (modf imm : Nat) (args : List Slot) : CtlInsn :=
  { modf := BitVec.ofNat 8 modf, rsv := 0, arglen := BitVec.ofNat 12 args.length, imm := BitVec.ofNat 72 imm, args := args }

/-- A state with that instruction submitted through the PCIe window. -/
def asked (s : State) (ci : CtlInsn) (opc sub : Nat) : State := { s with ctlq := [(.pcie, ci.word opc sub, ci.args)] }

def pcieCaller (ci : CtlInsn) : Caller := { via := .pcie, ci := ci }

/-- Partition 0 over Block 0. -/
def onePart (st : PartState) (job : JobId) : State :=
  { up with parts := [(0, { state := st, blocks := 1, job := job })], blks := [(0, { state := .member })] }


/-! ### Control instructions: states in which each is ready and passes its checks -/

def ciBind : CtlInsn := insn 0 (2 ^ 6 * 0x312 + 2 ^ 22 * 0x020 + 2 ^ 34 * 0x3FF) [BitVec.ofNat 128 (0x7D0 + 2 ^ 16 * 0x20 + 2 ^ 24 * 0x40 + 2 ^ 48 * 0x40)]
theorem test_meets_bind : CtlReady (asked (onePart .ready 0) ciBind 0x80 0) .pcie ciBind 0x80 0 (pcieCaller ciBind)
    ∧ bindCheck ciBind ((asked (onePart .ready 0) ciBind 0x80 0).sinks .pcie) = stOk
    ∧ CtlInsn.f ciBind 22 12 = ((asked (onePart .ready 0) ciBind 0x80 0).sinks .pcie).selfEid.toNat := ⟨⟨⟨by decide, by decide⟩, by decide⟩, by decide, by decide⟩

def ciRoute : CtlInsn := insn 0 0x312 [BitVec.ofNat 128 (0x1A4 + 2 ^ 16 * 132)]
theorem test_meets_route : CtlReady (asked (onePart .bound 0x312) ciRoute 0x80 1) .pcie ciRoute 0x80 1 (pcieCaller ciRoute)
    ∧ routeCheck ciRoute ((asked (onePart .bound 0x312) ciRoute 0x80 1).sinks .pcie) = stOk := ⟨⟨⟨by decide, by decide⟩, by decide⟩, by decide⟩

def ciGroup : CtlInsn := insn 0 (0x312 + 2 ^ 16 * 0x800) [1]
theorem test_meets_group : CtlReady (asked (onePart .bound 0x312) ciGroup 0x80 2) .pcie ciGroup 0x80 2 (pcieCaller ciGroup)
    ∧ groupCheck ciGroup ((asked (onePart .bound 0x312) ciGroup 0x80 2).sinks .pcie) = stOk := ⟨⟨⟨by decide, by decide⟩, by decide⟩, by decide⟩

def ciCommit : CtlInsn := insn 1 0x312 []
theorem test_meets_commit : CtlReady (asked (onePart .bound 0x312) ciCommit 0x80 3) .pcie ciCommit 0x80 3 (pcieCaller ciCommit)
    ∧ commitCheck ciCommit ((asked (onePart .bound 0x312) ciCommit 0x80 3).sinks .pcie) = stOk
    ∧ ((asked (onePart .bound 0x312) ciCommit 0x80 3).sinks .pcie).partOfJob (CtlInsn.job ciCommit) = some 0 := ⟨⟨⟨by decide, by decide⟩, by decide⟩, by decide, by decide⟩

def killedPart : State := (onePart .bound 0x312).updPart 0 (fun x => { x with killed := true })
def ciUnbind : CtlInsn := insn 0 0x312 []
theorem test_meets_unbind : CtlReady (asked killedPart ciUnbind 0x80 4) .pcie ciUnbind 0x80 4 (pcieCaller ciUnbind)
    ∧ unbindCheck ciUnbind ((asked killedPart ciUnbind 0x80 4).sinks .pcie) = stOk
    ∧ ((asked killedPart ciUnbind 0x80 4).sinks .pcie).partOfJob (CtlInsn.job ciUnbind) = some 0 := ⟨⟨⟨by decide, by decide⟩, by decide⟩, by decide, by decide⟩

def freeBlk : State := { up with blks := [(0, { state := .free }), (63, { state := .free })] }
def ciCreate : CtlInsn := insn 0 63 [BitVec.ofNat 128 (1 + 2 ^ 63), 8]
theorem test_meets_create : CtlReady (asked freeBlk ciCreate 0x81 0) .pcie ciCreate 0x81 0 (pcieCaller ciCreate)
    ∧ createRow ciCreate ((asked freeBlk ciCreate 0x81 0).sinks .pcie) = stOk := ⟨⟨⟨by decide, by decide⟩, by decide⟩, by decide⟩

def growing (st : PartState) : State := { onePart st (if st = .bound then 0x312 else 0) with blks := [(0, { state := .member }), (1, { state := .free })] }
def ciResize : CtlInsn := insn 0 0 [3]
theorem test_meets_resize : CtlReady (asked (growing .ready) ciResize 0x81 1) .pcie ciResize 0x81 1 (pcieCaller ciResize)
    ∧ resizeRow ciResize ((asked (growing .ready) ciResize 0x81 1).sinks .pcie) = stOk := ⟨⟨⟨by decide, by decide⟩, by decide⟩, by decide⟩
theorem test_meets_resize_staged : CtlReady (asked (growing .bound) ciResize 0x81 1) .pcie ciResize 0x81 1 (pcieCaller ciResize)
    ∧ resizeRow ciResize ((asked (growing .bound) ciResize 0x81 1).sinks .pcie) = stOk
    ∧ (((asked (growing .bound) ciResize 0x81 1).sinks .pcie).part 0).state = .bound := ⟨⟨⟨by decide, by decide⟩, by decide⟩, by decide, by decide⟩

def ciPart : CtlInsn := insn 0 0 []
theorem test_meets_release : CtlReady (asked (onePart .ready 0) ciPart 0x81 2) .pcie ciPart 0x81 2 (pcieCaller ciPart)
    ∧ formed (CtlInsn.form ciPart 6 0 (· = 0)) (((asked (onePart .ready 0) ciPart 0x81 2).sinks .pcie).clearCheck 0) = stOk := ⟨⟨⟨by decide, by decide⟩, by decide⟩, by decide⟩
theorem test_meets_scrub : CtlReady (asked (onePart .ready 0) ciPart 0x83 0) .pcie ciPart 0x83 0 (pcieCaller ciPart)
    ∧ formed (CtlInsn.form ciPart 6 0 (· = 0)) (((asked (onePart .ready 0) ciPart 0x83 0).sinks .pcie).clearCheck 0) = stOk := ⟨⟨⟨by decide, by decide⟩, by decide⟩, by decide⟩

def trayed (st : TrayState) : State :=
  { onePart .ready 0 with trays := [(15, { state := st })], parts := [(0, { state := .ready, blocks := 1, trays := if st = .ready then 0 else 0x8000 })] }
def ciTray (on : Nat) : CtlInsn := insn 0 (2 ^ 6 * 15 + 2 ^ 10 * on) []
theorem test_meets_tray_assign : CtlReady (asked (trayed .ready) (ciTray 1) 0x81 3) .pcie (ciTray 1) 0x81 3 (pcieCaller (ciTray 1))
    ∧ formed (CtlInsn.form (ciTray 1) 11 0 (· = 0)) (((asked (trayed .ready) (ciTray 1) 0x81 3).sinks .pcie).trayCheck 0 15 true) = stOk := ⟨⟨⟨by decide, by decide⟩, by decide⟩, by decide⟩
theorem test_meets_tray_return : CtlReady (asked (trayed .assigned) (ciTray 0) 0x81 3) .pcie (ciTray 0) 0x81 3 (pcieCaller (ciTray 0))
    ∧ formed (CtlInsn.form (ciTray 0) 11 0 (· = 0)) (((asked (trayed .assigned) (ciTray 0) 0x81 3).sinks .pcie).trayCheck 0 15 false) = stOk := ⟨⟨⟨by decide, by decide⟩, by decide⟩, by decide⟩

/-- BANKGIVE of bank 15 of Block 0 from slot 0 to slot 1. -/
def ciBank : CtlInsn := insn 0 (2 ^ 6 * 0x8000 + 2 ^ 27 * 1) []
theorem test_meets_bankgive : CtlReady (asked (onePart .bound 0x312) ciBank 0x82 0) .pcie ciBank 0x82 0 (pcieCaller ciBank)
    ∧ bankCheck ciBank ((asked (onePart .bound 0x312) ciBank 0x82 0).sinks .pcie) = stOk
    ∧ (((asked (onePart .bound 0x312) ciBank 0x82 0).sinks .pcie).dropCtl .pcie).mayGive (bgBlk ciBank) (bgMask ciBank) (bgFrom ciBank) = true := ⟨⟨⟨by decide, by decide⟩, by decide⟩, by decide, by decide⟩
/-- The giver has a reply outstanding into the bank: the instruction waits. -/
def loading : State :=
  (onePart .bound 0x312).updCtx 0 (fun x => { x with state := .ready, reqs := [{ id := 1, eng := 0, instr := 0, seq := 0, pos := 0, dest := .bank (15 * 524288) 16, msg := { pkt := {} }, first := 0, last := 0, tagged := false, remote := false }] })
theorem test_meets_bankgive_waits : CtlReady (asked loading ciBank 0x82 0) .pcie ciBank 0x82 0 (pcieCaller ciBank)
    ∧ bankCheck ciBank ((asked loading ciBank 0x82 0).sinks .pcie) = stOk
    ∧ (((asked loading ciBank 0x82 0).sinks .pcie).dropCtl .pcie).mayGive (bgBlk ciBank) (bgMask ciBank) (bgFrom ciBank) = false := ⟨⟨⟨by decide, by decide⟩, by decide⟩, by decide, by decide⟩
def giving : Give := { by' := pcieCaller ciBank, mask := 0x8000, giver := some 0, taker := some 15 }
theorem test_meets_handover : let s := (onePart .bound 0x312).updBlk 0 (fun b => { b with give := some giving })
    (s.blk (0 : BlockId).toNat).give = some giving ∧ s.mayGive (0 : BlockId).toNat giving.mask giving.giver = true ∧ ∀ k ∈ giving.taker, k < 16 := by decide

def ciJob : CtlInsn := insn 0 0x312 []
theorem test_meets_jobkill : CtlReady (asked (onePart .bound 0x312) ciJob 0x84 0) .pcie ciJob 0x84 0 (pcieCaller ciJob)
    ∧ killCheck ciJob ((asked (onePart .bound 0x312) ciJob 0x84 0).sinks .pcie) = stOk := ⟨⟨⟨by decide, by decide⟩, by decide⟩, by decide⟩
def withCtx (st : CtxState) : State := (onePart .bound 0x312).updCtx 15 (fun x => { x with state := st })
def ciCtx : CtlInsn := insn 0 15 []
theorem test_meets_park : CtlReady (asked (withCtx .ready) ciCtx 0x85 0) .pcie ciCtx 0x85 0 (pcieCaller ciCtx)
    ∧ parkCheck ciCtx ((asked (withCtx .ready) ciCtx 0x85 0).sinks .pcie) = ((asked (withCtx .ready) ciCtx 0x85 0).sinks .pcie, .st stOk) := ⟨⟨⟨by decide, by decide⟩, by decide⟩, by decide⟩
theorem test_meets_resume : CtlReady (asked (withCtx .held) ciCtx 0x85 1) .pcie ciCtx 0x85 1 (pcieCaller ciCtx)
    ∧ resumeCheck ciCtx ((asked (withCtx .held) ciCtx 0x85 1).sinks .pcie) = stOk := ⟨⟨⟨by decide, by decide⟩, by decide⟩, by decide⟩

/-- Page 0x400 lies in the bulk tier, its page-table entry read before. -/
def paged : State :=
  (onePart .bound 0x312).updPart 0 (fun x => { x with ptv := true, usedBulk := 1, pages := [(0x400, { state := .placed, tier := 2 })], tcache := [(0x400, { v := true, dev := 0x020 })] })
def ciMove (tier : Nat) : CtlInsn := insn 0 (0x312 + 2 ^ 16 * 0x400 + 2 ^ 40 * tier) []
theorem test_meets_move : CtlReady (asked paged (ciMove 1) 0x86 0) .pcie (ciMove 1) 0x86 0 (pcieCaller (ciMove 1))
    ∧ (moveCheck (ciMove 1) ((asked paged (ciMove 1) 0x86 0).sinks .pcie)).2 = .st stOk
    ∧ ((asked paged (ciMove 1) 0x86 0).sinks .pcie).partOfJob (CtlInsn.job (ciMove 1)) = some 0 := ⟨⟨⟨by decide, by decide⟩, by decide⟩, by decide, by decide⟩
theorem test_meets_move_there : CtlReady (asked paged (ciMove 2) 0x86 0) .pcie (ciMove 2) 0x86 0 (pcieCaller (ciMove 2))
    ∧ (moveCheck (ciMove 2) ((asked paged (ciMove 2) 0x86 0).sinks .pcie)).2 = .st stOk := ⟨⟨⟨by decide, by decide⟩, by decide⟩, by decide⟩
def ciFree : CtlInsn := insn 0 (0x312 + 2 ^ 16 * 0x400) []
theorem test_meets_page_release : CtlReady (asked paged ciFree 0x86 1) .pcie ciFree 0x86 1 (pcieCaller ciFree)
    ∧ (pageFreeCheck ciFree ((asked paged ciFree 0x86 1).sinks .pcie)).2 = .st stOk
    ∧ ((asked paged ciFree 0x86 1).sinks .pcie).partOfJob (CtlInsn.job ciFree) = some 0 := ⟨⟨⟨by decide, by decide⟩, by decide⟩, by decide, by decide⟩
def ciEvac : CtlInsn := insn 0 15 []
theorem test_meets_evacuate : CtlReady (asked (trayed .assigned) ciEvac 0x86 2) .pcie ciEvac 0x86 2 (pcieCaller ciEvac)
    ∧ evacCheck ciEvac ((asked (trayed .assigned) ciEvac 0x86 2).sinks .pcie) = stOk := ⟨⟨⟨by decide, by decide⟩, by decide⟩, by decide⟩
def ciConfig : CtlInsn := insn 0 0 [BitVec.ofNat 128 (100 + 2 ^ 16 * 200 + 2 ^ 32 * 15 + 2 ^ 36 * 3 + 2 ^ 44 * 255)]
theorem test_meets_config : CtlReady (asked (onePart .ready 0) ciConfig 0x86 3) .pcie ciConfig 0x86 3 (pcieCaller ciConfig)
    ∧ poolCheck ciConfig ((asked (onePart .ready 0) ciConfig 0x86 3).sinks .pcie) = stOk := ⟨⟨⟨by decide, by decide⟩, by decide⟩, by decide⟩

/-! LINKCTL -/

/-- The least credits of every class. -/
def credits : Tbl (BitVec 16) := [(0, 260), (1, 260), (2, 260), (3, 260), (4, 260), (5, 260), (6, 260), (7, 16)]
/-- Lane 132 as a 4-lane port in a state. -/
def ported (st : PortState) : State := { up with ports := [(132, { state := st, width := 2, adv := credits, advCur := credits, peerEid := 0x1A4, peerInc := 7, role := 2 })] }
def ciPortOn : CtlInsn := insn 0 (132 + 2 ^ 9 * 2 + 2 ^ 13) []
def ciPortOff : CtlInsn := insn 0 (132 + 2 ^ 9 * 2) []
def ciPortWide : CtlInsn := insn 0 (136 + 2 ^ 9 * 3 + 2 ^ 11) []
/-- … with the least MIN of its queues. -/
def minned : State := { ported .disabled with qs := [(1, { queues := (List.range 7).map (fun k => (nPort 132 k, { min := 36 })) })] }
theorem test_meets_portcfg_on : CtlReady (asked minned ciPortOn 0x87 0) .pcie ciPortOn 0x87 0 (pcieCaller ciPortOn)
    ∧ portcfgCheck ciPortOn ((asked minned ciPortOn 0x87 0).sinks .pcie) = stOk := ⟨⟨⟨by decide, by decide⟩, by decide⟩, by decide⟩
theorem test_meets_portcfg_off : CtlReady (asked (ported .active) ciPortOff 0x87 0) .pcie ciPortOff 0x87 0 (pcieCaller ciPortOff)
    ∧ portcfgCheck ciPortOff ((asked (ported .active) ciPortOff 0x87 0).sinks .pcie) = stOk := ⟨⟨⟨by decide, by decide⟩, by decide⟩, by decide⟩
theorem test_meets_portcfg_change : CtlReady (asked (ported .active) ciPortWide 0x87 0) .pcie ciPortWide 0x87 0 (pcieCaller ciPortWide)
    ∧ portcfgCheck ciPortWide ((asked (ported .active) ciPortWide 0x87 0).sinks .pcie) = stOk
    ∧ ((asked (ported .active) ciPortWide 0x87 0).sinks .pcie).cfgChanges (portCfgOf ciPortWide) = true := ⟨⟨⟨by decide, by decide⟩, by decide⟩, by decide, by decide⟩
def ciLane : CtlInsn := insn 0 132 []
theorem test_meets_restart : CtlReady (asked (ported .active) ciLane 0x87 1) .pcie ciLane 0x87 1 (pcieCaller ciLane)
    ∧ restartCheck ciLane ((asked (ported .active) ciLane 0x87 1).sinks .pcie) = stOk := ⟨⟨⟨by decide, by decide⟩, by decide⟩, by decide⟩
def ciCredit : CtlInsn := insn 0 132 [BitVec.ofNat 128 (((List.range 7).map (fun k => 300 * 2 ^ (16 * k))).sum + 16 * 2 ^ 112)]
theorem test_meets_credit : CtlReady (asked (ported .disabled) ciCredit 0x87 2) .pcie ciCredit 0x87 2 (pcieCaller ciCredit)
    ∧ creditCheck ciCredit ((asked (ported .disabled) ciCredit 0x87 2).sinks .pcie) = stOk := ⟨⟨⟨by decide, by decide⟩, by decide⟩, by decide⟩
def joinReq : JoinReq := { eid := 0x1A4, inc := 7, role := 0, nonce := 9, pending := true, decided := false, since := 0 }
def admitting : State := (ported .joining).updPort 132 (fun p => { p with jreq := some joinReq, role := 0 })
def ciAdmit (ok : Nat) : CtlInsn := insn 0 (132 + 2 ^ 9 * 0x1A4 + 2 ^ 21 * 7 + 2 ^ 29 * 0x312 + 2 ^ 45 * ok) []
theorem test_meets_admit : CtlReady (asked admitting (ciAdmit 1) 0x87 3) .pcie (ciAdmit 1) 0x87 3 (pcieCaller (ciAdmit 1))
    ∧ admitCheck (ciAdmit 1) ((asked admitting (ciAdmit 1) 0x87 3).sinks .pcie) = stOk
    ∧ (((asked admitting (ciAdmit 1) 0x87 3).sinks .pcie).port 132).jreq = some joinReq := ⟨⟨⟨by decide, by decide⟩, by decide⟩, by decide, by decide⟩
theorem test_meets_deny : CtlReady (asked admitting (ciAdmit 0) 0x87 3) .pcie (ciAdmit 0) 0x87 3 (pcieCaller (ciAdmit 0))
    ∧ admitCheck (ciAdmit 0) ((asked admitting (ciAdmit 0) 0x87 3).sinks .pcie) = stOk
    ∧ (((asked admitting (ciAdmit 0) 0x87 3).sinks .pcie).port 132).jreq = some joinReq := ⟨⟨⟨by decide, by decide⟩, by decide⟩, by decide, by decide⟩
def ciTrunkent : CtlInsn := insn 0 (132 + 2 ^ 9 * 0x1A4 + 2 ^ 21 * 7) []
theorem test_meets_trunkent : CtlReady (asked (ported .active) ciTrunkent 0x87 4) .pcie ciTrunkent 0x87 4 (pcieCaller ciTrunkent)
    ∧ formed (CtlInsn.form ciTrunkent 29 0 (· = 0) && ((asked (ported .active) ciTrunkent 0x87 4).sinks .pcie).lowest 132) stOk = stOk := ⟨⟨⟨by decide, by decide⟩, by decide⟩, by decide⟩
def ciDead : CtlInsn := insn 0 (0x1A4 + 2 ^ 12 * 7) []
theorem test_meets_dead_port : ((ported .active).port 132).enabled = true ∧ ((ported .active).port 132).role ≠ 0 ∧ ((ported .active).port 132).peerEid = 0x1A4 := by decide
theorem test_meets_dead : CtlReady (asked (ported .active) ciDead 0x87 5) .pcie ciDead 0x87 5 (pcieCaller ciDead)
    ∧ formed (CtlInsn.form ciDead 20 0 (· = 0) && CtlInsn.f ciDead 0 12 ≠ 0xFFF) stOk = stOk := ⟨⟨⟨by decide, by decide⟩, by decide⟩, by decide⟩
def ciTrunk : CtlInsn := insn 0 31 [BitVec.ofNat 128 (132 + 2 ^ 16 * 0xFFFF)]
theorem test_meets_trunk : CtlReady (asked (ported .active) ciTrunk 0x87 10) .pcie ciTrunk 0x87 10 (pcieCaller ciTrunk)
    ∧ trunkCheck ciTrunk ((asked (ported .active) ciTrunk 0x87 10).sinks .pcie) = stOk := ⟨⟨⟨by decide, by decide⟩, by decide⟩, by decide⟩
def ciRemote (set : Nat) : CtlInsn := insn 0 (0x055 + 2 ^ 12 * 3 + 2 ^ 20 * set) []
theorem test_meets_remote (n : Fin 2) : CtlReady (asked up (ciRemote n.val) 0x87 17) .pcie (ciRemote n.val) 0x87 17 (pcieCaller (ciRemote n.val))
    ∧ remoteCheck (ciRemote n.val) ((asked up (ciRemote n.val) 0x87 17).sinks .pcie) = stOk := by
  match n with | 0 => exact ⟨⟨⟨by decide, by decide⟩, by decide⟩, by decide⟩ | 1 => exact ⟨⟨⟨by decide, by decide⟩, by decide⟩, by decide⟩

def ciTicksrc (load : Nat) : CtlInsn := insn 0 (3 + 2 ^ 2 * load) [BitVec.ofNat 128 (2 ^ 64 - 1)]
theorem test_meets_ticksrc (n : Fin 2) : CtlReady (asked up (ciTicksrc n.val) 0x87 6) .pcie (ciTicksrc n.val) 0x87 6 (pcieCaller (ciTicksrc n.val))
    ∧ ticksrcCheck (ciTicksrc n.val) ((asked up (ciTicksrc n.val) 0x87 6).sinks .pcie) = stOk := by
  match n with | 0 => exact ⟨⟨⟨by decide, by decide⟩, by decide⟩, by decide⟩ | 1 => exact ⟨⟨⟨by decide, by decide⟩, by decide⟩, by decide⟩
def ciQcfg : CtlInsn := insn 0 (1 + 2 ^ 2 * 34 + 2 ^ 13 * 40 + 2 ^ 31 * 7) []
theorem test_meets_qcfg : CtlReady (asked (ported .active) ciQcfg 0x87 7) .pcie ciQcfg 0x87 7 (pcieCaller ciQcfg)
    ∧ qcfgCheck ciQcfg ((asked (ported .active) ciQcfg 0x87 7).sinks .pcie) = stOk := ⟨⟨⟨by decide, by decide⟩, by decide⟩, by decide⟩
def ciBufcfg : CtlInsn := insn 0 (3 + 2 ^ 2 * 36) []
theorem test_meets_bufcfg : CtlReady (asked up ciBufcfg 0x87 8) .pcie ciBufcfg 0x87 8 (pcieCaller ciBufcfg)
    ∧ bufcfgCheck ciBufcfg ((asked up ciBufcfg 0x87 8).sinks .pcie) = stOk := ⟨⟨⟨by decide, by decide⟩, by decide⟩, by decide⟩
def ciOrder : CtlInsn := insn 0 (4 + 2 ^ 7 * 255) []
theorem test_meets_order : CtlReady (asked up ciOrder 0x87 9) .pcie ciOrder 0x87 9 (pcieCaller ciOrder)
    ∧ orderCheck ciOrder ((asked up ciOrder 0x87 9).sinks .pcie) = stOk := ⟨⟨⟨by decide, by decide⟩, by decide⟩, by decide⟩
def ciShaper : CtlInsn := insn 0 (1 + 2 ^ 2 * 34 + 2 ^ 13 * 65535 + 2 ^ 29 * 65535) []
theorem test_meets_shaper : CtlReady (asked (ported .active) ciShaper 0x87 11) .pcie ciShaper 0x87 11 (pcieCaller ciShaper)
    ∧ shaperCheck ciShaper ((asked (ported .active) ciShaper 0x87 11).sinks .pcie) = stOk := ⟨⟨⟨by decide, by decide⟩, by decide⟩, by decide⟩
def ciPolicer : CtlInsn := insn 0 (132 + 2 ^ 9 * 6 + 2 ^ 12 * 1 + 2 ^ 28 * 260) []
theorem test_meets_policer : CtlReady (asked (ported .active) ciPolicer 0x87 12) .pcie ciPolicer 0x87 12 (pcieCaller ciPolicer)
    ∧ policerCheck ciPolicer ((asked (ported .active) ciPolicer 0x87 12).sinks .pcie) = stOk := ⟨⟨⟨by decide, by decide⟩, by decide⟩, by decide⟩
def ciLoad : CtlInsn := insn 0 (2 + 2 ^ 2 * 1023 + 2 ^ 12 * 1) []
theorem test_meets_loadcfg : CtlReady (asked up ciLoad 0x87 13) .pcie ciLoad 0x87 13 (pcieCaller ciLoad)
    ∧ formed (CtlInsn.form ciLoad 28 0 (· = 0) && CtlInsn.f ciLoad 2 10 ≠ 0 && CtlInsn.f ciLoad 12 16 ≠ 0) stOk = stOk := ⟨⟨⟨by decide, by decide⟩, by decide⟩, by decide⟩
def ciEgress : CtlInsn := insn 0 (132 + 2 ^ 9 * 0x1F2F1) []
theorem test_meets_egress : CtlReady (asked (ported .active) ciEgress 0x87 14) .pcie ciEgress 0x87 14 (pcieCaller ciEgress)
    ∧ formed (CtlInsn.form ciEgress 29 0 (· = 0) && ((asked (ported .active) ciEgress 0x87 14).sinks .pcie).lowest 132
        && (List.range 5).all (fun i => CtlInsn.f ciEgress (9 + 4 * i) 4 ≠ 0)) stOk = stOk := ⟨⟨⟨by decide, by decide⟩, by decide⟩, by decide⟩
def ciManager : CtlInsn := insn 0 (0xFFE + 2 ^ 12) []
theorem test_meets_manager : CtlReady (asked up ciManager 0x87 15) .pcie ciManager 0x87 15 (pcieCaller ciManager)
    ∧ formed (CtlInsn.form ciManager 13 0 (· = 0) && CtlInsn.f ciManager 0 12 ≠ 0xFFF) stOk = stOk := ⟨⟨⟨by decide, by decide⟩, by decide⟩, by decide⟩
def ciTraycfg : CtlInsn := insn 0 (15 + 2 ^ 4 + 2 ^ 5) []
theorem test_meets_traycfg : CtlReady (asked up ciTraycfg 0x87 16) .pcie ciTraycfg 0x87 16 (pcieCaller ciTraycfg)
    ∧ traycfgCheck ciTraycfg ((asked up ciTraycfg 0x87 16).sinks .pcie) = stOk := ⟨⟨⟨by decide, by decide⟩, by decide⟩, by decide⟩

/-! CALSET -/

def ciApply : CtlInsn := insn 0 0 [BitVec.ofNat 128 (1 + 2 ^ 8 * 2)]
theorem test_meets_apply : CtlReady (asked up ciApply 0x88 0) .pcie ciApply 0x88 0 (pcieCaller ciApply) ∧ CtlInsn.form ciApply 0 0 (1 ≤ ·) = true
    ∧ (CtlInsn.applied ciApply ((asked up ciApply 0x88 0).sinks .pcie).calset).isSome = true := ⟨⟨⟨by decide, by decide⟩, by decide⟩, by decide, by decide⟩
def ciRemove : CtlInsn := insn 1 0 []
theorem test_meets_remove : CtlReady (asked up ciRemove 0x88 1) .pcie ciRemove 0x88 1 (pcieCaller ciRemove) ∧ CtlInsn.form ciRemove 24 1 (· = 0) = true
    ∧ CtlInsn.removed ciRemove ((asked up ciRemove 0x88 1).sinks .pcie).calset = some [] := ⟨⟨⟨by decide, by decide⟩, by decide⟩, by decide, by decide⟩
def ciSave : CtlInsn := insn 0 0 []
theorem test_meets_save : CtlReady (asked up ciSave 0x88 2) .pcie ciSave 0x88 2 (pcieCaller ciSave) ∧ CtlInsn.form ciSave 0 0 (· = 0) = true
    ∧ ((asked up ciSave 0x88 2).sinks .pcie).save = none ∧ ((asked up ciSave 0x88 2).sinks .pcie).pw.spi = true := ⟨⟨⟨by decide, by decide⟩, by decide⟩, by decide, by decide, by decide⟩
theorem test_meets_save_done : { up with save := some (pcieCaller ciSave) }.save = some (pcieCaller ciSave) := rfl

/-! Gates -/

def ciAny : CtlInsn := insn 0 0 []
/-- A CTLI at the head of the Square queue of Quarter 3 from an EID that is no manager. -/
def stranger : State :=
  { up with ctlq := [(.tc0 3, ciAny.word 0x86 2, [])] }.updQueue 3 nSquare (fun x => { x with pkts := [{ msg := { pkt := { seid := 0x1A4, data := [ciAny.word 0x86 2] } }, cells := 1, fromMin := 1, mc := none, tick := 0, ns := 0, started := false }] })
def strangerCaller : Caller := { via := .tc0 3, ci := ciAny, pkt := { seid := 0x1A4, data := [ciAny.word 0x86 2] } }
theorem test_meets_stranger : CtlHead stranger (.tc0 3) ciAny 0x86 2 strangerCaller ∧ strangerCaller.via = .tc0 3
    ∧ strangerCaller.pkt.seid.toNat ∉ (stranger.sinks (.tc0 3)).mgrs ∧ (stranger.sinks (.tc0 3)).ctlGate strangerCaller 0x86 = some stPerm := ⟨⟨by decide, by decide⟩, rfl, by decide, by decide⟩
theorem test_meets_gate_startup : CtlHead (asked State.reset ciAny 0x86 2) .pcie ciAny 0x86 2 (pcieCaller ciAny)
    ∧ ((asked State.reset ciAny 0x86 2).sinks .pcie).ctlGate (pcieCaller ciAny) 0x86 = some stRetry := ⟨⟨by decide, by decide⟩, by decide⟩

/-! ### Links: states that meet the hypotheses of the statements -/

/-- Lane 511 is a one-lane port as `p` has it. -/
def linked (p : Port) : State := { up with ports := [(511, p)], cage := BitVec.allOnes 64 }
def goodFlit (ftype seq : Nat) : Flit := mkFlit (BitVec.ofNat 64 (ftype + 2 ^ 4 * seq)) []
def badFlit : Flit := { goodFlit 0 0 with fecBad := true }
theorem test_meets_flits : (linked { state := .active }).port 511 = { state := .active } ∧ ((linked { state := .active }).port 511).enabled = true
    ∧ badFlit.slots.length = 15 ∧ badFlit.good = false := by decide
theorem test_meets_data_flit : (goodFlit 0 0xFFF).slots.length = 15 ∧ (goodFlit 0 0xFFF).good = true ∧ (goodFlit 0 0xFFF).headOk = true ∧ (goodFlit 0 0xFFF).ftype = 0
    ∧ sbits (goodFlit 0 0xFFF).hdr 4 12 = 0xFFF ∧ sbits (goodFlit 0 0).hdr 4 12 = 0
    ∧ (goodFlit 1 0).slots.length = 15 ∧ (goodFlit 1 0).good = true ∧ (goodFlit 1 0).headOk = true ∧ (goodFlit 1 0).ftype = 1 :=
  ⟨rfl, mkFlit_good _ _, rfl, rfl, rfl, rfl, rfl, mkFlit_good _ _, rfl, rfl⟩
theorem test_meets_reserved_header : (goodFlit 3 0).slots.length = 15 ∧ (goodFlit 3 0).good = true ∧ (goodFlit 3 0).headOk = false := ⟨rfl, mkFlit_good _ _, rfl⟩
theorem test_meets_unbound_flit : ((linked { state := .down }).port 511).off = 0 ∧ ((linked { state := .down }).port 511).state ≠ .active
    ∧ ((linked { state := .fenced }).port 511).off = 0 ∧ ((linked { state := .fenced }).port 511).state = .fenced := by decide
theorem test_flit_not_fifteen_slots : Machine.exec (.dataFlit 0 { badFlit with slots := [] }) up = .fault .malformedCommand := rfl

def txFlit (n : Nat) : TxFlit := { seq := 0, flit := badFlit, queue := 0, last := true, sends := n }
theorem test_meets_training :
    ((linked { state := .align }).port 511).enabled = true
    ∧ ((linked { state := .active, unacked := [txFlit 5] }).port 511).unacked.any (fun f => decide (5 ≤ f.sends)) = true
    ∧ ((linked { state := .active, unacked := [txFlit 4] }).port 511).unacked.any (fun f => decide (5 ≤ f.sends)) = false
    ∧ ((linked { state := .active, unacked := [txFlit 4] }).port 511).unacked ≠ []
    ∧ ({ state := .train, width := 1, dshen := true } : Port).lanes = 2 ∧ (3 : Nat) % 2 ^ 2 = 2 ^ 2 - 1 ∧ (2 : Nat) % 2 ^ 2 ≠ 2 ^ 2 - 1 ∧ (2 : Nat) % 2 ^ 2 / 2 ^ 1 = 2 ^ 1 - 1
    ∧ ((linked { state := .align, tries := 2 }).port 511).tries < 3 ∧ 3 ≤ ((linked { state := .align, tries := 3 }).port 511).tries
    ∧ (linked { state := .active }).cage.getLsbD (511 / 8) = true := by decide
theorem test_meets_third_retrain :
    (((linked { state := .active, retrains := [0] }).port 511).retrains.filter (fun t => (linked {}).now < endOf t 1000)).length < 2
    ∧ 2 ≤ (((linked { state := .active, retrains := [0, 0] }).port 511).retrains.filter (fun t => (linked {}).now < endOf t 1000)).length := by decide

/-- A join message of an endpoint: EID FFE, incarnation 0, nonce 0. -/
def joining (jtype : Nat) : JoinMsg := { s0 := BitVec.ofNat 128 (jtype + 2 ^ 8 * 0xFFE), s1 := 0, s2 := 0 }
def theirReq : JoinReq := { eid := 0xFFE, inc := 0, role := 0, nonce := 0, pending := true, decided := false, since := 0 }
theorem test_meets_join_flit : (joining 0).legal = true ∧ JoinFlit (joinFlitOf 2 (joining 0)) ∧ (joinFlitOf 2 (joining 0)).join = joining 0 :=
  ⟨by decide, joinFlit_joinFlitOf (by decide), join_joinFlitOf _ _⟩
theorem test_meets_jreq : let b := (linked { state := .active }).joinBase 511 (joinFlitOf 2 (joining 0))
    (joining 0).jtype = 0 ∧ ((linked { state := .hello }).port 511).jreq = none
    ∧ (linked { state := .hello }).joinReason 511 (joining 0) = none ∧ (linked { state := .hello, width := 1 }).joinReason 511 (joining 0) = some 5
    ∧ (linked { state := .joining, width := 1 }).joinReason 511 (joining 0) = some 5
    ∧ (b.port 511).state = .active ∧ (((b.flush 511).toHello 511).port 511).jreq = none ∧ ((b.flush 511).toHello 511).joinReason 511 (joining 0) = none := by decide
def waitingGrant (at' : Nat) : State := linked { state := .joining, grant := some (0xFFE, 0, 0), grantAt := at', jreq := some theirReq }
theorem test_meets_jconfirm : JoinFlit (joinFlitOf 2 (joining 3)) ∧ (joining 3).jtype = 3 ∧ (joining 3).eid = 0xFFE ∧ (joining 3).inc = 0 ∧ (joining 3).nonce = theirReq.nonce
    ∧ (waitingGrant 0).now < endOf ((waitingGrant 0).port 511).grantAt 10 := ⟨joinFlit_joinFlitOf (by decide), by decide⟩
def atTick (s : State) (n : Nat) : State := { s with tb := { s.tb with tick := BitVec.ofNat 64 n } }
theorem test_meets_join_timeouts : endOf ((atTick (waitingGrant 0) 11).port 511).grantAt 10 ≤ (atTick (waitingGrant 0) 11).now
    ∧ endOf theirReq.since 100000 ≤ (atTick (waitingGrant 0) 100001).now ∧ ((waitingGrant 0).port 511).jreq = some theirReq := by decide
theorem test_meets_hello : ((linked { state := .hello }).port 511).jreqAt = none ∧ ((linked { state := .hello }).port 511).probeAt ≠ some (linked {}).now
    ∧ (linked { state := .hello }).boot.halted = false ∧ ((linked { state := .hello }).port 511).replied = false ∧ (joining 4).legal = true ∧ (joining 4).jtype = 4
    ∧ ((linked { state := .active }).joinBase 511 (joinFlitOf 2 (joining 4))).boot.halted = false
    ∧ ((linked { state := .hello, probeQ := [(0, 999)] }).port 511).probeQ = [(0, 999)] ∧ (joining 5).legal = true ∧ (joining 5).jtype = 5
    ∧ (joining 1).legal = true ∧ (joining 1).nonce = ((linked { state := .hello }).port 511).nonce ∧ (joining 2).legal = true ∧ (joining 7).legal = false := by decide

def noticeSlot : Slot := ({ tc := 0, mtype := 5, deid := 0x020, seid := 0x1A4, sinc := 1 } : Pkt).header
def knowing (s : State) : State := { s with eidInc := [(0x1A4, 1)] }
theorem test_meets_notice : let k := Pkt.ofHeader noticeSlot
    k.tc = 0 ∧ k.mtype = 5 ∧ k.legal false = true ∧ (knowing (linked { state := .active })).sourceOk k = true ∧ ((knowing (linked { state := .active })).port 511).role ≠ 1
    ∧ (linked { state := .active }).sourceOk k = false ∧ k.seid ≠ ((knowing (linked { state := .active, role := 1, peerEid := 0x1A5 })).port 511).peerEid := by decide
theorem test_meets_join_notice : (joinFlitOf 2 (joining 7)).slots.length = 15 ∧ (joinFlitOf 2 (joining 7)).good = true ∧ (joinFlitOf 2 (joining 7)).headOk = true
    ∧ (joinFlitOf 2 (joining 7)).ftype = 2 ∧ (joinFlitOf 2 (joining 7)).joinOk = false ∧ (joinFlitOf 2 (joining 6)).joinOk = true :=
  ⟨rfl, mkFlit_good _ _, rfl, rfl, by rw [joinOk_joinFlitOf]; decide, by rw [joinOk_joinFlitOf]; decide⟩
theorem test_meets_cables : (linked {}).ticking = true ∧ (linked {}).cage.getLsbD 63 = true ∧ { linked {} with cage := 0 }.cage.getLsbD 63 = false
    ∧ { linked {} with cage := 0 }.quartersOn = true := by decide

def landed (p : Pkt) (v : Nat) : State := knowing (linked { state := .active, role := 2, landing := [(2, [{ pkt := p, lane := 511, verd := v }])] })
def aLoad : Pkt := { pktLd 0 16 with deid := 0x020, seid := 0x1A4, sinc := 1, job := 0x312, status := 1 }
theorem test_meets_ingress (v : Nat) : (landed aLoad v).ring 511 2 = [{ pkt := aLoad, lane := 511, verd := v }] := rfl
theorem test_meets_verdict : (landed aLoad 1).sourceOk aLoad = true ∧ (linked {}).sourceOk aLoad = false ∧ (landed aLoad 1).pw.state ≠ 2 ∧ aLoad.legal false = true
    ∧ ((landed aLoad 2).policed { pkt := aLoad, lane := 511, verd := 2 }).isSome = true ∧ { aLoad with rsv := 1 }.legal false = false
    ∧ ((linked { role := 1, peerEid := 0x1A5 }).port 511).role = 1 ∧ aLoad.seid ≠ ((linked { role := 1, peerEid := 0x1A5 }).port 511).peerEid := by decide
theorem test_meets_gap : tfind ({ up with trunks := [(31, { members := [], gap := [(6, 0)] })] }.trunk 31).gap 6 = some 0 := by decide
def queued (p : Pkt) : State :=
  let s := linked { state := .active, heldCr := [(0, 100)] }
  { s with pw := { s.pw with state := 2 }, qs := [(3, { queues := [(nPort 511 0, { pkts := [{ msg := { pkt := p }, cells := 1, fromMin := 1, mc := none, tick := 0, ns := 0, started := false }] })] })] }
theorem test_meets_packet_egress : (linked { state := .active }).boot.halted = false ∧ ((linked { state := .active }).queue 3 (nPort 511 5)).pkts = []
    ∧ (queued { tc := 0 }).eligible 511 0 = true ∧ ((queued { tc := 0 }).queue (qOfLane 511) (nPort 511 0)).pkts ≠ [] ∧ (queued { tc := 0 }).pw.state = 2 := by decide

/-! ### Homes: states that meet the hypotheses of the statements -/

/-- Block 0, home of line 0 in a placed page, with `m` at the head of its TC2 queue. -/
def homed (b : Block) (m : Msg) : State :=
  { knowing (onePart .bound 0x312) with
    parts := [(0, { state := .bound, job := 0x312, blocks := 1, pages := [(0, { state := .placed, tier := 1 })] })]
    blks := [(0, { b with state := .member })]
    qs := [(0, { queues := [(nBlk 0 2, { pkts := [{ msg := m, cells := 1, fromMin := 1, mc := none, tick := 0, ns := 0, started := false }] })] })] }
def asks (k : Nat) : Msg := { pkt := { aLoad with mtype := BitVec.ofNat 5 k }, lines := [{ line := 0, home := 0, tier := 1 }] }
def taken (s : State) : State := match s.takeHead (qOfBlk 0) (nBlk 0 2) with | some (_, t) => t | none => s
theorem homeGets_of (b : Block) (k : Nat) (h : (asks k).pkt.mtype.toNat = k) (hg : (taken (homed b (asks k))).homeGate 0 0 (asks k) = none) :
    HomeGets (homed b (asks k)) (taken (homed b (asks k))) 0 0 k (asks k) := ⟨_, rfl, rfl, rfl, h, hg⟩
theorem test_meets_requests : HomeGets (homed {} (asks 0)) (taken (homed {} (asks 0))) 0 0 0 (asks 0) ∧ HomeGets (homed {} (asks 1)) (taken (homed {} (asks 1))) 0 0 1 (asks 1)
    ∧ HomeGets (homed {} (asks 2)) (taken (homed {} (asks 2))) 0 0 2 (asks 2) ∧ HomeGets (homed {} (asks 3)) (taken (homed {} (asks 3))) 0 0 3 (asks 3)
    ∧ HomeGets (homed {} (asks 16)) (taken (homed {} (asks 16))) 0 0 16 (asks 16) ∧ HomeGets (homed {} (asks 17)) (taken (homed {} (asks 17))) 0 0 17 (asks 17)
    ∧ HomeGets (homed {} (asks 18)) (taken (homed {} (asks 18))) 0 0 18 (asks 18) ∧ HomeGets (homed {} (asks 21)) (taken (homed {} (asks 21))) 0 0 21 (asks 21) :=
  ⟨homeGets_of _ _ rfl rfl, homeGets_of _ _ rfl rfl, homeGets_of _ _ rfl rfl, homeGets_of _ _ rfl rfl, homeGets_of _ _ rfl rfl, homeGets_of _ _ rfl rfl, homeGets_of _ _ rfl rfl, homeGets_of _ _ rfl rfl⟩
theorem test_meets_lone (k : Nat) : Lone (taken (homed {} (asks k))) 0 0 (asks k) { line := 0, home := 0, tier := 1 } :=
  ⟨rfl, rfl, rfl, rfl, rfl, rfl, rfl, rfl, rfl, nofun⟩
theorem test_meets_room : ((taken (homed {} (asks 16))).ways 0 0).length < 16 ∧ (taken (homed { hz := 0 } { asks 2 with pkt := { (asks 2).pkt with x := [BitVec.ofNat 128 (2 ^ 76)] } })).atEarly 0
    { asks 2 with pkt := { (asks 2).pkt with x := [BitVec.ofNat 128 (2 ^ 76)] } } 1 = none := ⟨by decide, rfl⟩
def ownedLine : Block := { dir := [(0, { mode := .own 0x1A4 1, seq := 1 })] }
def sharedLine : Block := { dir := [(0, { mode := .exact [0x1A4], seq := 1 })] }
theorem test_meets_writebacks : HomeGets (homed ownedLine (asks 19)) (taken (homed ownedLine (asks 19))) 0 0 19 (asks 19) ∧ ((taken (homed ownedLine (asks 19))).ent 0 0).mode = .own 0x1A4 1
    ∧ HomeGets (homed sharedLine (asks 20)) (taken (homed sharedLine (asks 20))) 0 0 20 (asks 20) ∧ ((taken (homed sharedLine (asks 20))).ent 0 0).mode = .exact [0x1A4]
    ∧ HomeGets (homed {} (asks 19)) (taken (homed {} (asks 19))) 0 0 19 (asks 19) ∧ ((taken (homed {} (asks 19))).ent 0 0).txn = none
    ∧ ((taken (homed {} (asks 19))).part 0).page 0 = { state := .placed, tier := 1 } :=
  ⟨homeGets_of _ _ rfl rfl, rfl, homeGets_of _ _ rfl rfl, rfl, homeGets_of _ _ rfl rfl, rfl, rfl⟩
def sealedHome (m : Msg) : State :=
  { homed {} m with parts := [(0, { state := .bound, job := 0x312, blocks := 1, pages := [(0, { state := .placed, tier := 1, sealed := true })] })] }
theorem test_meets_sealed : HomeGets (sealedHome (asks 19)) (taken (sealedHome (asks 19))) 0 0 19 (asks 19) ∧ (((taken (sealedHome (asks 19))).part 0).page 0).sealed = true :=
  ⟨⟨_, rfl, rfl, rfl, rfl, rfl⟩, rfl⟩
theorem test_meets_gates : (({ onePart .fenced 0x312 with eidInc := [] } : State).part 0).state = .fenced ∧ (up).incOf 0x1A4 ≠ 1 ∧ (killedPart.part 0).killed = true
    ∧ ({ blocks := 2 } : Part).isHome 0 0 0 = false := by decide
def cachedReplay : Replay :=
  { seid := 0x1A4, sinc := 1, tag := 0, issue := 0, job := 0, paddr := 0, aop := 0, atype := 0, ops := [], value := 5, expiry := 128 }
theorem test_meets_atomic_rows :
    (homed { replay := [cachedReplay] } (asks 2)).atDecide 0 (asks 2) 1 = .cached 5 ∧ (homed { replay := [{ cachedReplay with aop := 1 }] } (asks 2)).atDecide 0 (asks 2) 1 = .clash
    ∧ (homed {} (asks 2)).atDecide 0 (asks 2) 128 = .unknown ∧ (homed {} { asks 2 with pkt := { (asks 2).pkt with x := [BitVec.ofNat 128 (2 ^ 76)] } }).atDecide 0
      { asks 2 with pkt := { (asks 2).pkt with x := [BitVec.ofNat 128 (2 ^ 76)] } } 1 = .go
    ∧ (homed {} (asks 2)).lineBad 0 0 0 = false ∧ { homed {} (asks 2) with poison := [0] }.lineBad 0 0 0 = true := by decide
theorem test_meets_full_source : 256 ≤ (List.replicate 256 cachedReplay).length := Nat.le_of_eq List.length_replicate.symm
theorem test_meets_atomic_types : [(0 : Byte), 0, 0, 0].length = atWidth 0 ∧ (List.replicate 8 (0 : Byte)).length = atWidth 3 := by decide
def snooping (w : Snoop) : State := homed { dir := [(0, { mode := .own 0xFFE 1, txn := some { kind := .serve 0, waits := [w], fwd := false, keepS := false } })] } (asks 0)
def oneSnoop : Snoop := { eid := 0xFFE, inc := 1, tag := 0, asOwner := true, sent := 0, slow := false }
def busyLine : Block := { dir := [(0, { mode := .own 0x1A4 1, txn := some { kind := .serve 0, waits := [oneSnoop, { oneSnoop with eid := 0xFFD }], fwd := false, keepS := false } })] }
theorem test_meets_busy_owner : HomeGets (homed busyLine (asks 19)) (taken (homed busyLine (asks 19))) 0 0 19 (asks 19)
    ∧ ((taken (homed busyLine (asks 19))).ent 0 0).txn = some { kind := .serve 0, waits := [oneSnoop, { oneSnoop with eid := 0xFFD }], fwd := false, keepS := false }
    ∧ ((taken (homed busyLine (asks 19))).ent 0 0).mode = .own 0x1A4 1 ∧ ∃ w, w ∈ [oneSnoop, { oneSnoop with eid := 0xFFD }] ∧ ¬(w.tag = 0 ∧ w.eid = 0xFFE) :=
  ⟨homeGets_of _ _ rfl rfl, rfl, rfl, _, by simp; exact Or.inr rfl, by decide⟩
theorem test_meets_settling : ((snooping oneSnoop).ent 0 0).txn = some { kind := .serve 0, waits := [oneSnoop], fwd := false, keepS := false }
    ∧ endOf oneSnoop.sent 1000 ≤ (atTick (snooping oneSnoop) 1001).now ∧ (snooping oneSnoop).partOfBlk 0 = some 0
    ∧ ([((0 : Nat), ({ walks := [.death 0xFFE 1] } : Block))].filter (fun e => e.2.walks.contains (.death 0xFFE 1))) = [(0, { walks := [.death 0xFFE 1] })]
    ∧ ({ snooping oneSnoop with blks := [(0, { lostLog := List.replicate 7 { line := 0, eid := 0, inc := 0, job := 0, tick := 0 } })] }.blk 0).lostLog.length < 4096 := by decide
def hotBlk (at' n : Nat) : Block :=
  { hot := [(15, some { line := 0, bytes := [], poison := false, lost := false, pinEnd := 17, taken := n, takenAt := at', served := 0, servedAt := 0 })], dir := [(0, { hot := some 15 })] }
theorem test_meets_pins : (tget ((homed (hotBlk 16 8) (asks 0)).blk 0).hot 15 none).isSome = true ∧ ((homed (hotBlk 16 7) (asks 0)).ent 0 0).hot = some 15
    ∧ 17 ≤ (atTick (homed (hotBlk 16 8) (asks 0)) 17).now := by decide
def setAside (m : Msg) : State := homed { conf := [{ msg := m, tick := 0, ord := 0 }] } (asks 0)
theorem test_meets_aside : (setAside (asks 0)).pubBehind 0 (asks 0) 0 = false
    ∧ (match ((setAside (asks 0)).updBlk 0 (fun b => { b with conf := [] })).serve 0 0 (asks 0) 0 with | .done _ => true | _ => false) = true := ⟨by decide, rfl⟩
def answered (k : Nat) (h : Option Holder) : State :=
  let s := snooping oneSnoop
  let m : Msg := { pkt := { tc := 3, mtype := BitVec.ofNat 5 k, seid := 0xFFE, tag := 0, xslots := 1, x := [0] } }
  let x : QPkt := { msg := m, cells := 1, fromMin := 1, mc := none, tick := 0, ns := 0, started := false }
  { s with qs := [(0, { queues := [(nBlk 0 3, { min := 1, pkts := [x] })], tags := (match h with | some h => [(tagKey 0xFFE 0, h)] | none => []) })] }
theorem test_meets_snoop_answers : ((answered 20 none).takeTc3 0 20).isSome = true ∧ ((answered 21 (some (.snoop 0 0))).takeTc3 0 21).isSome = true
    ∧ ((answered 20 none).takeTc3 0 20).map (fun x => x.2.tagHolder x.1.pkt.tag x.1.pkt.seid) = some none
    ∧ ((answered 21 (some (.snoop 0 0))).takeTc3 0 21).map (fun x => x.2.tagHolder x.1.pkt.tag x.1.pkt.seid) = some (some (.snoop 0 0)) := ⟨rfl, rfl, by rfl, by rfl⟩

/-! ### Pages and partitions: states that meet the hypotheses of the statements -/

/-- Partition 0, BOUND, with `g` as its page 0. -/
def paging (g : Page) : State := { onePart .bound 0x312 with parts := [(0, { state := .bound, job := 0x312, blocks := 1, pages := [(0, g)], nresv := 255, promote := 0, drainEnd := some 1 })] }
def moving (chunk : Nat) : Page := { state := .migrating, tier := 1, dst := 2, chunk := chunk }
theorem test_meets_chunk : (((paging (moving 0)).part 0).page 0) = moving 0 ∧ ((paging (moving 0)).part 0).migRoom 1 = true ∧ ((paging (moving 0)).part 0).migRoom 2 = true
    ∧ (moving 65534).chunk + 1 < (moving 65534).chunks ∧ (moving 65535).chunks ≤ (moving 65535).chunk + 1
    ∧ ({ migUse := [(1, 1000000000)] } : Part).migRoom 1 = false ∧ tfind ((paging (moving 0)).part 0).recalling 0 = none
    ∧ (tfind (((paging (moving 0)).updPart 0 (fun x => { x with recalling := [(0, 1)] })).part 0).recalling 0).isSome = true := by decide
theorem test_meets_eviction : ((paging { state := .placed, tier := 1 }).part 0).belowReserve 1 = true
    ∧ ((paging { state := .placed, tier := 1 }).part 0).evictPage 1 = some (0, { state := .placed, tier := 1 })
    ∧ [2, 3].find? (fun t => decide ((1 : Nat) ≤ (paging { state := .placed, tier := 1 }).freeFrames 0 t)) = some 2
    ∧ ((paging { state := .placed, tier := 1 }).startMove 0 0 2).isSome = true := ⟨by decide, by decide, by decide, by decide⟩
theorem test_meets_promotion : (((paging { state := .placed, tier := 2 }).part 0).page 0).hint ≠ 2 ∧ ((paging { state := .placed, tier := 2 }).startMove 0 0 1).isSome = true := by decide
theorem test_meets_walk : ({ paging {} with blks := [(0, { state := .member, walks := [.recalling [0] false false] })] }.blk 0).walks = [.recalling [0] false false]
    ∧ (paging {}).partOfBlk 0 = some 0 ∧ (paging {}).walkLines 0 0 [0] = [] ∧ 0 < tget ({ dirty := [(1, 1), (2, 1)] } : Part).dirty 1 0 := by decide
def clearing (st : PartState) : State := { up with parts := [(0, { state := st, leaving := 0x8000000000000000 })], trays := [(15, { state := .assigned, touched := 1 })], blks := [(63, { state := .scrubbing, trained := BitVec.allOnes 10 })] }
theorem test_meets_clearing : (clearing .releasing).heldOut 63 = false ∧ (clearing .releasing).parts.find? (fun e => e.2.leaving.getLsbD 63 && (e.2.state = .scrubbing || e.2.state = .releasing))
      = some (0, (clearing .releasing).part 0)
    ∧ (clearing .ready).parts.any (fun e => e.2.leaving.getLsbD 63 && (e.2.state = .scrubbing || e.2.state = .releasing)) = false ∧ ((clearing .ready).blk 63).trained = BitVec.allOnes 10
    ∧ ((clearing .scrubbing).tray 15).touched ≠ 0 ∧ ((clearing .scrubbing).part 0).state = .scrubbing
    ∧ maskList 64 ({ state := .releasing } : Part).leaving = [] ∧ maskList 16 ({ state := .releasing } : Part).trays = [] := ⟨by decide, by decide, by decide, by decide, by decide, by decide, by decide, by decide⟩
theorem test_meets_aging : (atTick (paging {}) 0).now % ((paging {}).part 0).agew.toNat = 0 ∧ ((paging {}).part 0).aged ≠ some 0 := by decide
theorem test_meets_drain : ((paging {}).part 0).drainEnd = some 1 ∧ (paging {}).now < 1 ∧ 1 ≤ (atTick (paging {}) 1).now ∧ ((paging {}).part 0).moveh = false ∧ ({ moveh := true } : Part).moveh = true := by decide
def leavingLine : State :=
  { up with
    parts := [(0, { state := .bound, job := 0x312, blocks := 2, leaving := 1, arriving := [(0, some 0)] })]
    blks := [(0, { state := .member, dir := [(0, { mode := .own 0x1A4 1 })] }), (1, { state := .member })] }
theorem test_meets_arrival : leavingLine.partOfBlk 0 = some 0 ∧ tget (leavingLine.part 0).arriving 0 none = some 0 ∧ homeOf 2 0 = 1 ∧ (leavingLine.ent 0 0).mode = .own 0x1A4 1
    ∧ (leavingLine.ways 1 0).length < 16 := by decide

/-! ### Collectives: states that meet the hypotheses of the statements -/

/-- A sum of 256 FP32 elements from one local source at the top of its tree, its result stored. -/
def sumDesc (parent : Nat) : BitVec 512 := BitVec.ofNat 512 (7 + 2 ^ 64 * 256 + 2 ^ 128 + 2 ^ 144 + 2 ^ 160 * parent + 2 ^ 192 * 0xFFF + 2 ^ 208 * 0xFFF + 2 ^ 224 * 9 + (if parent = 0xFFF then 0 else 2 ^ 256 * (2 ^ 64 - 1)))
def openColl (parent : Nat) : Coll := { desc := sumDesc parent, job := 0x312, ctx := 0, idx := 0, segs := [], phase := 1, dline := 9, units := [0], empty := false }
def rooted (x : Coll) (mt : Nat) (cx : Nat) (data : List Slot) : State :=
  let m : Msg := { pkt := { tc := 4, mtype := BitVec.ofNat 5 mt, seid := 0x1A4, sinc := 1, job := 0x312, xslots := 1, x := [BitVec.ofNat 128 cx], data := data } }
  { onePart .bound 0x312 with
    blks := [(0, { state := .member, colls := [(31, some x)] })]
    qs := [(0, { queues := [(nBlk 0 4, { min := 1, pkts := [{ msg := m, cells := 1, fromMin := 1, mc := none, tick := 0, ns := 0, started := false }] })] })] }
/-- Tag 7, one element at 255, source 0, deadline 9. -/
def oneElem : Nat := 7 + 2 ^ 16 * 255 + 2 ^ 51 + 2 ^ 82 * 9
/-- A TC4 message from 1A4. -/
def sumMsg (mt cx : Nat) (data : List Slot) : Msg :=
  { pkt := { tc := 4, mtype := BitVec.ofNat 5 mt, seid := 0x1A4, sinc := 1, job := 0x312, xslots := 1, x := [BitVec.ofNat 128 cx], data := data } }
/-- Whether `q` holds of the message at the head of Block 0 and of the state with it taken. -/
def heads (s : State) (q : Msg → State → Bool) : Bool := match s.collHead 0 with | some (m, t) => q m t | none => false
theorem collHead_of {s : State} {q : Msg → State → Bool} (h : heads s q = true) : ∃ m t, s.collHead 0 = some (m, t) ∧ q m t = true := by
  unfold heads at h
  split at h
  · rename_i a b e
    exact ⟨a, b, e, h⟩
  · cases h
theorem test_meets_judge (parent : Fin 2) : let x := openColl (if parent.val = 0 then 0xFFF else 0x1A4)
    (rooted x 0 oneElem []).collAt 0 (sumMsg 0 oneElem []).pkt.job (bits (sumMsg 0 oneElem []).pkt.memx 0 16) = some (31, x)
    ∧ dlineOf (rooted x 0 oneElem []).now (bits oneElem 82 32) = x.dline ∧ (sumMsg 0 oneElem []).ingress ≠ 1 ∧ (sumMsg 0 oneElem []).stamp < x.dline
    ∧ (sumMsg 4 oneElem []).pkt.mtype = 4 ∧ dlineOf (rooted x 0 oneElem []).now 8 ≠ x.dline ∧ x.dline ≤ { sumMsg 0 oneElem [] with stamp := 9 }.stamp := by
  match parent with | 0 => decide +kernel | 1 => decide +kernel
theorem test_meets_parent : cdTop (sumDesc 0x1A4) = false ∧ (sumMsg 2 0 []).pkt.seid.toNat = cdParent (sumDesc 0x1A4) ∧ (openColl 0x1A4).parentGo = 0
    ∧ 0 < cdSlices (sumDesc 0x1A4) ∧ cdCount (sumDesc 0x1A4) 0 = 256 ∧ cdTop (sumDesc 0xFFF) = true ∧ BitVec.ofNat 5 2 ≠ stOk := by decide +kernel
theorem test_meets_edge : let s := (rooted (openColl 0xFFF) 0 oneElem []).updPort 0 (fun p => { p with role := 1, job := 0x313 })
    (s.port { sumMsg 0 oneElem [] with ingress := 1 }.lane).role = 1 ∧ (s.port 0).job ≠ (sumMsg 0 oneElem []).pkt.job := by decide +kernel
/-- The reduce unit of Block 0 has no cycles left. -/
def spent (s : State) : State := s.setBudget 0 eRed (0 : Int)
theorem test_meets_contrib (mt : Fin 2) : ∃ m t, (rooted (openColl 0xFFF) mt.val oneElem [0]).review.collHead 0 = some (m, t)
    ∧ decide (m.pkt.mtype.toNat = mt.val ∧ (rooted (openColl 0xFFF) mt.val oneElem [0]).review.collJudge 0 m
          = .take 31 (openColl 0xFFF) 1 (mt.val = 0) 255 1 0 0 false (slotsBytes [(0 : Slot)])
        ∧ (rooted (openColl 0xFFF) mt.val oneElem [0]).review.redTurn 0 0 1 = true) = true := by
  match mt with | 0 => exact collHead_of (by decide +kernel) | 1 => exact collHead_of (by decide +kernel)
theorem test_meets_contrib_waits : ∃ m t, (spent (rooted (openColl 0xFFF) 0 oneElem [0])).review.collHead 0 = some (m, t)
    ∧ decide ((spent (rooted (openColl 0xFFF) 0 oneElem [0])).review.collJudge 0 m = .take 31 (openColl 0xFFF) 1 true 255 1 0 0 false (slotsBytes [(0 : Slot)])
        ∧ (spent (rooted (openColl 0xFFF) 0 oneElem [0])).review.redTurn 0 0 1 = false) = true := collHead_of (by decide +kernel)
/-- SLICEGO of slice 0: 256 elements from 0, deadline 9. -/
def goSlice : Nat := 7 + 2 ^ 51 * 256 + 2 ^ 82 * 9
theorem test_meets_slicego : ∃ m t, (rooted (openColl 0x1A4) 2 goSlice []).review.collHead 0 = some (m, t)
    ∧ decide ((rooted (openColl 0x1A4) 2 goSlice []).review.collJudge 0 m = .opened 31 9 ∧ t.coll 0 31 = some (openColl 0x1A4)) = true :=
  collHead_of (by decide +kernel)
theorem test_meets_end : ∃ m t, (rooted (openColl 0x1A4) 4 oneElem []).collHead 0 = some (m, t)
    ∧ decide ((rooted (openColl 0x1A4) 4 oneElem []).collJudge 0 m = .ended 31 0 0x1A4 ∧ m.pkt.mtype = 4) = true := collHead_of (by decide +kernel)
theorem test_meets_strays (mt : Fin 5) : ∃ m t, (rooted (openColl 0xFFF) mt.val 8 []).collHead 0 = some (m, t)
    ∧ decide ((rooted (openColl 0xFFF) mt.val 8 []).collJudge 0 m = .stray ∧ m.pkt.mtype.toNat = mt.val) = true := by
  match mt with
  | 0 => exact collHead_of (by decide +kernel) | 1 => exact collHead_of (by decide +kernel) | 2 => exact collHead_of (by decide +kernel)
  | 3 => exact collHead_of (by decide +kernel) | 4 => exact collHead_of (by decide +kernel)
theorem test_meets_contrib_range : (openColl 0xFFF).phase = 1 ∧ cdNsrc (sumDesc 0xFFF) = 1 ∧ cdCount (sumDesc 0xFFF) 0 = 256 ∧ cdElems (sumDesc 0xFFF) = 256 ∧ bits oneElem 16 35 + bits oneElem 51 13 = 256
    ∧ bits oneElem 51 13 * inWidth (cdIfmt (sumDesc 0xFFF)) ≤ (slotsBytes [(0 : Slot)]).length ∧ cdOp (sumDesc 0xFFF) = 0 ∧ cdTop (sumDesc 0xFFF) = true
    ∧ (setIns (openColl 0xFFF).lasts 1).length = 1 ∧ (openColl 0xFFF).lasts.length ≠ 1 := by decide +kernel
theorem test_meets_stray : ((rooted (openColl 0xFFF) 4 8 []).collAt 0 0x312 8) = none := by decide +kernel
def doneColl (parent : Nat) : Coll := { openColl parent with phase := 2, sent := true, outAt := 1024 }
theorem test_meets_delivery : (rooted (doneColl 0xFFF) 0 0 []).review.collDelivered 0 (doneColl 0xFFF) = true ∧ cdStores (sumDesc 0xFFF) = true ∧ cdSlices (sumDesc 0xFFF) = 1
    ∧ (rooted (doneColl 0x1A4) 0 0 []).review.collDelivered 0 (doneColl 0x1A4) = true ∧ cdTop (sumDesc 0x1A4) = false ∧ cdSlices (BitVec.ofNat 512 (2 ^ 64 * 257)) = 2 := by decide +kernel
theorem test_meets_deadlines : (openColl 0xFFF).dline ≤ (atTick (rooted (openColl 0xFFF) 0 0 []) 9).now ∧ (openColl 0xFFF).lastSent = false ∧ (doneColl 0x1A4).lastSent = true
    ∧ (openColl 0xFFF).dline + 64 ≤ (atTick (rooted (openColl 0xFFF) 0 0 []) 73).now
    ∧ (rooted { openColl 0xFFF with endSt := some 0 } 0 0 []).coll 0 31 = some { openColl 0xFFF with endSt := some 0 } ∧ (0 : Nat) < (atTick up 1).now := by decide +kernel

/-! ### Programs: states that meet the hypotheses of the statements -/

def pb : Nat := 0x100000
/-- An instruction word (R345): OPC, MOD, D, A, B, PRED, COST, IMM. -/
def word (opc md d a b pred cost imm : Nat) : Nat :=
  opc * 2 ^ 120 + md * 2 ^ 112 + d * 2 ^ 104 + a * 2 ^ 96 + b * 2 ^ 88 + pred * 2 ^ 84 + cost * 2 ^ 72 + imm
/-- A region of the pool or of the banks; a tensor. -/
def pool (base len : Nat) : Nat := base + 2 ^ 128 * len
def banks (base len : Nat) : Nat := base + 2 ^ 64 + 2 ^ 128 * len
def tens (base et rows cols stride : Nat) : Nat := base + 2 ^ 64 + 2 ^ 72 * et + 2 ^ 128 * rows + 2 ^ 192 * cols + 2 ^ 320 * stride

/-- Context 0 READY at instruction 0 of a program of one word, with descriptors 1, 2, … and other bytes in its bank. -/
def prog (w : Nat) (ds : List Nat) (more : List (Nat × List Byte)) : State :=
  let bytes := fun (o : Nat) (v : List Byte) => ((List.range v.length).zip v).map (fun e => (o + e.1, some e.2))
  { onePart .bound 0x312 with
    blks := [(0, { state := .member, bank := more.flatMap (fun e => bytes e.1 e.2) ++ bytes pb (leBytes 16 w) ++ ((List.range ds.length).zip ds).flatMap (fun e => bytes (pb + 0x80 + 64 * e.1) (leBytes 64 e.2))
                   colls := [(31, some (openColl 0xFFF))] })]
    ctxs := [(0, { state := .ready, proff := 0x100000, dtoff := 0x100040, ninstr := 1, segs := [{ cbase := 0, clast := 0xFFFFFFFFFFFF, pbase := 0, v := true, rd := true, wr := true }] })] }

def opAt (s : State) (w : Nat) : Op := { seq := 0, idx := 0, word := BitVec.ofNat 128 w, writes := s.writesOf 0 (insnOf (BitVec.ofNat 128 w)) }
def issuable (s : State) (w : Nat) : Bool :=
  let i := insnOf (BitVec.ofNat 128 w)
  s.canIssue 0 && decide (s.fetch 0 = .insn (BitVec.ofNat 128 w)) && i.legal && !(s.names 0 i).any (fun k => (s.desc 0 k).2) && decide ((s.ctx 0).seq = 0) && decide ((s.ctx 0).pcx = 0) && (s.blk 0).run.isEmpty
theorem issues_of (s : State) (w : Nat) (h : issuable s w = true) : Issues s 0 (insnOf (BitVec.ofNat 128 w)) (opAt s w) := by
  simp only [issuable, Bool.and_eq_true, decide_eq_true_eq, Bool.not_eq_true'] at h
  obtain ⟨⟨⟨⟨⟨⟨h1, h2⟩, h3⟩, h4⟩, h5⟩, h6⟩, h7⟩ := h
  refine ⟨h1, h2, rfl, h3, h4, by simp [State.fetchWritten, List.isEmpty_iff.mp h7], ?_⟩
  simp [opAt, h5, h6]

def fits (s : State) (row : Insn → Bool) (i : Insn) (r : Except Status Plan) : Bool :=
  row i && (match r with | .ok p => decide (p.past + p.top ≤ i.c) && decide (i.c ≤ s.budgetMax) && p.owned | .error _ => false)
/-- A program whose instruction is of row `n` of `engRows`, may issue, and whose own checks pass. -/
def issuesRow (n w : Nat) (ds : List Nat) (more : List (Nat × List Byte)) : Bool :=
  let s := prog w ds more
  let i := insnOf (BitVec.ofNat 128 w)
  issuable s w && (match engRows[n]? with | some (_, row, plan) => fits s row i (plan (s.advance 0 i) 0 i (opAt s w)) | none => false)
theorem meets_engine (n w : Nat) (ds : List Nat) (more : List (Nat × List Byte)) (h : issuesRow n w ds more = true) :
    ∃ s i o row plan p, Issues s 0 i o ∧ row i = true ∧ plan (s.advance 0 i) 0 i o = .ok p ∧ p.past + p.top ≤ i.c ∧ i.c ≤ s.budgetMax ∧ p.owned = true
      ∧ ∃ mk, engRows[n]? = some (mk, row, plan) := by
  unfold issuesRow at h
  simp only [Bool.and_eq_true] at h
  obtain ⟨h1, h2⟩ := h
  split at h2
  · rename_i mk row plan e
    simp only [fits, Bool.and_eq_true] at h2
    obtain ⟨h3, h4⟩ := h2
    split at h4
    · rename_i p hp
      simp only [Bool.and_eq_true, decide_eq_true_eq] at h4
      exact ⟨_, _, _, row, plan, p, issues_of _ _ h1, h3, hp, h4.1.1, h4.1.2, h4.2, mk, e⟩
    · cases h4
  · cases h2

def cell := pb + 0x8000
theorem test_meets_ld : issuesRow 0 (word 0x01 0 1 2 0 0 100 0) [banks cell 0x1000, pool 0x1000 0x1000] [] = true := by decide +kernel
theorem test_meets_st : issuesRow 1 (word 0x02 0 1 2 0 1 100 0) [pool 0x1000 0x1000, banks cell 0x1000] [] = true := by decide +kernel
theorem test_meets_st_lostclr : issuesRow 2 (word 0x02 1 1 0 0 0 100 0) [pool 0x1000 0x80] [] = true := by decide +kernel
theorem test_meets_move_insn : issuesRow 3 (word 0x03 0 1 2 0 0 100 0) [banks cell 16, banks (cell + 16) 16] [] = true := by decide +kernel
theorem test_meets_fill : issuesRow 4 (word 0x04 0 1 0 0 0 100 0x55) [pool 0 16] [] = true := by decide +kernel
theorem test_meets_prefetch : issuesRow 5 (word 0x05 0 1 0 2 0 100 0) [banks cell 0x80, tens (cell + 0x80) 11 1 1 0] [] = true := by decide +kernel
theorem test_meets_atomics : issuesRow 6 (word 0x08 0 1 2 3 0 100 12) [banks cell 16, pool 0x1000 16, banks (cell + 16) 16] [] = true
    ∧ issuesRow 7 (word 0x09 1 1 2 3 0 100 8) [banks cell 16, pool 0x1000 16, banks (cell + 16) 16] [] = true
    ∧ issuesRow 8 (word 0x0A 2 1 2 3 0 100 0) [banks cell 16, pool 0x1000 16, banks (cell + 16) 16] [] = true
    ∧ issuesRow 9 (word 0x0B 6 1 2 3 0 100 0) [banks cell 16, pool 0x1000 16, banks (cell + 16) 32] [] = true := by decide +kernel
/-- The open collective of `openColl`, as the descriptor of the one that names it; its RESGRP is none. -/
theorem test_meets_collectives : issuesRow 10 (word 0x10 0 0 1 0 0 100 0) [(sumDesc 0xFFF).toNat] [] = true
    ∧ issuesRow 11 (word 0x11 0 0 1 2 0 100 0) [(sumDesc 0xFFF).toNat, tens cell (cdIfmt (sumDesc 0xFFF)) 1 256 0] [] = true
    ∧ issuesRow 12 (word 0x12 0 0 1 0 0 100 0) [(sumDesc 0xFFF).toNat] [] = true := by decide +kernel
/-- A gather of one row of 16 bytes by a 32-bit index. -/
def gdesc (deliver : Bool) : Nat := 2 ^ 64 + 2 ^ 128 * 16 + 2 ^ 160 * 16 + 2 ^ 192 * 16 + (if deliver then 2 ^ 186 + 2 ^ 320 * 9 else 0)
theorem test_meets_gather : issuesRow 13 (word 0x13 0 1 2 3 0 100 0) [banks cell 16, gdesc false, tens (cell + 16) 10 1 1 0] [] = true
    ∧ issuesRow 14 (word 0x14 0 1 2 3 0 100 0) [banks cell 16, gdesc false, tens (cell + 16) 10 1 1 0] [] = true
    ∧ issuesRow 15 (word 0x15 0 0 1 0 0 100 9) [banks cell 16] [] = true := by decide +kernel
/-- A scan of one record of 16 bytes at 0x10000, without terms. -/
def sdesc : Nat := 0x10000 + 2 ^ 128 + 2 ^ 192 * 16
/-- A tally of 256 cells, keyed by the first 4 bytes. -/
def tdesc : Nat := 2 ^ 16 * 4 + 2 ^ 344 * 8 + 2 ^ 352 * (pb + 0x10000) + 2 ^ 416 * 0xFFFFFFFF
theorem test_meets_scans : issuesRow 16 (word 0x18 0 1 2 0 0 100 0) [banks cell 64, sdesc] [] = true
    ∧ issuesRow 17 (word 0x19 0 0 0 3 0 100 0) [0, 0, tdesc] [] = true
    ∧ issuesRow 18 (word 0x19 1 1 2 3 0 100 0) [banks cell 64, sdesc, tdesc] [] = true
    ∧ issuesRow 19 (word 0x19 2 1 2 3 0 100 0) [banks cell 64, banks (cell + 64) 64, tdesc] [] = true := by decide +kernel
theorem cellIns_length (c : List Byte) (l : List (List Byte)) : (cellIns c l).length = l.length + 1 := by
  induction l with
  | nil => rfl
  | cons e r ih => unfold cellIns; split <;> simp [ih]
theorem cells_length_le (b : Block) (d : BitVec 512) : (b.cells d).length ≤ tdCells d := by
  have h : ∀ l : List (List Byte), (l.foldr cellIns []).length = l.length := by
    intro l
    induction l with
    | nil => rfl
    | cons e r ih => rw [List.foldr_cons, cellIns_length, ih, List.length_cons]
  unfold Block.cells
  rw [h]
  exact Nat.le_trans (List.length_filter_le _ _) (by simp)
/-- A region with room for every cell of the table is room enough for the used ones. -/
theorem emits_of (s : State) (i : Insn) (o : Op) (h : (let p := (o.named s 0 i).tallied s 0 i.b
    match regionOf p.d with
    | some r => tallyOk p.x p.y none && s.ownsRegion 0 r && s.ownsTally 0 p.x p.y && decide (64 + 64 * tdCells p.x ≤ r.len)
    | none => false) = true) : s.planEmit 0 i o = .ok { op := (o.named s 0 i).tallied s 0 i.b, past := 12, top := 64 } := by
  dsimp only at h
  unfold State.planEmit
  dsimp only
  split at h
  · rename_i r e
    simp only [Bool.and_eq_true, decide_eq_true_eq] at h
    obtain ⟨⟨⟨h1, h2⟩, h3⟩, h4⟩ := h
    have h5 := cells_length_le (s.blk (0 / 16)) ((o.named s 0 i).tallied s 0 i.b).x
    simp only [e, h1, h2, h3, Bool.and_self]
    rw [if_neg (by decide), if_neg (by decide), if_neg (by omega)]
  · cases h
theorem test_meets_emits (md : Nat) (hm : md = 3 ∨ md = 4) : ∃ (s : State) (i : Insn) (o : Op) (p : Plan), Issues s 0 i o ∧ i.opc = 0x19 ∧ i.mod = md
    ∧ (s.advance 0 i).planEmit 0 i o = .ok p ∧ p.past + p.top ≤ i.c ∧ i.c ≤ s.budgetMax ∧ p.owned = true := by
  refine ⟨prog (word 0x19 md 1 0 3 0 100 0) [banks cell 0x8000, 0, tdesc] [], insnOf (BitVec.ofNat 128 (word 0x19 md 1 0 3 0 100 0)), _, _, issues_of _ _ ?_, ?_, ?_, emits_of _ _ _ ?_, ?_, ?_, rfl⟩
  all_goals rcases hm with rfl | rfl <;> decide +kernel
/-- One layer of INT8 weights over a record of 16 bytes, giving one INT32. -/
def layer : Nat := 2 ^ 24 * 6 + 2 ^ 32 * 16 + 2 ^ 48 + 2 ^ 64 * (pb + 0x9000) + 2 ^ 96 * 0xFFFFFFFF
def mdesc : Nat := (pb + 0x8800) + 2 ^ 32 + 2 ^ 56
theorem test_meets_score : issuesRow 22 (word 0x1C 0 1 2 3 0 200 0) [tens cell 6 1 1 0, mdesc, tens (cell + 16) 15 1 16 0] [(pb + 0x8800, leBytes 32 layer)] = true
    ∧ issuesRow 23 (word 0x1D 0 1 2 3 0 100 0) [tens cell 6 1 1 0, tens (cell + 16) 14 1 128 0, tens (cell + 32) 14 1 128 0] [] = true := by decide +kernel
theorem test_meets_publish : issuesRow 24 (word 0x20 0 1 2 3 0 100 0) [pool 0 128, pool 0x1000 16, banks cell 16] [] = true
    ∧ issuesRow 25 (word 0x21 0 1 0 0 0 100 1) [pool 0 pgShift] [] = true ∧ issuesRow 26 (word 0x22 0 1 0 0 0 100 1) [pool 0 pgShift] [] = true := by decide +kernel
theorem test_meets_failed : (let w := word 0x04 0 1 0 0 0 100 0
    let s := prog w [banks cell 17] []
    let i := insnOf (BitVec.ofNat 128 w)
    issuable s w && (match (s.advance 0 i).planFill 0 i (opAt s w) with | .error st => decide (st = stInvalid) | .ok _ => false)
    && (let v := word 0x11 0 0 1 2 0 100 0
        let z := prog v [(sumDesc 0xFFF).toNat + 1, tens cell 0 1 256 0] []
        let j := insnOf (BitVec.ofNat 128 v)
        issuable z v && (match (z.advance 0 j).planRcontrib 0 j (opAt z v) with | .error st => decide (st ≠ stOk ∧ st ≠ stInvalid ∧ j.pred = 0) | .ok _ => false))) = true := by decide +kernel
def mapCtx (s : State) (f : Ctx → Ctx) : State := { s with ctxs := s.ctxs.map (fun e => (e.1, f e.2)) }
theorem test_meets_sequencer : issuable (prog (word 0x28 1 1 0 0 0 0 0) [pool 0 16] []) (word 0x28 1 1 0 0 0 0 0) = true
    ∧ ((prog (word 0x28 1 1 0 0 0 0 0) [pool 0 16] []).advance 0 (insnOf (BitVec.ofNat 128 (word 0x28 1 1 0 0 0 0 0)))).steppable 0 1 = true
    ∧ issuable (mapCtx (prog (word 0x29 0 0 0 0 0 0 0) [] []) (fun x => { x with loops := [{ start := 0, last := 1, iter := 0, steps := [] }] })) (word 0x29 0 0 0 0 0 0 0) = true
    ∧ issuable (prog (word 0x2A 0 0 0 0 15 0 0x1FF) [] []) (word 0x2A 0 0 0 0 15 0 0x1FF) = true ∧ issuable (prog (word 0x2B 0 0 0 0 0 0 1) [] []) (word 0x2B 0 0 0 0 0 0 1) = true
    ∧ issuable (prog (word 0x2B 1 0 0 0 3 0 0) [] []) (word 0x2B 1 0 0 0 3 0 0) = true ∧ issuable (prog (word 0x2C 0 0 0 0 1 0 0) [] []) (word 0x2C 0 0 0 0 1 0 0) = true
    ∧ issuable (prog (word 0x2D 0 0 0 0 0 0 0) [] []) (word 0x2D 0 0 0 0 0 0 0) = true ∧ issuable (prog (word 0x2E 0 0 0 0 0 0 0) [] []) (word 0x2E 0 0 0 0 0 0 0) = true := by decide +kernel
theorem test_meets_hold_and_reserved : ((mapCtx (prog 0 [] []) (fun x => { x with hold := some 5, holdPred := 15 })).ctx 0).hold = some 5 ∧ 5 ≤ (atTick up 5).now
    ∧ (prog (word 0x2F 0 0 0 0 0 0 0) [] []).canIssue 0 = true ∧ (prog (word 0x2F 0 0 0 0 0 0 0) [] []).fetch 0 = .insn (BitVec.ofNat 128 (word 0x2F 0 0 0 0 0 0 0))
    ∧ (insnOf (BitVec.ofNat 128 (word 0x2F 0 0 0 0 0 0 0))).form = none := by decide +kernel

/-! Submission -/
def submission (st : PartState) : State :=
  let m : Msg := { pkt := { tc := 0, mtype := 2, seid := 0x1A4, sinc := 1, deid := 0x020, job := 0x312, data := [0x400000] }, lane := 8 }
  { onePart st 0x312 with
    eidInc := [(0x1A4, 1)], ports := [(8, { state := .active, width := 3, role := 1, peerEid := 0x1A4, peerInc := 1, job := 0x312 })]
    qs := [(0, { queues := [(nSquare, { min := 1, pkts := [{ msg := m, cells := 1, fromMin := 1, mc := none, tick := 0, ns := 0, started := false }] })] })] }
def submitted (s : State) (p : Except Status Nat → Bool) : Bool :=
  match (s.dropSinks 0 (s.queue 0 nSquare).pkts.length).takeHead 0 nSquare with
  | some (h, t) => decide (h.msg.pkt.mtype = 2) && p (t.submitCheck h.msg)
  | none => false
theorem test_meets_submit : submitted (submission .bound) (fun r => match r with | .ok l => decide (l = 8) | .error _ => false) = true
    ∧ submitted (submission .ready) (fun r => match r with | .error st => decide (st = stPerm) | .ok _ => false) = true := by decide +kernel
/-- An image of one END, its program at 0x100000 and its descriptors at 0x100040. -/
def imageBytes (n : Nat) : List Byte := leBytes 2 n ++ [0, 0, 0, 1, 0, 0] ++ leBytes 4 0x100000 ++ leBytes 4 0x100040 ++ List.replicate 48 0
def imaging (n : Nat) : State :=
  { onePart .bound 0x312 with ctxs := [(0, { image := some { addr := 0, lane := 0, got := [(0, imageBytes n), (64, leBytes 16 (word 0x2E 0 0 0 0 0 0 0))] } })] }
theorem test_meets_image : (match ((imaging 1).ctx 0).image with
    | some m => !m.pieces.any (fun p => !m.has p.1) && decide (((imaging 1).ctx 0).reqs = []) && m.pieces.all (fun p => tget m.bst p.1 stOk = stOk)
        && decide ((imaging 1).imageCheck 0 (m.pieces.flatMap (fun p => bytesAt (tget m.got p.1 []) 0 p.2)) = stOk)
    | none => false) = true
    ∧ (match ((imaging 0).ctx 0).image with
    | some m => !m.pieces.any (fun p => !m.has p.1) && m.pieces.all (fun p => tget m.bst p.1 stOk = stOk)
        && decide ((imaging 0).imageCheck 0 (m.pieces.flatMap (fun p => bytesAt (tget m.got p.1 []) 0 p.2)) ≠ stOk)
    | none => false) = true := by decide +kernel

/-! Slices -/
def filling : Op := { seq := 0, idx := 0, word := BitVec.ofNat 128 (word 0x04 0 1 0 0 0 100 0x55), d := BitVec.ofNat 512 (pool 0 16) }
def working (run : Tbl (Option Slice)) : State :=
  { onePart .bound 0x312 with
    blks := [(0, { state := .member, run := run, budget := [(eGath, 10000)] })]
    ctxs := [(0, { state := .ready, share := 1, cand := 1, ops := [(eGath, some filling)] })] }
def aSlice (wait : Option Nat) : Slice := { ctx := 0, cost := 400, idx := 0, pred := 0, wrote := [], wroteP := [], past := 0, seq := 0, wait := wait }
theorem test_meets_slices : (working []).waiting 0 eGath = none ∧ (working []).choose 0 eGath = some (0, filling, 400)
    ∧ (working [(eGath, some (aSlice (some 7)))]).waiting 0 eGath = some (0, filling, 7)
    ∧ tget ((working [(eGath, some (aSlice none))]).blk 0).run eGath none = some (aSlice none) ∧ 1 ≤ up.budgetMax ∧ ((working []).ctx 0).state = .ready := by decide +kernel
/-- Context 1 has an RCONTRIB at work; a CONTRIB for the root context 0 is at the head of Block 0's queue. -/
def contended : State :=
  { rooted (openColl 0xFFF) 0 oneElem [0] with ctxs := [(1, { state := .ready, share := 1, cand := 2, ops := [(eRed, some { filling with word := BitVec.ofNat 128 (word 0x11 0 0 1 2 0 100 0) })] })] }
theorem test_meets_root_work : ((contended.choose 0 eRed).any (fun x => contended.redBeaten 0 x.1 (contended.collWork 0)) && (contended.waiting 0 eRed).isNone
    && ((rooted (openColl 0xFFF) 0 oneElem [0]).choose 0 eRed).isNone && ((working []).choose 0 eScor).isNone) = true := by decide +kernel
theorem test_meets_late_overrun : (let s := { working [(eGath, some (aSlice none))] with ctxs := [(0, {})] }
    decide ((s.ctx 0).state = .empty) && decide (tget (s.blk 0).run eGath none = some (aSlice none))) = true := by decide +kernel
theorem test_meets_fetch_collision : (let w := word 0x04 0 1 0 0 0 100 0x55
    let s := prog w [pool 0 16] []
    let t : State := { s with
      blks := s.blks.map (fun (e : Nat × Block) => (e.1, { e.2 with run := [(eRed, some { ctx := 0, cost := 400, idx := 0, pred := 0, wrote := [(pb, 16)], wroteP := [], past := 0, seq := 9 })] }))
      ctxs := s.ctxs.map (fun (e : Nat × Ctx) => (e.1, { e.2 with ops := [(eRed, some { seq := 9, idx := 0, word := 0 })] })) }
    t.canIssue 0 && decide (t.fetch 0 = .insn (BitVec.ofNat 128 w)) && t.fetchWritten 0 (t.names 0 (insnOf (BitVec.ofNat 128 w)))) = true := by decide +kernel
theorem test_meets_cons_poll : (let s := { working [] with ctxs := [(0, { state := .blocked, ops := [(eFilt, some filling)], causes := [{ src := eFilt, why := 5 }] })] }
    !(s.ctx 0).parked && ({ (s.ctx 0) with parked := true }).parked && (s.ctx 0).causes.any (fun k => k.src = eFilt && k.why = 5) && decide ((s.ctx 0).op eFilt = some filling) && decide (tget filling.tab 0 0 ≠ s.now + 1)) = true := by decide +kernel

/-! Contexts and PUBLISH -/
def aReq : Req := { id := 0, eng := 0, instr := 0, seq := 0, msg := { pkt := aLoad }, remote := true, tagged := false, first := 0, last := 0, pos := 0, dest := .none }
def swapping (n : Nat) : State :=
  { onePart .bound 0x312 with
    blks := [(0, { state := .member })]
    ctxs := [(0, { state := .blocked, blkT := 3, reqs := List.replicate n aReq }), (1, { state := .swapped, parked := true, parkT := 4, reqs := List.replicate 2 aReq })] }
theorem test_meets_swap : ((swapping 0).bringCand 0).isSome = true ∧ ((swapping 0).bringCand 0).all (fun e => e.1 = 1 && (swapping 0).entriesFit 0 e.2 (fun _ => 0)) = true
    ∧ (swapping 0).allBlocked 0 = true ∧ ((swapping 0).parkCand 0).all (fun e => e.1 = 0) = true ∧ ((swapping 0).parkCand 0).isSome = true := by decide +kernel
def published (v : Nat) (old : List Byte) (roots : List Nat) (decided : Bool) : State :=
  let u : Pub := { ctx := 0, id := 0, root := 0, version := BitVec.ofNat 64 v, base := 0, length := 0, ctag := 0, walking := [], decided := decided, ord := 0 }
  { homed { pubs := [u], roots := roots } (asks 0) with mem := ((List.range old.length).zip old).map (fun e => (e.1, e.2)) }
theorem test_meets_publication : ((published 5 [] [] false).blk 0).nextPub 0 = ((published 5 [] [] false).blk 0).pubs.head? ∧ ((published 5 [] [] false).blk 0).pubs.length = 1
    ∧ ((published 5 [] [] false).part 0).isHome 0 0 0 = true ∧ ((published 5 [] [] false).ent 0 0).txn = none ∧ ((published 5 [] [] false).ent 0 0).due = none
    ∧ ((published 5 [] [] false).ent 0 0).mode = .none ∧ (((published 5 [] [] true).blk 0).pubs.head?.all (fun u => u.decided && u.walking = [])) = true
    ∧ ((published 5 [] [] false).needs 0 0 tST 0xFFF 0).2.1 = [] := by decide +kernel
/-- The pages of the content, and of the root, are translated; they lie in a 16 GiB page where `ps` is set. -/
def content (ps : Bool) (v : Nat) (old : List Byte) : State :=
  (published v old [0] false).updPart 0 (fun x => { x with ptv := true, ptpn := 0xFFFFFF, tcache := (List.range 64).map (fun n => (xKey 0 n, { v := true, wr := true, rd := true, ps := ps, dev := 0x020 })) })
def aPub (v : Nat) : Pub := { ctx := 0, id := 0, root := 0, version := BitVec.ofNat 64 v, base := 0, length := pgShift, ctag := 0, walking := [], decided := false, ord := 0 }
def rootOf (v : Nat) : List Byte := leBytes 8 v ++ leBytes 8 0 ++ leBytes 8 pgShift
theorem test_meets_content :
    (let t := ((content true 5 []).askPages 0 0 ((aPub 5).root / 2 ^ 21 :: (aPub 5).pages))
     !t.2 && t.1.contentPart 0 0 (aPub 5)) = true
    ∧ (let t := ((content false 5 (rootOf 5)).askPages 0 0 ((aPub 5).root / 2 ^ 21 :: (aPub 5).pages))
     !t.2 && !t.1.contentPart 0 0 (aPub 5) && (t.1.blk 0).roots.contains 0 && !t.1.lineBad 0 0 0 && decide ((aPub 4).version.toNat < natAt (t.1.lineBytes 0 0 0) 0 8)
      && decide ((aPub 5).version.toNat = natAt (t.1.lineBytes 0 0 0) 0 8) && decide (natAt (t.1.lineBytes 0 0 0) 16 8 = pgShift)) = true
    ∧ (content false 5 []).wayLess 0 0 = false := by decide +kernel

/-! ### Answers, time, trays, power, start-up, registers, faults: states that meet the hypotheses of the statements -/

def anAnswer (k st : Nat) : Msg := { pkt := { tc := 3, mtype := BitVec.ofNat 5 k, seid := 0x1A4, tag := 5, status := BitVec.ofNat 5 st, xslots := 1, x := [0] } }
def asked1 (d : Dest) : Req := { aReq with msg := { pkt := { aLoad with deid := 0x1A4, tag := 5 } }, tagged := true, dest := d }
/-- A request of context 0 that EID 1A4 is asked for with tag 5, and an answer at the head of Block 0's TC3 queue. -/
def answering (k st : Nat) (d : Dest) (h : Option Holder) : State :=
  { onePart .bound 0x312 with
    ctxs := [(0, { state := .ready, reqs := [asked1 d] })]
    qs := [(0, { queues := [(nBlk 0 3, { min := 1, pkts := [{ msg := anAnswer k st, cells := 1, fromMin := 1, mc := none, tick := 0, ns := 0, started := false }] })]
                 tags := (match h with | some h => [(tagKey 0x1A4 5, h)] | none => []) })] }
def answers (k st : Nat) (d : Dest) (h : Option Holder) : Bool :=
  match (answering k st d h).takeTc3 0 k with
  | some (m, t) => decide (m.asker = .wire) && decide (t.tagHolder m.pkt.tag m.pkt.seid = h) && decide (t.answerTo m.pkt = h.map (fun h => (m.pkt.seid, h))) && decide (t.req 0 0 = some (asked1 d)) && decide (m.pkt.status.toNat = st)
  | none => false
theorem test_meets_answers : answers rLD 0 (.bank 0x100000 16) (some (.req 0 0)) = true ∧ answers rAT 0 (.old 0x100000 8 none) (some (.req 0 0)) = true
    ∧ answers rST 0 .none (some (.req 0 0)) = true ∧ answers rPF 0 (.pf [0]) (some (.req 0 0)) = true ∧ answers rWrDone 0 .none (some (.req 0 0)) = true
    ∧ answers rNAK stRetry.toNat .none (some (.req 0 0)) = true ∧ answers rNAK stMapStale.toNat .none (some (.req 0 0)) = true ∧ answers rNAK stDead.toNat .none (some (.req 0 0)) = true
    ∧ answers rST 0 .none none = true ∧ answerOf (asked1 .none).msg.pkt = rLD ∧ answerOf { aLoad with mtype := 1 } = rST ∧ answerOf { aLoad with mtype := 2 } = rAT
    ∧ answerOf { aLoad with mtype := 3 } = rPF ∧ answerOf { aLoad with mtype := 21 } = rWrDone := by decide +kernel
theorem test_meets_resends : (answering 0 0 .none none).req 0 0 = some (asked1 .none) ∧ (answering 0 0 .none none).partOfBlk 0 = some 0 ∧ (asked1 .none).remote = true
    ∧ (atTick (answering 0 0 .none none) 32).now = 32 ∧ ((answering 0 0 .none none).part 0).rto.toNat = 32 ∧ 32 < endOf (asked1 .none).first ((answering 0 0 .none none).part 0).tout.toNat
    ∧ endOf (asked1 .none).first ((answering 0 0 .none none).part 0).tout.toNat = 2001 ∧ (answering 0 0 .none (some (.held 7))).tagHolder 5 0x1A4 = some (.held 7)
    ∧ tfind (({ up with qs := [(3, { rebuild := [(0x1A4, 0)] })] } : State).qtr 3).rebuild 0x1A4 = some 0 := by decide +kernel

/-! Time -/
theorem test_meets_tick : up.ticking = true ∧ up.startTick.holdGaps.closeTick.audit = [] ∧ ((onePart .bound 0x312).blk 0).state = .member ∧ up.pw.level.toNat = 8
    ∧ up.now % 4096 = 0 ∧ up.hdrop ≠ some up.now := by decide +kernel
/-- A marker of tick 9 with hop count `h`. -/
def aMarker (h : Nat) : Slot := BitVec.ofNat 128 (7 + 2 ^ 18 * h + 2 ^ 64 * 9)
theorem test_meets_marker : (linked { state := .active }).ticking = true ∧ sbits (aMarker 5) 0 8 = 7 ∧ sbits (aMarker 5) 23 41 = 0 ∧ sbits (aMarker 5) 18 4 = 5 ∧ sbits (aMarker 6) 18 4 = 6
    ∧ sbit (aMarker 5) 22 = false ∧ ({ linked { state := .active } with tb := { src := 2 } } : State).tb.src = 2 ∧ ({ up with tb := { state := .locked } } : State).tb.state ≠ .source
    ∧ endOf ({ up with tb := { state := .locked, tick := 9 } } : State).tb.lastEdge 8 ≤ ({ up with tb := { state := .locked, tick := 9 } } : State).now
    ∧ endOf ({ up with tb := { state := .holdover, tick := 1001 } } : State).tb.since 1000 ≤ ({ up with tb := { state := .holdover, tick := 1001 } } : State).now := by decide +kernel

/-! Trays, button, sensors -/
def withTray (y : Tray) : State := { up with trays := [(15, y)] }
theorem test_meets_trays : ((withTray { state := .train }).tray 15).prsnt = false ∧ ((withTray { state := .train, prsnt := true }).tray 15).prsnt = true ∧ up.quartersOn = true
    ∧ ((withTray { state := .train }).tray 15).state = .train ∧ ((withTray { state := .assigned, retrainAt := some 0 }).tray 15).retrainAt.isSome = true
    ∧ ((withTray { state := .assigned, prsnt := true }).tray 15).retrainAt = none := by decide
def pressed (b : Nat) (e : Option Nat) : State := { up with mod := { up.mod with attn := some b, attnEnd := e } }
theorem test_meets_presses : up.alive = true ∧ up.mod.attn = none ∧ (pressed 0 none).mod.attn = some 0 ∧ (pressed 0 none).pressable = true ∧ (pressed 0 none).mod.ignored = false
    ∧ (withTray { state := .assigned, sel := true }).selected = some 15 ∧ (withTray { state := .evac, sel := true }).selected = some 15
    ∧ (withTray { state := .assigned, sel := true }).evacLack 15 = 8 ∧ ({ onePart .bound 0x312 with trays := [(15, { state := .assigned, sel := true })] } : State).evacLack 15 = 0 := by decide +kernel
theorem test_meets_latch : up.mod.latch = false ∧ up.caskOn = true := by decide

/-! Power, heat -/
theorem test_meets_power : up.answers .pcie = true ∧ up.boot.step ≠ 7 ∧ sbits (7 : BitVec 64) 0 3 = 7 ∧ up.powerRefusal 2 = 0 ∧ (onePart .bound 0x312).powerRefusal 3 = 1
    ∧ (onePart .bound 0x312).parts.any (fun e => e.2.state = .bound) = true ∧ ({ up with pw := { trans := some 3 } } : State).alive = true
    ∧ ({ atTick up 1001 with pw := { idle := some 0 } } : State).idleNow = true ∧ endOf 0 1000 ≤ (atTick up 1001).now := by decide
theorem test_meets_heat : up.sensing = true ∧ celsius 95 ≤ (760 : BitVec 16).toInt ∧ (720 : BitVec 16).toInt ≤ celsius 90 ∧ ({ up with mod := { warn := 0x1F } } : State).mod.warn.getLsbD 4 = true
    ∧ shutdownAt 4 = some (celsius 110) ∧ celsius 110 ≤ (880 : BitVec 16).toInt ∧ celsius 88 ≤ (704 : BitVec 16).toInt ∧ (664 : BitVec 16).toInt ≤ celsius 83
    ∧ ({ up with mod := { throttled := 0x80000000 } } : State).mod.throttled.getLsbD 31 = true ∧ sensorWarm 37 (368 : BitVec 16).toInt = true ∧ sensorWarm 42 (880 : BitVec 16).toInt = true
    ∧ sensorWarm 42 (0 : BitVec 16).toInt = false := by decide

/-! Resets, start-up -/
def atStep (n : BitVec 3) : State := { State.reset with boot := { step := n }, pw := { xo := true } }
theorem test_meets_startup : (atStep 1).alive = true ∧ (atStep 1).pw.xo = true ∧ (atStep 1).boot.step = 1 ∧ State.reset.pw.xo = false ∧ State.reset.alive = true
    ∧ ({ atStep 3 with boot := { step := 3, stacksUp := BitVec.allOnes 32 } } : State).boot.stacksUp = BitVec.allOnes 32 ∧ (atStep 3).boot.stacksUp.getLsbD 31 = false
    ∧ (atStep 3).monitored 0x1F = true ∧ (atStep 1).fuse.lc ≠ .scrapped ∧ ({ up with pw := { ramps := [1, 2] } } : State).pw.ramps = [1, 2] := by decide
theorem test_meets_resets : ({ up with mod := { pwrGood := false } } : State).mod.pwrGood = false ∧ ({ up with boot := { up.boot with held := true } } : State).boot.held = true
    ∧ up.boot.dead = false ∧ up.pw.state ≠ 4 ∧ ({ up with pw := { state := 4 } } : State).pw.state = 4 ∧ up.mod.pwrGood = true := by decide

/-! Registers, security, faults -/
theorem test_meets_registers : (up.writeSq 0xB008 0).isSome = true ∧ up.writeSq 0x18 0 = none ∧ (0xB008 : BitVec 32).toNat % 8 = 0 ∧ sbit (1 : BitVec 64) 0 = true
    ∧ up.winP.busy = false ∧ ({ up with winP := ({ busy := true } : Window) } : State).winP.busy = true ∧ (List.replicate 16 (0 : Byte)).length = 16
    ∧ natAt (List.replicate 16 (0 : Byte)) 1 3 = 0 ∧ natAt (1 :: List.replicate 15 (0 : Byte)) 0 1 = 1 ∧ (linked { state := .train }).ports.any (fun e => e.2.off = 0 && e.2.state ≠ .disabled) = true := by decide
def deployed : State := { up with sec := { up.sec with lc := .deployed, caskV := true } }
theorem test_meets_security : deployed.spdmUp .pcie = true ∧ deployed.spdmRom = false ∧ deployed.slotHeld 0 = true ∧ deployed.slotHeld 7 = true ∧ up.slotHeld 7 = false
    ∧ lcArrow .deployed .returned = some true ∧ lcArrow .provisioned .deployed = some false ∧ lcArrow .scrapped .deployed = none ∧ deployed.parts = []
    ∧ dbgCode deployed.sec.debug < dbgCode .observe ∧ debugAllowed .deployed .observe false = true ∧ debugAllowed .deployed .invasive true = false
    ∧ dbgCode .none < dbgCode ({ up with sec := { debug := .invasive } } : State).sec.debug := by decide
theorem test_meets_faults : (linked { state := .active }).ticking = true ∧ ((homed {} (asks 0)).part 0).spot 0 = some { tier := 1, tray := 0, frame := 0, off := 0, lay := 0 }
    ∧ (((homed {} (asks 0)).part 0).page 0).tier ≠ 0 ∧ (((homed {} (asks 0)).part 0).page 0).dstFrms = [] ∧ ((homed {} (asks 0)).blk 0).state = .member
    ∧ (working []).ticking = true ∧ ((working []).ctx 0).holds = true ∧ ((working []).ctx 0).parked = false ∧ (homed {} (asks 0)).partOfBlk 0 = some 0 ∧ up.boot.halted = false ∧ up.parts = []
    ∧ ((onePart .ready 0).part 0).state = .ready
    ∧ (({ up with blks := [(0, { replay := [⟨1, 1, 0, 0, 1, 0, 0, 0, [], 0, 9⟩] })] } : State).blk 0).replay ≠ [] := by decide

/-! ### Ill-formed commands are refused -/

theorem test_wf_ctl : (Instr.mapsetBind .pcie { modf := 0, rsv := 0, arglen := 1, imm := 0, args := [] }).wf = false
    ∧ (Instr.mapsetBind .pcie { modf := 0, rsv := 0, arglen := 1, imm := 0, args := [0] }).wf = true := by decide
theorem test_wf_flit : (Instr.dataFlit 0 { hdr := 0, slots := [], crc := 0, fecBad := false }).wf = false
    ∧ (Instr.idleFlit 0 { hdr := 1, slots := List.replicate 15 0, crc := 0, fecBad := false }).wf = true := by decide
theorem test_wf_place : (Instr.queueAdmissionRetry (.landing 0 7)).wf = false ∧ (Instr.queueAdmissionRetry (.direct 0 true 7)).wf = false ∧ (Instr.queueAdmissionRetry (.block 0 7)).wf = false
    ∧ (Instr.packetIngress 0 7).wf = false ∧ (Instr.reseqGapTimeout 0 7).wf = false ∧ (Instr.queueAdmissionRetry (.block 0 6)).wf = true := by decide
theorem test_wf_sites : (Instr.uncorrectableError (.packet 0 1153)).wf = false ∧ (Instr.uncorrectableError (.channelRetrain 0 10)).wf = false ∧ (Instr.correctedError (.channelSymbol 0 160) 1).wf = false
    ∧ (Instr.correctedError (.channelRetry 0 160) 1).wf = false ∧ (Instr.uncorrectableError (.packet 3 1152)).wf = true := by decide
theorem test_wf_power : (Instr.pwReqP0 .pcie 2).wf = false ∧ (Instr.pwReqP2 .pcie 0).wf = false ∧ (Instr.pwReqP3 .pcie 0).wf = false ∧ (Instr.pwReqP4 .pcie 0).wf = false
    ∧ (Instr.pwReqSwreset .pcie 0).wf = false ∧ (Instr.pwReqSwreset .pcie 0xF).wf = true := by decide
theorem test_wf_others : (Instr.frameScrubbed 0 0).wf = false ∧ (Instr.i3cRegisterAccess []).wf = false ∧ (Instr.registerWrite .pcie 4 8 0).wf = false ∧ (Instr.registerWrite .pcie 8 2 0).wf = false
    ∧ (Instr.dividerRampDone 18).wf = false ∧ (Instr.registerWrite .pcie 4 4 0).wf = true := by decide

end Sys2Proof.Tests
end

section
/-! What a home does with an atomic whose line no cache holds: the rows of R172, one lemma each. -/

namespace Sys2Proof.Machine

/-! ### What a write to a line leaves alone -/

@[simp] theorem State.pokes_blks (s : State) (p a : Nat) (v : List Byte) : (s.pokes p a v).blks = s.blks := by
  induction v generalizing s a with
  | nil => rfl
  | cons b r ih => exact ih (s.poke p a b) (a + 1)

/-- What pool memory holds after a write depends on nothing but what it held before. -/
theorem State.pokes_mem_congr {s t : State} (h : s.mem = t.mem) (p a : Nat) (v : List Byte) : (s.pokes p a v).mem = (t.pokes p a v).mem := by
  induction v generalizing s t a with
  | nil => exact h
  | cons b r ih => exact ih (s := s.poke p a b) (t := t.poke p a b) (by simp [State.poke, h]) (a + 1)

theorem State.blk_congr {s t : State} (h : s.blks = t.blks) (g : Nat) : s.blk g = t.blk g := by
  simp [State.blk, h]

/-- Where a line's bytes are held is a matter of its Block's directory and hot slots (R200). -/
theorem State.hotOf_congr {s t : State} {g : Nat} (hd : (s.blk g).dir = (t.blk g).dir) (hh : (s.blk g).hot = (t.blk g).hot) (l : Nat) :
    s.hotOf g l = t.hotOf g l := by
  simp [State.hotOf, State.ent, hd, hh]

/-- Bytes put in a line reach pool memory where the line has no hot slot (R200, R206). -/
theorem State.linePut_mem (s : State) (g p l o : Nat) (v : List Byte) (pois clears : Bool) :
    (s.linePut g p l o v pois clears).mem = if (s.hotOf g l).isSome then s.mem else (s.pokes p (128 * l + o) v).mem := by
  cases hs : s.hotOf g l with
  | some x => simp [State.linePut, hs, State.setHot]
  | none => cases pois <;> cases clears <;> simp [State.linePut, hs]

/-- Bytes put in a line leave its Block's replay cache alone. -/
@[simp] theorem State.linePut_replay (s : State) (g p l o : Nat) (v : List Byte) (pois clears : Bool) :
    ((s.linePut g p l o v pois clears).blk g).replay = (s.blk g).replay := by
  cases hs : s.hotOf g l with
  | some x => simp [State.linePut, hs, State.setHot]
  | none =>
    have hb : (s.linePut g p l o v pois clears).blks = s.blks := by
      cases pois <;> cases clears <;> simp [State.linePut, hs]
    rw [State.blk_congr hb]

/-! ### The early rows: a held entry, the window, the horizon -/

/-- The entry of an atomic's key that the Block still holds (R171). -/
def State.heldFor (s : State) (g : Nat) (k : Pkt) : Option Replay :=
  (s.replays g).find? (fun e => e.seid = k.seid && e.sinc = k.sinc && e.tag = k.tag && e.issue.toNat = k.issue)

/-- The entry is that of this very atomic: address, AOP, ATYPE and operands (R172, rows 1 and 2). -/
abbrev Replay.agrees (e : Replay) (m : Msg) : Prop :=
  e.paddr = m.paddr ∧ e.aop.toNat = m.pkt.aop ∧ e.atype.toNat = m.pkt.atype ∧ e.ops = m.pkt.data

/-- The atomic's window is over, or it was first sent at or before the horizon (R172, rows 3 and 4). -/
abbrev State.tooOld (s : State) (g : Nat) (k : Pkt) (tn : Nat) : Prop :=
  issueTick tn k.issue + 128 ≤ (tn : Int) ∨ issueTick tn k.issue ≤ ((s.blk g).hz.toNat : Int)

theorem State.atDecide_held {s : State} {g : Nat} {m : Msg} {e : Replay} (tn : Nat) (h : s.heldFor g m.pkt = some e) :
    s.atDecide g m tn = if e.agrees m then .cached e.value else .clash := by
  unfold State.heldFor at h
  simp only [State.atDecide, h]

theorem State.atDecide_unheld {s : State} {g : Nat} {m : Msg} (tn : Nat) (h : s.heldFor g m.pkt = none) :
    s.atDecide g m tn = if s.tooOld g m.pkt tn then .unknown else .go := by
  unfold State.heldFor at h
  simp only [State.atDecide, h, ge_iff_le]

theorem State.atPerform_cached {s : State} {g p tn : Nat} {m : Msg} {v : BitVec 128} (h : s.atDecide g m tn = .cached v) :
    s.atPerform g p m tn = (s.updBlk g (fun b => { b with hit := satAdd b.hit 1 })).reply g m rAT stOk [] [v] := by
  simp [State.atPerform, State.atEarly, h, State.atDone]

theorem State.atPerform_clash {s : State} {g p tn : Nat} {m : Msg} (h : s.atDecide g m tn = .clash) :
    s.atPerform g p m tn = (s.updBlk g (fun b => { b with clash := satAdd b.clash 1 })).reply g m rNAK stUnknown [] [] := by
  simp [State.atPerform, State.atEarly, h]

theorem State.atPerform_unknown {s : State} {g p tn : Nat} {m : Msg} (h : s.atDecide g m tn = .unknown) :
    s.atPerform g p m tn = (s.updBlk g (fun b => { b with unknown := satAdd b.unknown 1 })).reply g m rNAK stUnknown [] [] := by
  simp [State.atPerform, State.atEarly, h]

theorem State.atEarly_go {s : State} {g tn : Nat} {m : Msg} (h : s.atDecide g m tn = .go) : s.atEarly g m tn = none := by
  simp [State.atEarly, h]

/-! ### The rows that look at the line and at the cache's room -/

/-- The entries that the source of a packet holds at a Block. -/
abbrev State.replaysOf (s : State) (g : Nat) (k : Pkt) : List Replay :=
  (s.replays g).filter (fun e => e.seid = k.seid && e.sinc = k.sinc)

/-- The bytes at an atomic's location. -/
abbrev State.atOld (s : State) (g p : Nat) (m : Msg) : List Byte :=
  bytesAt (s.lineBytes g p (m.paddr / 128)) (m.paddr % 128) (atWidth m.pkt.atype)

/-- The value that an atomic answers and its entry keeps (R158). -/
abbrev State.atValue (s : State) (g p : Nat) (m : Msg) : BitVec 128 := BitVec.ofNat 128 (leNat (s.atOld g p m))

/-- The entry that an applied atomic leaves, held for 128 ticks (R171). -/
def State.atEntry (s : State) (g p : Nat) (m : Msg) : Replay :=
  { seid := m.pkt.seid, sinc := m.pkt.sinc, tag := m.pkt.tag, issue := BitVec.ofNat 16 m.pkt.issue, job := m.pkt.job, paddr := m.paddr,
    aop := BitVec.ofNat 4 m.pkt.aop, atype := BitVec.ofNat 4 m.pkt.atype, ops := m.pkt.data, value := s.atValue g p m, expiry := endOf s.now 128 }

/-- The write of an atomic, which may write nothing (R157). -/
def State.atStore (s : State) (g p l o : Nat) : Option (List Byte) → State
  | some v => s.lineWrite g p l o v false
  | none => s

/-- The last row's effect: the entry made and the atomic applied. -/
def State.atApply (s : State) (g p : Nat) (m : Msg) : State :=
  (s.updBlk g (fun b => { b with replay := b.replay ++ [s.atEntry g p m] })).atStore g p (m.paddr / 128) (m.paddr % 128)
    (atNew m.pkt.aop m.pkt.atype (s.atOld g p m) m.pkt.data)

theorem State.atPerform_bad {s : State} {g p tn : Nat} {m : Msg} (h : s.atDecide g m tn = .go) (hb : s.lineBad g p (m.paddr / 128) = true) :
    s.atPerform g p m tn = s.reply g m rNAK stPoison [] [] := by
  simp [State.atPerform, State.atEarly_go h, hb]

theorem State.atPerform_full {s : State} {g p tn : Nat} {m : Msg} (h : s.atDecide g m tn = .go) (hb : s.lineBad g p (m.paddr / 128) = false)
    (hf : 256 ≤ (s.replaysOf g m.pkt).length) :
    s.atPerform g p m tn = (s.updBlk g (fun b => { b with full := satAdd b.full 1 })).reply g m rNAK stRetry [] [] := by
  simp only [State.atPerform, State.atEarly_go h, hb, if_pos hf, Bool.false_eq_true, if_false]

theorem State.atPerform_apply {s : State} {g p tn : Nat} {m : Msg} (h : s.atDecide g m tn = .go) (hb : s.lineBad g p (m.paddr / 128) = false)
    (hf : (s.replaysOf g m.pkt).length < 256) :
    s.atPerform g p m tn = (s.atApply g p m).reply g m rAT stOk [] [s.atValue g p m] := by
  simp only [State.atPerform, State.atEarly_go h, hb, if_neg (Nat.not_le.mpr hf), Bool.false_eq_true, if_false]
  cases hn : atNew m.pkt.aop m.pkt.atype (s.atOld g p m) m.pkt.data <;> simp only [State.atApply, hn] <;> rfl

/-! ### What an applied atomic keeps and writes -/

theorem State.atStore_replay (s : State) (g p l o : Nat) (v : Option (List Byte)) : ((s.atStore g p l o v).blk g).replay = (s.blk g).replay := by
  cases v with
  | none => rfl
  | some v => exact s.linePut_replay g p l o v false _

theorem State.atStore_mem (s : State) (g p l o : Nat) (v : Option (List Byte)) :
    (s.atStore g p l o v).mem = match v with | some v => (s.lineWrite g p l o v false).mem | none => s.mem := by
  cases v <;> rfl

/-- A change of a Block that keeps its directory and hot slots does not change what an atomic writes to memory. -/
theorem State.atStore_mem_updBlk (s : State) (g p l o : Nat) (v : Option (List Byte)) {f : Block → Block} (hd : (f (s.blk g)).dir = (s.blk g).dir)
    (hh : (f (s.blk g)).hot = (s.blk g).hot) : ((s.updBlk g f).atStore g p l o v).mem = (s.atStore g p l o v).mem := by
  cases v with
  | none => rfl
  | some v =>
    have hot : (s.updBlk g f).hotOf g l = s.hotOf g l := State.hotOf_congr (by simpa using hd) (by simpa using hh) l
    have mem : ((s.updBlk g f).pokes p (128 * l + o) v).mem = (s.pokes p (128 * l + o) v).mem := State.pokes_mem_congr (s.updBlk_mem g f) ..
    simp only [State.atStore, State.lineWrite, State.linePut_mem, hot, mem, State.updBlk_mem]

theorem State.atApply_replay (s : State) (g p : Nat) (m : Msg) : ((s.atApply g p m).blk g).replay = (s.blk g).replay ++ [s.atEntry g p m] := by
  simp [State.atApply, State.atStore_replay]

theorem State.atApply_mem (s : State) (g p : Nat) (m : Msg) :
    (s.atApply g p m).mem = (s.atStore g p (m.paddr / 128) (m.paddr % 128) (atNew m.pkt.aop m.pkt.atype (s.atOld g p m) m.pkt.data)).mem :=
  s.atStore_mem_updBlk g p _ _ _ rfl rfl

/-- Settles O41: each row of R172 by the lemma for its row; the last row's entry and memory by what `State.atApply` keeps and writes. -/
theorem atomicsAreDecided : Obligations.AtomicsAreDecided := by
  intro s g p tn m k l t0 held done nak agrees old'
  have go (hn : held = none) (ho : ¬old') : s.atDecide g m tn = .go := (s.atDecide_unheld tn hn).trans (if_neg ho)
  refine ⟨fun e he ha => ?hit, fun e he ha => ?clash, fun hn ho => ?unknown, fun hn ho hb => State.atPerform_bad (go hn ho) hb,
    fun hn ho hb => ⟨fun hf => ?full, fun hf => ?applied⟩⟩
  case hit => exact ⟨_, State.atPerform_cached ((s.atDecide_held tn he).trans (if_pos ha)), rfl⟩
  case clash => exact ⟨_, State.atPerform_clash ((s.atDecide_held tn he).trans (if_neg ha)), rfl⟩
  case unknown => exact ⟨_, State.atPerform_unknown ((s.atDecide_unheld tn hn).trans (if_pos ho)), rfl⟩
  case full => exact ⟨_, State.atPerform_full (go hn ho) hb hf, rfl⟩
  case applied =>
    exact ⟨s.atApply g p m, State.atPerform_apply (go hn ho) hb hf,
      ⟨s.atEntry g p m, s.atApply_replay g p m, rfl, rfl, rfl, rfl, rfl, rfl, rfl, rfl⟩, (s.atApply_mem g p m).trans (s.atStore_mem ..)⟩

end Sys2Proof.Machine
end

section
/-! What a gate does to a control instruction: why it turns it away (R374, R434, R463), and what the answer leaves alone. -/

namespace Sys2Proof.Machine

/-! ### What messages and events leave alone -/

/-- The state with all that a message or an event of this device may touch blanked: the ring of events and its counters, the outputs, the free
values taken, Quarters, Blocks, ports, trunks and the Square's queues. Two states that agree in it have the same memory, tables and journal. -/
def State.still (s : State) : State :=
  { s with sec := { s.sec with evts := [], eseq := 0, evtDrop := 0 }, out := [], freeCtr := 0, qs := [], blks := [], ports := [], trunks := [],
           sqOut := [], ctlq := [] }

@[simp] theorem State.updQueue_still (s : State) (q n : Nat) (f : Queue → Queue) : (s.updQueue q n f).still = s.still := rfl
@[simp] theorem State.updQtr_still (s : State) (q : Nat) (f : Quarter → Quarter) : (s.updQtr q f).still = s.still := rfl
@[simp] theorem State.updBlk_still (s : State) (g : Nat) (f : Block → Block) : (s.updBlk g f).still = s.still := rfl
@[simp] theorem State.nsFree_still (s : State) : s.nsFree.2.still = s.still := rfl

/-- A fold leaves alone what each of its steps leaves alone. -/
theorem foldl_still {α : Type} {f : State → α → State} (h : ∀ s x, (f s x).still = s.still) (l : List α) (s : State) :
    (l.foldl f s).still = s.still := by
  induction l generalizing s with
  | nil => rfl
  | cons x r ih => exact (ih _).trans (h s x)

/-! ### Queues -/

@[simp] theorem State.countRefused_still (s : State) (q n : Nat) : (s.countRefused q n).still = s.still := rfl

@[simp] theorem State.takeTurn_still (s : State) (q n : Nat) (p : Pkt) : (s.takeTurn q n p).still = s.still := by
  unfold State.takeTurn
  split <;> rfl

@[simp] theorem State.notePool_still (s : State) (q : Nat) : (s.notePool q).still = s.still := rfl

@[simp] theorem State.noteDepth_still (s : State) (q n : Nat) : (s.noteDepth q n).still = s.still := by
  simp only [State.noteDepth]
  split <;> simp

@[simp] theorem State.enqueue_still (s : State) (q n : Nat) (m : Msg) (cells fromMin : Nat) (mc : Option Nat) :
    (s.enqueue q n m cells fromMin mc).still = s.still := by
  simp [State.enqueue]

@[simp] theorem State.releaseMc_still (s : State) (q : Nat) (p : QPkt) : (s.releaseMc q p).still = s.still := by
  unfold State.releaseMc
  split <;> rfl

theorem State.takeHead_still {s t : State} {q n : Nat} {p : QPkt} (h : s.takeHead q n = some (p, t)) : t.still = s.still := by
  unfold State.takeHead at h
  split at h
  · cases h
  · cases h
    exact State.releaseMc_still ..

theorem State.admitUni_still {s t : State} {q n : Nat} {m : Msg} (h : s.admitUni q n m = some t) : t.still = s.still := by
  simp only [State.admitUni] at h
  split at h
  · cases h
    simp
  · cases h

theorem State.admitMc_still {s t : State} {q c : Nat} {ts : List (Nat × Msg)} {b : Bool} (h : s.admitMc q ts c b = some t) :
    t.still = s.still := by
  have stored (u : State) (k : Nat) (l : List (Nat × Msg)) : (l.foldl (fun s t => s.enqueue q t.1 t.2 c 0 (some k)) u).still = u.still :=
    foldl_still (fun s t => s.enqueue_still ..) l u
  have counted (u : State) (l : List (Nat × Msg)) : (l.foldl (fun s t => s.countRefused q t.1) u).still = u.still :=
    foldl_still (fun s t => s.countRefused_still ..) l u
  simp only [State.admitMc] at h
  repeat' split at h
  all_goals cases h <;> simp [stored, counted]

/-! ### Events -/

@[simp] theorem State.sendEvent_still (s : State) (e : Event) (k : Nat) : (s.sendEvent e k).still = s.still := by
  simp only [State.sendEvent]
  split
  · rfl
  · split
    next h => exact State.admitUni_still h
    next => rfl

@[simp] theorem State.raise_still (s : State) (e : Event) : (s.raise e).still = s.still := by
  simp only [State.raise]
  rw [foldl_still (fun s k => s.sendEvent_still ..)]
  repeat' split
  all_goals rfl

/-! ### Offering a packet to its outputs -/

@[simp] theorem State.fenceDrop_still (s : State) (g : Nat) : (s.fenceDrop g).still = s.still := by
  simp only [State.fenceDrop]
  split <;> simp

@[simp] theorem State.creditBack_still (s : State) (m : Msg) : (s.creditBack m).still = s.still := by
  unfold State.creditBack
  split <;> rfl

@[simp] theorem State.stamp_still (s : State) (r : Route) (m : Msg) : (s.stamp r m).2.still = s.still := by
  simp only [State.stamp]
  repeat' split
  all_goals rfl

@[simp] theorem State.lose_still (s : State) (q : Nat) (m : Msg) (r : Route) : (s.lose q m r).still = s.still := by
  have dropped (l : List Nat) : (l.foldl (fun s g => s.fenceDrop g) s).still = s.still := foldl_still (fun s g => s.fenceDrop_still g) l s
  simp only [State.lose]
  repeat' split
  all_goals simp [dropped]

theorem State.admitAt_still {s t : State} {q : Nat} {r : Route} {ns : List Nat} {m : Msg} (h : s.admitAt q r ns m = some t) :
    t.still = s.still := by
  have stamped := s.stamp_still r m
  simp only [State.admitAt] at h
  split at h
  · cases h; rfl
  · split at h
    · exact (State.admitMc_still h).trans stamped
    · split at h
      next hu => cases h; exact (State.admitUni_still hu).trans stamped
      next => split at h <;> cases h; rfl
  · exact (State.admitMc_still h).trans stamped

theorem State.cross_still {s t : State} {q x : Nat} {even : Bool} {r : Route} {ns : List Nat} {m w : Msg}
    (h : s.cross q x even r ns m w = some t) : t.still = s.still := by
  simp only [State.cross] at h
  split at h
  next u hu =>
    have admitted : u.still = s.still := State.admitAt_still (Option.ite_none_right_eq_some.mp hu).2
    cases h
    split <;> simp [admitted]
  next =>
    repeat' split at h
    all_goals cases h <;> rfl

/-- The copies for the other Quarters, taken across one after the other. -/
theorem State.crossAll_still {q : Nat} {even : Bool} {r : Route} {ns : Nat → List Nat} {m w : Msg} {xs : List Nat} {a : Option State} {t : State}
    (h : xs.foldl (fun (a : Option State) x => match a with | none => none | some s => s.cross q x even r (ns x) m w) a = some t) :
    ∃ s, a = some s ∧ t.still = s.still := by
  induction xs generalizing a with
  | nil => exact ⟨t, h, rfl⟩
  | cons x xs ih =>
    obtain ⟨u, hu, ht⟩ := ih h
    cases a with
    | none => cases hu
    | some s => exact ⟨s, rfl, ht.trans (State.cross_still hu)⟩

theorem State.offer_still {s t : State} {q : Nat} {even : Bool} {m : Msg} {r : Route} (h : s.offer q even m r = some t) : t.still = s.still := by
  simp only [State.offer] at h
  split at h
  · cases h
    simp
  · split at h
    · cases h
    next u hu =>
      split at h
      · cases h
      next v hv =>
        obtain ⟨w, hw, hvw⟩ := State.crossAll_still hv
        cases hw
        have crossed : v.still = s.still := hvw.trans ((State.admitAt_still hu).trans (s.lose_still q m r))
        cases h
        split <;> simp [crossed]

/-! ### Messages of the Square -/

@[simp] theorem State.beginWait_still (s : State) (m : Msg) (r : Route) : (s.beginWait m r).still = s.still := by
  unfold State.beginWait
  split
  · rfl
  · exact foldl_still (fun s o => s.countRefused_still ..) _ s

@[simp] theorem State.sendSq_still (s : State) (m : Msg) : (s.sendSq m).still = s.still := by
  simp only [State.sendSq]
  split
  · rfl
  · split
    next h => exact State.offer_still h
    next => exact s.beginWait_still ..

theorem State.dropSinks_still (s : State) (q n : Nat) : (s.dropSinks q n).still = s.still := by
  induction n generalizing s with
  | zero => rfl
  | succ n ih =>
    simp only [State.dropSinks]
    split
    · split
      · split
        next h => exact (ih _).trans (State.takeHead_still h)
        next => rfl
      · rfl
    · rfl

@[simp] theorem State.sinks_still (s : State) (via : Via) : (s.sinks via).still = s.still := by
  cases via with
  | tc0 q => exact s.dropSinks_still ..
  | pcie => rfl
  | i3c => rfl

@[simp] theorem State.dropCtl_still (s : State) (via : Via) : (s.dropCtl via).still = s.still := by
  cases via with
  | tc0 q =>
    simp only [State.dropCtl]
    split
    next h => exact (State.takeHead_still h).trans rfl
    next => rfl
  | pcie => rfl
  | i3c => rfl

/-- A completion that goes back to a TC0 source is a message of the Square. -/
theorem State.ctlAnswer_tc0_still (s : State) {c : Caller} {q : QId} (h : c.via = .tc0 q) (rec : Slot) : (s.ctlAnswer c rec).still = s.still := by
  simp [State.ctlAnswer, h]

/-! ### The gates -/

/-- The caller of the instruction at the head of the control queue came by the entry point asked. -/
theorem State.peekCtl_via {s : State} {via : Via} {ci : CtlInsn} {opc sub o b : Nat} {c : Caller} (h : s.peekCtl via ci opc sub = some (c, o, b)) :
    c.via = via := by
  have called {x : Caller} {w : Option (Nat × Nat)} (hx : x.via = via) (hw : w.map (fun k => (x, k.1, k.2)) = some (c, o, b)) : c.via = via := by
    obtain ⟨k, -, hk⟩ := Option.map_eq_some_iff.mp hw
    cases hk
    exact hx
  unfold State.peekCtl at h
  split at h
  · cases h
  · split at h
    · cases h
    · split at h
      · split at h
        · dsimp only at h
          split at h
          · exact called rfl (Option.ite_none_right_eq_some.mp h).2
          · cases h
        · cases h
      · exact called rfl (Option.ite_none_right_eq_some.mp h).2

/-- The caller is no manager: it came as a CTLI, and its source EID is not marked (R374). -/
def State.Stranger (s : State) (c : Caller) : Prop := ∃ q, c.via = .tc0 q ∧ c.pkt.seid.toNat ∉ s.mgrs

theorem State.ctlGate_of_stranger {s : State} {c : Caller} (h : s.Stranger c) (opc : Nat) : s.ctlGate c opc = some stPerm := by
  obtain ⟨q, hv, hm⟩ := h
  simp [State.ctlGate, hv, hm]

/-- Any other caller is asked to come again, until start-up is over (R434), the device runs (R463) and its power state serves the instruction. -/
theorem State.ctlGate_of_not_stranger {s : State} {c : Caller} (h : ¬s.Stranger c) (opc : Nat) :
    s.ctlGate c opc = if s.boot.step ≠ 6 ∨ s.boot.halted then some stRetry
      else if 3 ≤ s.pw.state.toNat ∧ opc ≠ 0x88 then some stRetry else none := by
  cases hv : c.via with
  | tc0 q =>
    have marked : c.pkt.seid.toNat ∈ s.mgrs := Classical.not_not.mp fun hm => h ⟨q, hv, hm⟩
    simp [State.ctlGate, hv, marked]
  | pcie => simp [State.ctlGate, hv]
  | i3c => simp [State.ctlGate, hv]

/-- A gate turns away a stranger for good, and any other caller until later. -/
theorem State.ctlGate_some {s : State} {c : Caller} {opc : Nat} {st : Status} (hg : s.ctlGate c opc = some st) :
    s.Stranger c ∧ st = stPerm ∨ ¬s.Stranger c ∧ st = stRetry := by
  by_cases h : s.Stranger c
  · exact .inl ⟨h, Option.some.inj (hg.symm.trans (State.ctlGate_of_stranger h opc))⟩
  · rw [State.ctlGate_of_not_stranger h] at hg
    refine .inr ⟨h, ?_⟩
    split at hg
    · exact (Option.some.inj hg).symm
    · exact (Option.some.inj (Option.ite_none_right_eq_some.mp hg).2).symm

/-- Each control instruction runs under the gates, with checks and an effect of its own (R376). -/
theorem exec_eq_runCtl {mk : Via → CtlInsn → Instr} {opc sub : Nat} (h : (mk, opc, sub) ∈ ctlRows) (s : State) (via : Via) (ci : CtlInsn) :
    ∃ check effect, exec (mk via ci) s = s.runCtl via ci opc sub check effect := by
  suffices all : ∀ r ∈ ctlRows, ∃ check effect, exec (r.1 via ci) s = s.runCtl via ci r.2.1 r.2.2 check effect from all _ h
  simp only [ctlRows, List.forall_mem_cons, List.not_mem_nil, false_imp_iff, implies_true, and_true]
  and_intros
  all_goals
    dsimp only [exec]
    exact ⟨_, _, rfl⟩

/-- A control instruction that a gate turns away does nothing but complete with the gate's status. -/
theorem exec_gated {mk : Via → CtlInsn → Instr} {s : State} {via : Via} {ci : CtlInsn} {c : Caller} {opc sub : Nat} {st : Status}
    (hr : (mk, opc, sub) ∈ ctlRows) (h : CtlHead s via ci opc sub c) (hg : (s.sinks via).ctlGate c opc = some st) :
    exec (mk via ci) s = .next (((s.sinks via).dropCtl via).ctlAnswer c (ctlRecord st opc sub none 0)) := by
  obtain ⟨check, effect, he⟩ := exec_eq_runCtl hr s via ci
  exact he.trans (runCtl_gate h hg)

/-- Settles O11: what an instruction does behind a gate by `exec_gated`, which gate it was by `State.ctlGate_some`, and what the answer to a
stranger leaves alone by `State.still`. -/
theorem controlGates : Obligations.ControlGates := by
  constructor
  · intro s via ci c mk opc sub st hr h hg
    obtain rfl : c.via = via := State.peekCtl_via h.2
    refine ⟨exec_gated hr h hg, ?_⟩
    obtain ⟨stranger, rfl⟩ | ⟨known, rfl⟩ := State.ctlGate_some hg
    · exact ⟨iff_of_true rfl stranger, fun _ => .inl rfl⟩
    · exact ⟨iff_of_false (by decide) known, fun _ => .inr rfl⟩
  · intro s q ci c mk opc sub hr h hv hm
    refine ⟨_, exec_gated hr h (State.ctlGate_of_stranger ⟨q, hv, hm⟩ opc), rfl, ?_⟩
    have still : (((s.sinks (.tc0 q)).dropCtl (.tc0 q)).ctlAnswer c (ctlRecord stPerm opc sub none 0)).still = s.still := by
      simp [State.ctlAnswer_tc0_still _ hv]
    exact ⟨congrArg (·.sec.jrnl) still, congrArg (·.sec.jseq) still, congrArg (·.parts) still, congrArg (·.trays) still,
      congrArg (·.mgrs) still, congrArg (·.mem) still⟩

end Sys2Proof.Machine
end

section
/-! Fields laid in words: what `pack` lays down is read back by `bits` at its place, so control words, completion records and packet headers spell their fields. -/

namespace Sys2Proof.Machine

/-! ### pack and bits -/

/-- The number of bits that fields take. -/
def packWidth (l : List (Nat × Nat)) : Nat := (l.map (·.1)).sum

@[simp] theorem packWidth_nil : packWidth [] = 0 := rfl
@[simp] theorem packWidth_cons (e : Nat × Nat) (l : List (Nat × Nat)) : packWidth (e :: l) = e.1 + packWidth l := rfl

theorem pack_lt (l : List (Nat × Nat)) : pack l < 2 ^ packWidth l := by
  induction l with
  | nil => simp [pack]
  | cons e r ih =>
    obtain ⟨w, v⟩ := e
    have hv : v % 2 ^ w < 2 ^ w := Nat.mod_lt _ (Nat.two_pow_pos w)
    calc v % 2 ^ w + 2 ^ w * pack r < 2 ^ w + 2 ^ w * pack r := by omega
      _ = 2 ^ w * (pack r + 1) := by rw [Nat.mul_add, Nat.mul_one, Nat.add_comm]
      _ ≤ 2 ^ w * 2 ^ packWidth r := Nat.mul_le_mul_left _ ih
      _ = 2 ^ packWidth ((w, v) :: r) := by rw [packWidth_cons, Nat.pow_add]

/-- The first field lies at bit 0. -/
theorem bits_pack_zero (w v : Nat) (r : List (Nat × Nat)) : bits (pack ((w, v) :: r)) 0 w = v % 2 ^ w := by
  simp [bits, pack]

/-- Bits above the first field are those of the other fields. -/
theorem bits_pack_succ (w v lo n : Nat) (r : List (Nat × Nat)) : bits (pack ((w, v) :: r)) (w + lo) n = bits (pack r) lo n := by
  have hv : v % 2 ^ w < 2 ^ w := Nat.mod_lt _ (Nat.two_pow_pos w)
  have : (v % 2 ^ w + 2 ^ w * pack r) / 2 ^ w = pack r := by
    rw [Nat.add_mul_div_left _ _ (Nat.two_pow_pos w), Nat.div_eq_of_lt hv, Nat.zero_add]
  simp only [bits, pack, Nat.pow_add, ← Nat.div_div_eq_div_mul, this]

/-- A field is read back where the widths before it put it. -/
theorem bits_pack (a b : List (Nat × Nat)) (w v : Nat) : bits (pack (a ++ (w, v) :: b)) (packWidth a) w = v % 2 ^ w := by
  induction a with
  | nil => exact bits_pack_zero w v b
  | cons e a ih => rw [List.cons_append, packWidth_cons, bits_pack_succ, ih]

/-- A slot holds all its fields when they fit. -/
theorem packSlot_toNat {l : List (Nat × Nat)} (h : packWidth l ≤ 128) : (packSlot l).toNat = pack l := by
  rw [packSlot, BitVec.toNat_ofNat]
  exact Nat.mod_eq_of_lt (Nat.lt_of_lt_of_le (pack_lt l) (Nat.pow_le_pow_right (by decide) h))

/-- A field of a slot is read back where the widths before it put it. -/
theorem sbits_packSlot {l : List (Nat × Nat)} (a b : List (Nat × Nat)) {lo w v : Nat} (hl : packWidth l ≤ 128) (h : l = a ++ (w, v) :: b)
    (hlo : lo = packWidth a) : sbits (packSlot l) lo w = v % 2 ^ w := by
  rw [sbits, packSlot_toNat hl, h, hlo, bits_pack]

/-! ### The control instruction word and the completion record -/

theorem ctlWord_sbits (c : CtlInsn) (opc sub : Nat) :
    sbits (c.word opc sub) 0 72 = c.imm.toNat ∧ sbits (c.word opc sub) 72 12 = c.arglen.toNat ∧ sbits (c.word opc sub) 84 20 = c.rsv.toNat
    ∧ sbits (c.word opc sub) 104 8 = sub % 2 ^ 8 ∧ sbits (c.word opc sub) 112 8 = c.modf.toNat ∧ sbits (c.word opc sub) 120 8 = opc % 2 ^ 8 := by
  have field {lo w v : Nat} (a b : List (Nat × Nat)) (h : _ = a ++ (w, v) :: b) (hlo : lo = packWidth a) : sbits (c.word opc sub) lo w = v % 2 ^ w :=
    sbits_packSlot a b (by simp) h hlo
  refine ⟨(field [] _ rfl rfl).trans (Nat.mod_eq_of_lt c.imm.isLt), (field [_] _ rfl rfl).trans (Nat.mod_eq_of_lt c.arglen.isLt),
    (field [_, _] _ rfl rfl).trans (Nat.mod_eq_of_lt c.rsv.isLt), field [_, _, _] _ rfl rfl,
    (field [_, _, _, _] _ rfl rfl).trans (Nat.mod_eq_of_lt c.modf.isLt), field [_, _, _, _, _] [] rfl rfl⟩

/-- Settles O9: `ctlWord_sbits` reads every field back, so words that agree have fields that agree. -/
theorem controlWordFields : Obligations.ControlWordFields := by
  constructor
  · intro c opc sub ho hs
    obtain ⟨himm, hlen, hrsv, hsub, hmod, hopc⟩ := ctlWord_sbits c opc sub
    exact ⟨himm, hlen, hrsv, hsub.trans (Nat.mod_eq_of_lt hs), hmod, hopc.trans (Nat.mod_eq_of_lt ho)⟩
  · intro c d opc sub hw hargs
    obtain ⟨himm, hlen, hrsv, -, hmod, -⟩ := ctlWord_sbits c opc sub
    obtain ⟨himm', hlen', hrsv', -, hmod', -⟩ := ctlWord_sbits d opc sub
    rw [hw] at himm hlen hrsv hmod
    cases c
    cases d
    simp only [CtlInsn.mk.injEq]
    exact ⟨BitVec.eq_of_toNat_eq (hmod.symm.trans hmod'), BitVec.eq_of_toNat_eq (hrsv.symm.trans hrsv'),
      BitVec.eq_of_toNat_eq (hlen.symm.trans hlen'), BitVec.eq_of_toNat_eq (himm.symm.trans himm'), hargs⟩

/-- A field read in two parts, the lower and above it the rest. -/
theorem bits_split (v lo m n : Nat) : bits v lo (m + n) = bits v lo m + 2 ^ m * bits v (lo + m) n := by
  rw [bits, bits, bits, Nat.pow_add, Nat.pow_add, Nat.mod_mul, Nat.div_div_eq_div_mul]

/-- Settles O12: each field by `sbits_packSlot`; STATUS takes the low five of its field's eight bits. -/
theorem completionRecordFields : Obligations.CompletionRecordFields := by
  intro st opc sub result j ho hs hr hj w
  have field {lo w' v : Nat} (a b : List (Nat × Nat)) (h : _ = a ++ (w', v) :: b) (hlo : lo = packWidth a) : sbits w lo w' = v % 2 ^ w' :=
    sbits_packSlot a b (by simp) h hlo
  have status : sbits w 0 8 = st.toNat := (field [] _ rfl rfl).trans (Nat.mod_eq_of_lt (Nat.lt_of_lt_of_le st.isLt (by decide)))
  have split : sbits w 0 8 = sbits w 0 5 + 32 * sbits w 5 3 := bits_split w.toNat 0 5 3
  have low : sbits w 0 5 < 32 := Nat.mod_lt _ (by decide)
  have hst := st.isLt
  have jidx : j.getD 0 < 65536 := by
    cases j with
    | none => decide
    | some k => exact hj k rfl
  have valid : b1 j.isSome < 2 ^ 1 := by cases j <;> simp [b1]
  refine ⟨by omega, by omega, ?_, ?_, ?_, ?_, ?_, ?_⟩
  · exact (field [_] _ rfl rfl).trans (Nat.mod_eq_of_lt ho)
  · exact (field [_, _] _ rfl rfl).trans (Nat.mod_eq_of_lt hs)
  · exact (field [_, _, _] _ rfl rfl).trans (Nat.mod_eq_of_lt jidx)
  · exact (field [_, _, _, _] _ rfl rfl).trans (Nat.mod_eq_of_lt valid)
  · exact field [_, _, _, _, _] _ rfl rfl
  · exact (field [_, _, _, _, _, _] [] rfl rfl).trans (Nat.mod_eq_of_lt hr)

/-! ### The packet header -/

/-- A field of a header is read back whole. -/
theorem ofNat_sbits_packSlot {l : List (Nat × Nat)} {lo w : Nat} {v : BitVec w} (a b : List (Nat × Nat)) (hl : packWidth l ≤ 128)
    (h : l = a ++ (w, v.toNat) :: b) (hlo : lo = packWidth a) : BitVec.ofNat w (sbits (packSlot l) lo w) = v := by
  rw [sbits_packSlot a b hl h hlo, Nat.mod_eq_of_lt v.isLt, BitVec.ofNat_toNat, BitVec.setWidth_eq]

theorem sbit_eq_sbits (v : BitVec w) (i : Nat) : sbit v i = decide (sbits v i 1 = 1) := by
  rw [sbit, BitVec.getLsbD, Nat.testBit_eq_decide_div_mod_eq, sbits, bits, Nat.pow_one]

theorem sbit_packSlot {l : List (Nat × Nat)} {lo : Nat} {v : Bool} (a b : List (Nat × Nat)) (hl : packWidth l ≤ 128)
    (h : l = a ++ (1, b1 v) :: b) (hlo : lo = packWidth a) : sbit (packSlot l) lo = v := by
  rw [sbit_eq_sbits, sbits_packSlot a b hl h hlo]
  cases v <;> rfl

/-- The fields of a common header, with their widths (R87). -/
def Pkt.fields (p : Pkt) : List (Nat × Nat) :=
  [(3, p.tc.toNat), (5, p.mtype.toNat), (12, p.deid.toNat), (12, p.seid.toNat), (8, p.sinc.toNat), (16, p.job.toNat), (16, p.gen.toNat),
    (12, p.tag.toNat), (5, p.status.toNat), (4, p.load.toNat), (9, p.len.toNat), (2, p.xslots.toNat), (1, b1 p.spray), (16, p.pseq.toNat), (7, p.rsv.toNat)]

theorem Pkt.header_eq (p : Pkt) : p.header = packSlot p.fields := rfl

theorem Pkt.packWidth_fields (p : Pkt) : packWidth p.fields = 128 := by simp [Pkt.fields]

/-- A header spells every field of the packet but its extension slots and payload. -/
theorem Pkt.ofHeader_header (p : Pkt) : Pkt.ofHeader p.header = { p with x := [], data := [] } := by
  have field {lo w : Nat} {v : BitVec w} (a b : List (Nat × Nat)) (h : p.fields = a ++ (w, v.toNat) :: b) (hlo : lo = packWidth a) :
      ((sbits p.header lo w : Nat) : BitVec w) = v := ofNat_sbits_packSlot a b (Nat.le_of_eq p.packWidth_fields) h hlo
  have spray : sbit p.header 104 = p.spray := sbit_packSlot [_, _, _, _, _, _, _, _, _, _, _, _] _ (Nat.le_of_eq p.packWidth_fields) rfl rfl
  simp only [Pkt.ofHeader, Pkt.mk.injEq, and_true]
  exact ⟨field [] _ rfl rfl, field [_] _ rfl rfl, field [_, _] _ rfl rfl, field [_, _, _] _ rfl rfl, field [_, _, _, _] _ rfl rfl,
    field [_, _, _, _, _] _ rfl rfl, field [_, _, _, _, _, _] _ rfl rfl, field [_, _, _, _, _, _, _] _ rfl rfl,
    field [_, _, _, _, _, _, _, _] _ rfl rfl, field [_, _, _, _, _, _, _, _, _] _ rfl rfl, field [_, _, _, _, _, _, _, _, _, _] _ rfl rfl,
    field [_, _, _, _, _, _, _, _, _, _, _] _ rfl rfl, spray, field [_, _, _, _, _, _, _, _, _, _, _, _, _] _ rfl rfl,
    field [_, _, _, _, _, _, _, _, _, _, _, _, _, _] [] rfl (by simp)⟩

/-- Settles O8: the header by `Pkt.ofHeader_header`; its XSLOTS cuts the other slots where they were joined. -/
theorem packetRoundTrip : Obligations.PacketRoundTrip := by
  intro p hx
  simp [Pkt.toSlots, Pkt.ofSlots, Pkt.ofHeader_header, ← hx]

end Sys2Proof.Machine
end

section
/-! Steps and reset, bytes of pool memory and of banks, homes, events and the journal. -/

namespace Sys2Proof.Machine

/-! ### Steps and reset -/

/-- Settles O1: `step` looks at the front of the queue alone. -/
theorem stepRunsFrontCommand : Obligations.StepRunsFrontCommand := by
  intro s c rest h
  simp only [step, h]

/-- Settles O2. -/
theorem stepIdlesOnEmptyQueue : Obligations.StepIdlesOnEmptyQueue := by
  intro s h
  simp only [step, h]

/-- Settles O3: every table is empty at reset, so each entry reads as its default. -/
theorem resetState : Obligations.ResetState :=
  ⟨rfl, fun _ => rfl, fun _ => rfl, fun _ => rfl, rfl, rfl, rfl, rfl, rfl, rfl, rfl, rfl, fun _ => rfl, rfl⟩

/-- Settles O4. -/
theorem resetIsSound : Obligations.ResetIsSound := State.reset_wf

/-! ### Pool memory -/

/-- Bytes of one partition and below 2^52 share a key only when they are the same byte. -/
theorem memKey_inj {p a p' a' : Nat} (ha : a < 2 ^ 52) (ha' : a' < 2 ^ 52) : memKey p a = memKey p' a' ↔ p = p' ∧ a = a' := by
  simp only [memKey]
  omega

/-- A run of bytes leaves every byte outside its range alone. -/
theorem State.peek_pokes_other {s : State} {p a p' a' : Nat} {v : List Byte} (hv : a + v.length ≤ 2 ^ 52) (ha' : a' < 2 ^ 52)
    (h : p' ≠ p ∨ a' < a ∨ a + v.length ≤ a') : (s.pokes p a v).peek p' a' = s.peek p' a' := by
  induction v generalizing s a with
  | nil => rfl
  | cons b r ih =>
    rw [List.length_cons] at hv h
    have other : memKey p' a' ≠ memKey p a := by
      rw [Ne, memKey_inj ha' (by omega)]
      omega
    calc ((s.poke p a b).pokes p (a + 1) r).peek p' a' = (s.poke p a b).peek p' a' := ih (by omega) (by omega)
      _ = s.peek p' a' := State.peek_poke_other s b other

/-- Each byte of a run reads back. -/
theorem State.peek_pokes {s : State} {p a : Nat} {v : List Byte} (hv : a + v.length ≤ 2 ^ 52) {i : Nat} (hi : i < v.length) :
    (s.pokes p a v).peek p (a + i) = v[i] := by
  induction v generalizing s a i with
  | nil => cases hi
  | cons b r ih =>
    rw [List.length_cons] at hv hi
    cases i with
    | zero =>
      have later : ((s.poke p a b).pokes p (a + 1) r).peek p a = (s.poke p a b).peek p a := State.peek_pokes_other (by omega) (by omega) (by omega)
      exact later.trans (State.peek_poke ..)
    | succ i =>
      have shift : a + (i + 1) = a + 1 + i := by omega
      rw [shift]
      exact ih (by omega) (by omega)

/-- Settles O6. -/
theorem poolBytesReadBack : Obligations.PoolBytesReadBack := by
  intro s p a v hv
  refine ⟨fun i hi => ?_, fun p' a' ha' h => State.peek_pokes_other hv ha' h⟩
  rw [State.peek_pokes hv hi, List.getElem?_eq_getElem hi, Option.getD_some]

/-! ### Banks -/

theorem Block.peek_set_same (b : Block) (o : Nat) (v : Byte) : Block.peek { b with bank := tset b.bank o (some v) none } o = v := by
  simp [Block.peek]

theorem Block.peek_set_other (b : Block) {o a : Nat} (v : Byte) (h : a ≠ o) : Block.peek { b with bank := tset b.bank o (some v) none } a = b.peek a := by
  simp [Block.peek, tget_tset_other _ _ _ h]

theorem Block.peek_pokes_other {b : Block} {o a : Nat} {v : List Byte} (h : a < o ∨ o + v.length ≤ a) : (b.pokes o v).peek a = b.peek a := by
  induction v generalizing b o with
  | nil => rfl
  | cons x r ih =>
    rw [List.length_cons] at h
    exact (ih (by omega)).trans (b.peek_set_other x (by omega))

theorem Block.peek_pokes {b : Block} {o : Nat} {v : List Byte} {i : Nat} (hi : i < v.length) : (b.pokes o v).peek (o + i) = v[i] := by
  induction v generalizing b o i with
  | nil => cases hi
  | cons x r ih =>
    cases i with
    | zero =>
      have later : (Block.pokes { b with bank := tset b.bank o (some x) none } (o + 1) r).peek o = _ := Block.peek_pokes_other (by omega)
      exact later.trans (b.peek_set_same o x)
    | succ i =>
      have shift : o + (i + 1) = o + 1 + i := by omega
      rw [shift]
      exact ih (by simpa using hi)

theorem Block.bpois_pokes (b : Block) (o : Nat) (v : List Byte) : (b.pokes o v).bpois = b.bpois := by
  induction v generalizing b o with
  | nil => rfl
  | cons x r ih => exact ih ..

/-- Poison bits are no part of what a bank byte reads. -/
theorem Block.peek_write (b : Block) (o a : Nat) (v : List Byte) (pois : Bool) : (b.write o v pois).peek a = (b.pokes o v).peek a := rfl

theorem mem_setIns {l : List Nat} {k j : Nat} : j ∈ setIns l k ↔ j = k ∨ j ∈ l := by
  induction l with
  | nil => simp [setIns]
  | cons i r ih =>
    simp only [setIns]
    split
    · simp
    · split
      · simp_all
      · simp only [List.mem_cons, ih]
        exact or_left_comm

theorem mem_setDel {l : List Nat} {k j : Nat} : j ∈ setDel l k ↔ j ∈ l ∧ j ≠ k := by simp [setDel]

/-- A number is in a set as it was last put there or taken out. -/
theorem mem_setPut {l : List Nat} {k j : Nat} {on : Bool} : j ∈ setPut l k on ↔ if j = k then on = true else j ∈ l := by
  cases on <;> by_cases h : j = k <;> simp [setPut, mem_setIns, mem_setDel, h]

theorem mem_foldl_setPut {ws l : List Nat} {w : Nat} {on : Bool} : w ∈ ws.foldl (fun l w => setPut l w on) l ↔ if w ∈ ws then on = true else w ∈ l := by
  induction ws generalizing l with
  | nil => simp
  | cons x r ih =>
    rw [List.foldl_cons, ih, mem_setPut]
    by_cases hr : w ∈ r <;> by_cases hx : w = x <;> simp [hr, hx]

theorem Block.mem_bpois_write {b : Block} {o w : Nat} {v : List Byte} {pois : Bool} :
    w ∈ (b.write o v pois).bpois ↔ if w ∈ wordsOf o v.length then pois = true else w ∈ b.bpois := by
  rw [← b.bpois_pokes o v]
  exact mem_foldl_setPut

/-- Settles O7: bytes by `Block.peek_pokes`, poison bits by `Block.mem_bpois_write`. -/
theorem bankBytesReadBack : Obligations.BankBytesReadBack := by
  intro b o v pois
  refine ⟨fun i hi => ?_, fun a ha => Block.peek_pokes_other ha, fun w hw => ?_, fun w hw => ?_⟩
  · rw [Block.peek_write, Block.peek_pokes hi, List.getElem?_eq_getElem hi, Option.getD_some]
  · rw [Block.mem_bpois_write, if_pos hw]
  · rw [Block.mem_bpois_write, if_neg hw]

/-! ### Homes -/

theorem mem_maskList {n : Nat} {m : BitVec w} {i : Nat} : i ∈ maskList n m ↔ i < n ∧ m.getLsbD i = true := by simp [maskList]

/-- A mask that is not zero has a Block. -/
theorem maskList_length_pos {m : BitVec 64} (h : m ≠ 0) : 0 < (maskList 64 m).length := by
  have exists_bit : ∃ i, m.getLsbD i = true := by
    refine Classical.byContradiction fun none => h (BitVec.eq_of_getLsbD_eq fun i _ => by simpa using fun hi => none ⟨i, hi⟩)
  obtain ⟨i, hi⟩ := exists_bit
  exact List.length_pos_of_mem (mem_maskList.2 ⟨BitVec.lt_of_getLsbD hi, hi⟩)

theorem nth_eq_getElem {l : List Nat} {i : Nat} (h : i < l.length) : nth l i = l[i] := by simp [nth, h]

/-- Settles O10: the home index is below the number of Blocks. -/
theorem homeIsAMember : Obligations.HomeIsAMember := by
  intro blocks line hb l
  have inRange : homeIdx line l.length < l.length := Nat.mod_lt _ (maskList_length_pos hb)
  have home : homeOf blocks line = l[homeIdx line l.length] := nth_eq_getElem inRange
  refine ⟨home ▸ List.getElem_mem inRange, fun g => mem_maskList, List.pairwise_lt_range.filter _, ?_⟩
  rw [home]
  exact List.getElem?_eq_getElem inRange

/-! ### The journal and completions through a window -/

/-- A journal entry changes the journal alone. -/
theorem State.journal_eq (s : State) (e : JEntry) :
    s.journal e = { s with sec := { s.sec with jrnl := (s.journal e).sec.jrnl, jseq := (s.journal e).sec.jseq, jdig := (s.journal e).sec.jdig } } := rfl

/-- Settles O14. -/
theorem journalEntryWritten : Obligations.JournalEntryWritten := by
  intro s e t f
  refine ⟨tget_tset_same .., rfl, fun hopen => ?_, State.journal_eq s e⟩
  exact if_pos hopen

/-- The state with the journal blanked. -/
def State.offRecord (s : State) : State := { s with sec := { s.sec with jrnl := [], jseq := 0, jdig := [] } }

@[simp] theorem State.journal_offRecord (s : State) (e : JEntry) : (s.journal e).offRecord = s.offRecord := rfl

/-- A fold leaves alone what each of its steps leaves alone. -/
theorem foldl_same {α β : Type} {g : State → β} {f : State → α → State} (h : ∀ s x, g (f s x) = g s) (l : List α) (s : State) :
    g (l.foldl f s) = g s := by
  induction l generalizing s with
  | nil => rfl
  | cons x r ih => exact (ih _).trans (h s x)

/-- Journalling a change touches the journal alone. -/
@[simp] theorem journalChange_offRecord (s u : State) (e : JEntry) (imm : BitVec 64) : (journalChange s u e imm).offRecord = u.offRecord := by
  unfold journalChange
  split
  · rfl
  · exact foldl_same (fun _ _ => State.journal_offRecord ..) _ u

/-- What an instruction that completes OK through a window leaves there. -/
def State.windowOf (s : State) (via : Via) : Window := if via = .pcie then s.winP else s.winI

theorem State.ctlAnswer_window {s : State} {c : Caller} (h : c.via = .pcie ∨ c.via = .i3c) (rec : Slot) :
    ((s.ctlAnswer c rec).windowOf c.via).recd = rec ∧ ((s.ctlAnswer c rec).windowOf c.via).done = true ∧ ((s.ctlAnswer c rec).windowOf c.via).busy = false := by
  rcases h with h | h <;> simp [State.ctlAnswer, State.windowOf, h]

/-- A completion through a window touches the windows and the outputs alone. -/
theorem State.ctlAnswer_window_rest {s : State} {c : Caller} (h : c.via = .pcie ∨ c.via = .i3c) (rec : Slot) :
    s.ctlAnswer c rec = { s with winP := (s.ctlAnswer c rec).winP, winI := (s.ctlAnswer c rec).winI, out := (s.ctlAnswer c rec).out } := by
  rcases h with h | h <;> simp [State.ctlAnswer, State.emit, h]

/-- Settles O13: the journal's frame, then the window's. -/
theorem windowCompletion : Obligations.WindowCompletion := by
  intro u s0 c opc sub r hv t w
  obtain ⟨v, hv', ht⟩ : ∃ v : State, v.offRecord = u.offRecord ∧ t = v.ctlAnswer c (ctlRecord stOk opc sub (some (u.sec.jseq.toNat % 65536)) r) :=
    ⟨_, journalChange_offRecord .., rfl⟩
  have frame {α : Type} (f : State → α) (same : f t = f v) (off : ∀ s, f s.offRecord = f s) : f t = f u := by
    rw [same, ← off v, hv', off u]
  have rest := State.ctlAnswer_window_rest (s := v) hv (ctlRecord stOk opc sub (some (u.sec.jseq.toNat % 65536)) r)
  obtain ⟨hrec, hdone, hbusy⟩ := State.ctlAnswer_window (s := v) hv (ctlRecord stOk opc sub (some (u.sec.jseq.toNat % 65536)) r)
  rw [← ht] at rest hrec hdone hbusy
  exact ⟨hrec, hdone, hbusy, frame State.ports (by rw [rest]) fun _ => rfl, frame State.qs (by rw [rest]) fun _ => rfl,
    frame State.trunks (by rw [rest]) fun _ => rfl, frame State.parts (by rw [rest]) fun _ => rfl, frame State.trays (by rw [rest]) fun _ => rfl,
    frame State.blks (by rw [rest]) fun _ => rfl, frame State.ctxs (by rw [rest]) fun _ => rfl, frame State.mem (by rw [rest]) fun _ => rfl⟩

/-! ### Messages and events -/

/-- Messages sent on to several Quarters: each is offered in its turn. -/
@[simp] theorem State.offerSome_still (s : State) (q : Nat) (even : Bool) (m : Msg) (r : Route) : (s.offerSome q even m r).1.still = s.still := by
  have step (xs : List Nat) (a : State × Msg) : (xs.foldl (fun a x =>
      if a.2.gone.contains x ∨ ¬(r.outs.any (fun o => o.1 = x && s.outOk o && !s.fenced m.pkt.job o)) then a
      else match a.1.offer q even { a.2 with slots := 0 } { r with outs := r.outs.filter (fun o => o.1 = x) } with
        | some t => (t, { a.2 with gone := x :: a.2.gone })
        | none => a) a).1.still = a.1.still := by
    induction xs generalizing a with
    | nil => rfl
    | cons x xs ih =>
      rw [List.foldl_cons, ih]
      split
      · rfl
      · split
        next t ht => exact State.offer_still ht
        next => rfl
  unfold State.offerSome
  split
  · rfl
  · exact step _ _

@[simp] theorem State.sendBlk_still (s : State) (g : Nat) (m : Msg) : (s.sendBlk g m).still = s.still := by
  simp only [State.sendBlk]
  split
  · exact State.updBlk_still ..
  · split
    next h => exact State.offer_still h
    next => simp

/-- What agrees in all that `State.still` keeps differs in queues, counts and records alone. -/
theorem restAlone_of_still {s t : State} (h : t.still = s.still) : RestAlone s t := by
  cases s
  cases t
  simp only [State.still, State.mk.injEq] at h
  simp only [RestAlone, State.mk.injEq]
  simp only [h, and_self]

/-- Settles O36: what the earlier lemmas say of `State.still`, and `State.sendBlk_still`. -/
theorem messagesLeaveTheRestAlone : Obligations.MessagesLeaveTheRestAlone :=
  ⟨fun s e => restAlone_of_still (s.raise_still e), fun s m => restAlone_of_still (s.sendSq_still m), fun s g m => restAlone_of_still (s.sendBlk_still g m)⟩

/-- The ring of events and the outputs, which no queue operation touches. -/
def State.recorded (s : State) : Tbl Event × BitVec 64 × List Output := (s.sec.evts, s.sec.eseq, s.out)

@[simp] theorem State.takeTurn_recorded (s : State) (q n : Nat) (p : Pkt) : (s.takeTurn q n p).recorded = s.recorded := by
  unfold State.takeTurn
  split <;> rfl

@[simp] theorem State.noteDepth_recorded (s : State) (q n : Nat) : (s.noteDepth q n).recorded = s.recorded := by
  simp only [State.noteDepth]
  split <;> rfl

theorem State.admitUni_recorded {s t : State} {q n : Nat} {m : Msg} (h : s.admitUni q n m = some t) : t.recorded = s.recorded := by
  simp only [State.admitUni] at h
  split at h
  · cases h
    simp only [State.enqueue, State.noteDepth_recorded]
    exact s.takeTurn_recorded q n m.pkt
  · cases h

@[simp] theorem State.sendEvent_recorded (s : State) (e : Event) (k : Nat) : (s.sendEvent e k).recorded = s.recorded := by
  simp only [State.sendEvent]
  split
  · rfl
  · split
    next h => exact State.admitUni_recorded h
    next => rfl

/-- An event as the ring records it (R466). -/
def Event.asRaised (e : Event) (s : State) : Event :=
  { e with seq := s.sec.eseq, tick := s.tb.tick, ns := BitVec.ofNat 10 s.nsFree.1, flags := if s.tb.state = TbState.unaligned then e.flags ||| 4 else e.flags }

/-- What an event leaves in the ring and in the outputs. -/
theorem State.raise_recorded (s : State) (e : Event) :
    (s.raise e).recorded = (tset s.sec.evts (s.sec.eseq.toNat % 4096) (e.asRaised s) {}, s.sec.eseq + 1,
      s.out ++ .msix 0 :: if s.pw.i3c then [.i3cIbi] else []) := by
  simp only [State.raise]
  rw [foldl_same (fun s k => s.sendEvent_recorded ..)]
  by_cases h : s.pw.i3c = true
  · rw [if_pos h]
    refine (congrArg State.recorded (if_pos h)).trans ?_
    exact congrArg (fun o => (_, _, o)) (List.append_assoc s.out [.msix 0] [.i3cIbi])
  · rw [if_neg h]
    exact congrArg State.recorded (if_neg h)

/-- Settles O37: the ring and the outputs by `State.raise_recorded`, the journal by `State.raise_still`. -/
theorem eventsAreRecorded : Obligations.EventsAreRecorded := by
  intro s e t f
  obtain ⟨hevts, hseq, hout⟩ : t.sec.evts = tset s.sec.evts (s.sec.eseq.toNat % 4096) (e.asRaised s) {} ∧ t.sec.eseq = s.sec.eseq + 1
      ∧ t.out = s.out ++ .msix 0 :: if s.pw.i3c then [.i3cIbi] else [] := by
    simpa [State.recorded] using s.raise_recorded e
  have found : f = e.asRaised s := by
    simp only [f, hevts, tget_tset_same]
  have still := s.raise_still e
  rw [found]
  refine ⟨hseq, rfl, rfl, rfl, rfl, rfl, rfl, rfl, rfl, rfl, rfl, rfl, fun k hk => ?_, congrArg (·.sec.jrnl) still, congrArg (·.sec.jdig) still, _, hout⟩
  rw [hevts, tget_tset_other _ _ _ hk]

end Sys2Proof.Machine
end

section
/-! The numbers of a collective: accumulation (R250, R251, R265) and compact elements (R271). -/

namespace Sys2Proof.Machine

/-! ### Two's complement -/

/-- Reading a residue as a two's complement value balances it round zero. -/
theorem signed_emod {w : Nat} (hw : 0 < w) (k : Int) : signed w (k % (2 ^ w : Nat)).toNat = k.bmod (2 ^ w) := by
  obtain ⟨n, rfl⟩ : ∃ n, w = n + 1 := ⟨w - 1, by omega⟩
  have pos : (0 : Int) < (2 ^ (n + 1) : Nat) := by exact_mod_cast Nat.two_pow_pos _
  have nonneg := Int.emod_nonneg k (Int.ne_of_gt pos)
  have lt := Int.emod_lt_of_pos k pos
  have small : (k % (2 ^ (n + 1) : Nat)).toNat < 2 ^ (n + 1) := by omega
  have half : ((2 ^ (n + 1) : Nat) + 1) / 2 = 2 ^ n := by
    rw [Nat.pow_succ]
    omega
  have cast : (((2 ^ (n + 1) : Nat) : Int) + 1) / 2 = (2 ^ n : Nat) := by exact_mod_cast half
  simp only [signed, Nat.mod_eq_of_lt small, Int.bmod, cast, Nat.add_sub_cancel]
  split <;> split <;> omega

/-- A value of the width is its own residue read back. -/
theorem signed_emod_of_range {w : Nat} (hw : 0 < w) {k : Int} (hl : -((2 ^ (w - 1) : Nat) : Int) ≤ k) (hh : k < (2 ^ (w - 1) : Nat)) :
    signed w (k % (2 ^ w : Nat)).toNat = k := by
  obtain ⟨n, rfl⟩ : ∃ n, w = n + 1 := ⟨w - 1, by omega⟩
  rw [Nat.add_sub_cancel] at hl hh
  rw [signed_emod hw]
  refine Int.bmod_eq_of_le_mul_two ?_ ?_ <;> rw [Nat.pow_succ] <;> push_cast at * <;> omega

/-! ### Accumulation -/

theorem Spec.join_right_comm (x y z : Spec) : (x.join y).join z = (x.join z).join y := by
  cases x <;> cases y <;> cases z <;> rfl

theorem Acc.add_sum {limbs : Nat} (hl : 0 < limbs) (m i : Int) (x y : Spec) :
    (Acc.sum m x).add limbs i y = .sum ((m + i).bmod (2 ^ (64 * limbs))) (x.join y) := by
  rw [Acc.add, signed_emod (by omega)]

/-- Settles O48: residues add in any order, and so do special states. -/
theorem sumsDoNotDependOnOrder : Obligations.SumsDoNotDependOnOrder := by
  intro limbs m i j x y z hl
  have pos : 0 < 2 ^ (64 * limbs) := Nat.two_pow_pos _
  have twice : 2 ^ (64 * limbs) = 2 * 2 ^ (64 * limbs - 1) := by
    rw [← Nat.pow_succ']
    congr 1
    omega
  simp only [Acc.add_sum hl]
  refine ⟨?_, _, rfl, ?_, ?_, ?_⟩
  · rw [Int.bmod_add_bmod, Int.bmod_add_bmod, Int.add_right_comm, Spec.join_right_comm]
  · exact Int.emod_eq_zero_of_dvd (Int.dvd_bmod_sub_self)
  · have := Int.le_bmod (x := m + i) pos
    omega
  · have := Int.bmod_lt (x := m + i) pos
    omega

/-! ### Bytes and limbs -/

@[simp] theorem leBytes_length (n v : Nat) : (leBytes n v).length = n := by
  induction n generalizing v with
  | zero => rfl
  | succ n ih => simp [leBytes, ih]

theorem leNat_append (a b : List Byte) : leNat (a ++ b) = leNat a + 256 ^ a.length * leNat b := by
  induction a with
  | nil => simp [leNat]
  | cons x r ih =>
    rw [List.cons_append, leNat, leNat, ih, List.length_cons, Nat.pow_succ', Nat.mul_add, Nat.mul_assoc, Nat.add_assoc]

theorem leNat_leBytes (n v : Nat) : leNat (leBytes n v) = v % 256 ^ n := by
  induction n generalizing v with
  | zero => simp [leBytes, leNat, Nat.mod_one]
  | succ n ih =>
    rw [leBytes, leNat, ih, BitVec.toNat_ofNat, (by rfl : 2 ^ 8 = 256), Nat.pow_succ', Nat.mod_mul]

/-- A field of bytes is read where it lies. -/
theorem natAt_middle (a b c : List Byte) : natAt (a ++ (b ++ c)) a.length b.length = leNat b := by
  simp [natAt, bytesAt]

/-- The limbs from `lo` on, laid in bytes, spell that part of the number. -/
theorem leNat_limbs (u lo n : Nat) :
    leNat ((List.range' lo n).flatMap (fun k => leBytes 8 (bits u (64 * k) 64))) = u / 2 ^ (64 * lo) % 2 ^ (64 * n) := by
  induction n generalizing lo with
  | zero => simp [leNat, Nat.mod_one]
  | succ n ih =>
    rw [List.range'_succ, List.flatMap_cons, leNat_append, ih, leNat_leBytes, leBytes_length, bits]
    have e : 64 * (n + 1) = 64 + 64 * n := by omega
    have f : 64 * (lo + 1) = 64 * lo + 64 := by omega
    rw [e, f, Nat.pow_add 2 64, Nat.mod_mul, Nat.pow_add 2 (64 * lo), ← Nat.div_div_eq_div_mul, (by rfl : 256 ^ 8 = 2 ^ 64), Nat.mod_mod]

/-- The part of a number below limb `m + 1` is that below limb `m` and limb `m`. -/
theorem mod_limb_succ (u m : Nat) : u % 2 ^ (64 * (m + 1)) = u % 2 ^ (64 * m) + 2 ^ (64 * m) * bits u (64 * m) 64 := by
  rw [Nat.mul_succ, Nat.pow_add, Nat.mod_mul, bits]

/-- A number whose low limbs are zero. -/
theorem mod_eq_zero_of_limbs {u lo : Nat} (h : ∀ k, k < lo → bits u (64 * k) 64 = 0) : u % 2 ^ (64 * lo) = 0 := by
  induction lo with
  | zero => simp [Nat.mod_one]
  | succ m ih => rw [mod_limb_succ, ih fun k hk => h k (by omega), h m (by omega), Nat.mul_zero]

/-- The limbs that are not laid down: all zeros for a number that is not negative, all ones for a negative one. -/
def limbExt (neg : Bool) : Nat := if neg then 2 ^ 64 - 1 else 0

/-- What those limbs from `top` up to `m` add. -/
def limbHigh (neg : Bool) (top m : Nat) : Nat := if neg then 2 ^ (64 * m) - 2 ^ (64 * top) else 0

/-- A number whose limbs from `top` on are extension limbs. -/
theorem mod_eq_of_ext_limbs {u top m : Nat} {neg : Bool} (hm : top ≤ m) (h : ∀ k, top ≤ k → k < m → bits u (64 * k) 64 = limbExt neg) :
    u % 2 ^ (64 * m) = u % 2 ^ (64 * top) + limbHigh neg top m := by
  induction m with
  | zero =>
    obtain rfl : top = 0 := by omega
    cases neg <;> simp [limbHigh]
  | succ m ih =>
    rcases Nat.lt_or_ge m top with hlt | hge
    · obtain rfl : top = m + 1 := by omega
      cases neg <;> simp [limbHigh]
    · rw [mod_limb_succ, ih hge fun k hk hkm => h k hk (by omega), h m hge (by omega)]
      have le : 2 ^ (64 * top) ≤ 2 ^ (64 * m) := Nat.pow_le_pow_right (by decide) (by omega)
      have next : 2 ^ (64 * (m + 1)) = 2 ^ (64 * m) * 2 ^ 64 := by rw [← Nat.pow_add, Nat.mul_succ]
      cases neg
      · simp [limbHigh, limbExt]
      · simp only [limbHigh, limbExt, if_true, next]
        omega

/-! ### Compact elements -/

/-- The place after the last number below `m` that satisfies `p`; `lo` if there is none. -/
def lastPlace (p : Nat → Bool) (lo m : Nat) : Nat := ((List.range m).filter p).foldl (fun _ k => k + 1) lo

theorem lastPlace_succ (p : Nat → Bool) (lo m : Nat) : lastPlace p lo (m + 1) = if p m then m + 1 else lastPlace p lo m := by
  rw [lastPlace, List.range_succ, List.filter_append, List.foldl_append]
  by_cases h : p m = true
  · simp [h]
  · simp [h, lastPlace]

/-- Nothing from the last place on satisfies `p`. -/
theorem not_of_lastPlace_le {p : Nat → Bool} {lo m k : Nat} (hk : k < m) (h : lastPlace p lo m ≤ k) : p k = false := by
  induction m with
  | zero => omega
  | succ m ih =>
    rw [lastPlace_succ] at h
    split at h
    · omega
    next hp =>
      rcases Nat.lt_or_ge k m with hlt | hge
      · exact ih hlt h
      · obtain rfl : k = m := by omega
        simpa using hp

theorem lastPlace_bounds {p : Nat → Bool} {lo m : Nat} (hp : ∀ k, p k = true → lo ≤ k) (hlo : lo ≤ m) : lo ≤ lastPlace p lo m ∧ lastPlace p lo m ≤ m := by
  have both : lastPlace p lo m = lo ∨ lo ≤ lastPlace p lo m ∧ lastPlace p lo m ≤ m := by
    clear hlo
    induction m with
    | zero => exact .inl rfl
    | succ m ih =>
      rw [lastPlace_succ]
      split
      next h => exact .inr ⟨Nat.le_trans (hp m h) (Nat.le_succ m), Nat.le_refl _⟩
      next => exact ih.imp_right fun h => ⟨h.1, Nat.le_trans h.2 (Nat.le_succ m)⟩
  omega

@[simp] theorem limbList_length (limbs : Nat) (n : Int) : (limbList limbs n).length = limbs := by simp [limbList]

theorem nth_limbList {limbs : Nat} (n : Int) {k : Nat} (h : k < limbs) : nth (limbList limbs n) k = bits (n % (2 ^ (64 * limbs) : Nat)).toNat (64 * k) 64 := by
  simp [nth, limbList, h]

/-- The limb that a compact element begins with: the lowest that is not zero. -/
def firstLimb (limbs : Nat) (n : Int) : Nat := ((limbList limbs n).findIdx? (fun x => x ≠ 0)).getD 0

theorem firstLimb_le (limbs : Nat) (n : Int) : firstLimb limbs n ≤ limbs := by
  unfold firstLimb
  cases h : (limbList limbs n).findIdx? (fun x => x ≠ 0) with
  | none => exact Nat.zero_le _
  | some i => simpa using Nat.le_of_lt (List.findIdx?_eq_some_iff_getElem.1 h).1

theorem limb_eq_zero_of_lt_firstLimb {limbs : Nat} {n : Int} {k : Nat} (h : k < firstLimb limbs n) : bits (n % (2 ^ (64 * limbs) : Nat)).toNat (64 * k) 64 = 0 := by
  have hk : k < limbs := Nat.lt_of_lt_of_le h (firstLimb_le limbs n)
  rw [← nth_limbList n hk]
  unfold firstLimb at h
  cases hf : (limbList limbs n).findIdx? (fun x => x ≠ 0) with
  | none =>
    rw [hf] at h
    exact absurd h (Nat.not_lt_zero k)
  | some i =>
    obtain ⟨hi, -, before⟩ := List.findIdx?_eq_some_iff_getElem.1 hf
    rw [hf] at h
    have := before k h
    rw [nth_eq_getElem (by simpa using hk)]
    simpa using this

/-- The limb before which a compact element ends: what follows is sign extension. -/
def lastLimb (limbs : Nat) (n : Int) : Nat :=
  lastPlace (fun k => firstLimb limbs n ≤ k && nth (limbList limbs n) k ≠ limbExt (decide (n < 0))) (firstLimb limbs n) limbs

theorem lastLimb_bounds (limbs : Nat) (n : Int) : firstLimb limbs n ≤ lastLimb limbs n ∧ lastLimb limbs n ≤ limbs :=
  lastPlace_bounds (fun k hk => by simp only [Bool.and_eq_true, decide_eq_true_eq] at hk; exact hk.1) (firstLimb_le limbs n)

theorem limb_eq_ext_of_lastLimb_le {limbs : Nat} {n : Int} {k : Nat} (h : lastLimb limbs n ≤ k) (hk : k < limbs) :
    bits (n % (2 ^ (64 * limbs) : Nat)).toNat (64 * k) 64 = limbExt (decide (n < 0)) := by
  have plain := not_of_lastPlace_le hk h
  rw [← nth_limbList n hk]
  have first : firstLimb limbs n ≤ k := Nat.le_trans (lastLimb_bounds limbs n).1 h
  simpa [first] using plain

/-- The limbs laid down and the sign extension give the number's residue back. -/
theorem limbs_restore (limbs : Nat) (n : Int) :
    let u := (n % (2 ^ (64 * limbs) : Nat)).toNat
    let lo := firstLimb limbs n
    let top := lastLimb limbs n
    u / 2 ^ (64 * lo) % 2 ^ (64 * (top - lo)) * 2 ^ (64 * lo) + limbHigh (decide (n < 0)) top limbs = u := by
  intro u lo top
  obtain ⟨hlo, htop⟩ := lastLimb_bounds limbs n
  have pos : (0 : Int) < (2 ^ (64 * limbs) : Nat) := by exact_mod_cast Nat.two_pow_pos _
  have small : u < 2 ^ (64 * limbs) := by
    have := Int.emod_lt_of_pos n pos
    have := Int.emod_nonneg n (Int.ne_of_gt pos)
    omega
  have low : u % 2 ^ (64 * lo) = 0 := mod_eq_zero_of_limbs fun k hk => limb_eq_zero_of_lt_firstLimb hk
  have cut : u % 2 ^ (64 * top) = u / 2 ^ (64 * lo) % 2 ^ (64 * (top - lo)) * 2 ^ (64 * lo) := by
    have e : 64 * top = 64 * lo + 64 * (top - lo) := by omega
    rw [e, Nat.pow_add, Nat.mod_mul, low, Nat.zero_add, Nat.mul_comm]
  rw [← cut, ← mod_eq_of_ext_limbs htop fun k hk hkl => limb_eq_ext_of_lastLimb_le hk hkl, Nat.mod_eq_of_lt small]

/-- The two bytes at the head of a compact element. -/
def compactHead (lo cnt s code : Nat) : Nat := lo + cnt * 2 ^ 6 + s * 2 ^ 12 + code * 2 ^ 13

theorem compactHead_fields {lo cnt s code : Nat} (hlo : lo < 64) (hcnt : cnt < 64) (hs : s < 2) (hcode : code < 8) :
    let w := compactHead lo cnt s code
    w < 65536 ∧ bits w 0 6 = lo ∧ bits w 6 6 = cnt ∧ bits w 12 1 = s ∧ bits w 13 3 = code := by
  simp only [compactHead, bits]
  omega

@[simp] theorem Spec.ofCode_code (x : Spec) : Spec.ofCode x.code = some x := by cases x <;> rfl
theorem Spec.code_lt (x : Spec) : x.code < 8 := by cases x <;> decide

/-- Reads an element whose head and limbs lie where R271 puts them. -/
theorem uncompact_laid {limbs lo cnt s : Nat} (x : Spec) (body rest : List Byte) (hlo : lo < 64) (hcnt : cnt < 64) (hs : s < 2) (hb : body.length = 8 * cnt)
    (hl : lo + cnt ≤ limbs) :
    uncompact limbs (leBytes 2 (compactHead lo cnt s x.code) ++ body ++ rest)
      = some (signed (64 * limbs) (leNat body * 2 ^ (64 * lo) + if s = 1 then 2 ^ (64 * limbs) - 2 ^ (64 * (lo + cnt)) else 0), x, rest) := by
  obtain ⟨small, flo, fcnt, fs, fcode⟩ := compactHead_fields hlo hcnt hs x.code_lt
  have head : natAt (leBytes 2 (compactHead lo cnt s x.code) ++ body ++ rest) 0 2 = compactHead lo cnt s x.code := by
    have := natAt_middle [] (leBytes 2 (compactHead lo cnt s x.code)) (body ++ rest)
    rw [leNat_leBytes, Nat.mod_eq_of_lt (by omega)] at this
    simpa using this
  have read : natAt (leBytes 2 (compactHead lo cnt s x.code) ++ body ++ rest) 2 (8 * cnt) = leNat body := by
    have := natAt_middle (leBytes 2 (compactHead lo cnt s x.code)) body rest
    rwa [leBytes_length, hb, ← List.append_assoc] at this
  have long : ¬((leBytes 2 (compactHead lo cnt s x.code) ++ body ++ rest).length < 2 + 8 * cnt ∨ limbs < lo + cnt) := by
    simp only [List.length_append, leBytes_length, hb]
    omega
  have dropped : (leBytes 2 (compactHead lo cnt s x.code) ++ body ++ rest).drop (2 + 8 * cnt) = rest := by
    have : (leBytes 2 (compactHead lo cnt s x.code) ++ body).length = 2 + 8 * cnt := by simp [hb]
    rw [← this, List.drop_left]
  simp only [uncompact, head, flo, fcnt, fs, fcode, if_neg long, Spec.ofCode_code, read, dropped]

theorem compact_special {x : Spec} (h : x.special = true) (limbs : Nat) (n : Int) : compact limbs n x = leBytes 2 (compactHead 0 0 0 x.code) := by
  simp [compact, h, compactHead]

theorem compact_number {x : Spec} (h : x.special = false) (limbs : Nat) (n : Int) :
    compact limbs n x = leBytes 2 (compactHead (firstLimb limbs n) (lastLimb limbs n - firstLimb limbs n) (b1 (decide (n < 0))) x.code)
      ++ (((limbList limbs n).drop (firstLimb limbs n)).take (lastLimb limbs n - firstLimb limbs n)).flatMap (leBytes 8) := by
  rw [compact, h]
  rfl

theorem limbList_slice (limbs : Nat) (n : Int) {lo cnt : Nat} (h : lo + cnt ≤ limbs) :
    ((limbList limbs n).drop lo).take cnt = (List.range' lo cnt).map (fun k => bits (n % (2 ^ (64 * limbs) : Nat)).toNat (64 * k) 64) := by
  refine List.ext_getElem (by simp; omega) fun i h1 h2 => ?_
  simp [limbList]

/-- What an element's limbs and sign restore is the number. -/
theorem signed_limbs {limbs : Nat} {n : Int} (hl : 0 < limbs) (hlo : -((2 ^ (64 * limbs - 1) : Nat) : Int) ≤ n) (hhi : n < (2 ^ (64 * limbs - 1) : Nat)) :
    signed (64 * limbs) ((n % (2 ^ (64 * limbs) : Nat)).toNat / 2 ^ (64 * firstLimb limbs n) % 2 ^ (64 * (lastLimb limbs n - firstLimb limbs n))
      * 2 ^ (64 * firstLimb limbs n) + limbHigh (decide (n < 0)) (lastLimb limbs n) limbs) = n := by
  rw [limbs_restore limbs n]
  exact signed_emod_of_range (by omega) hlo hhi

theorem uncompact_compact {limbs : Nat} {n : Int} (x : Spec) (rest : List Byte) (hl : 0 < limbs) (hmax : limbs ≤ 34)
    (hlo : -((2 ^ (64 * limbs - 1) : Nat) : Int) ≤ n) (hhi : n < (2 ^ (64 * limbs - 1) : Nat)) :
    uncompact limbs (compact limbs n x ++ rest) = some (if x.special then 0 else n, x, rest) := by
  cases h : x.special
  · obtain ⟨first, last⟩ := lastLimb_bounds limbs n
    rw [compact_number h, limbList_slice limbs n (by omega), List.flatMap_map,
      uncompact_laid x _ rest (by omega) (by omega) (by cases decide (n < 0) <;> decide) (by simp [List.flatMap, Function.comp_def, Nat.mul_comm, List.map_const']) (by omega), leNat_limbs]
    have high : (if b1 (decide (n < 0)) = 1 then 2 ^ (64 * limbs) - 2 ^ (64 * (firstLimb limbs n + (lastLimb limbs n - firstLimb limbs n))) else 0)
        = limbHigh (decide (n < 0)) (lastLimb limbs n) limbs := by
      rw [Nat.add_sub_cancel' first]
      cases decide (n < 0) <;> rfl
    rw [high, signed_limbs hl hlo hhi]
    rfl
  · have zero : signed (64 * limbs) 0 = 0 := by simp [signed]
    rw [compact_special h]
    have := uncompact_laid (limbs := limbs) (lo := 0) (cnt := 0) (s := 0) x [] rest (by decide) (by decide) (by decide) rfl (by omega)
    simpa [leNat, zero] using this

/-- Settles O49. -/
theorem compactElementsRoundTrip : Obligations.CompactElementsRoundTrip := by
  intro limbs n x rest hl hmax hlo hhi
  exact uncompact_compact x rest hl hmax hlo hhi

/-! ### Contributions -/

/-- Updates of the entries from `b` on, one after the other, each by its own function. -/
def updEntries (f : Nat → Acc → Acc) (b : Nat) (l : List Nat) (t : Tbl Acc) : Tbl Acc :=
  l.foldl (fun t i => tset t (b + i) (f i (tget t (b + i) accEmpty)) accEmpty) t

theorem tget_updEntries_other {f : Nat → Acc → Acc} {b j : Nat} {l : List Nat} {t : Tbl Acc} (h : ∀ i ∈ l, j ≠ b + i) :
    tget (updEntries f b l t) j accEmpty = tget t j accEmpty := by
  induction l generalizing t with
  | nil => rfl
  | cons i r ih =>
    rw [updEntries, List.foldl_cons]
    exact (ih fun k hk => h k (List.mem_cons_of_mem _ hk)).trans (tget_tset_other _ _ _ (h i List.mem_cons_self))

theorem tget_updEntries {f : Nat → Acc → Acc} {b i : Nat} {l : List Nat} {t : Tbl Acc} (hl : l.Nodup) (h : i ∈ l) :
    tget (updEntries f b l t) (b + i) accEmpty = f i (tget t (b + i) accEmpty) := by
  induction l generalizing t with
  | nil => cases h
  | cons k r ih =>
    obtain ⟨hk, hr⟩ := List.nodup_cons.1 hl
    rw [updEntries, List.foldl_cons]
    rcases List.mem_cons.1 h with rfl | h
    · have later : ∀ j ∈ r, b + i ≠ b + j := fun j hj e => hk (Nat.add_left_cancel e ▸ hj)
      exact (tget_updEntries_other later).trans (tget_tset_same ..)
    · have ne : i ≠ k := fun e => hk (e ▸ h)
      exact (ih hr h).trans (by rw [tget_tset_other _ _ _ (by omega)])

theorem State.coll_setColl (s : State) (g n : Nat) (x : Option Coll) : (s.setColl g n x).coll g n = x := by
  simp [State.coll, State.setColl]

/-- What element `i` of a raw contribution adds to its entry. -/
def addElem (d : BitVec 512) (body : List Byte) (i : Nat) (a : Acc) : Acc :=
  let v := inValue (cdIfmt d) (natAt body (inWidth (cdIfmt d) * i) (inWidth (cdIfmt d)))
  a.add (limbsOf (cdIfmt d)) v.1 v.2

/-- A raw contribution to a sum that does not complete its slice is added entry by entry. -/
theorem State.collTake_sum {s : State} {g n : Nat} {x : Coll} {first count src nc : Nat} {last : Bool} {body : List Byte} (hop : cdOp x.desc = 0)
    (hin : (setIns x.lasts src).length ≠ cdNsrc x.desc) (hout : x.lasts.length ≠ cdNsrc x.desc) :
    s.collTake g n x true first count src nc last body = s.setColl g n (some { x with
      acc := updEntries (addElem x.desc body) (first - x.slice * cdElems x.desc) (List.range count) x.acc
      taken := x.taken + count, dup := x.dup || (last && x.lasts.contains src), lasts := if last then setIns x.lasts src else x.lasts,
      kinds := tins (tdel x.kinds src) src 1 }) := by
  have open' : ¬(if last then setIns x.lasts src else x.lasts).length = cdNsrc x.desc := by
    cases last
    · exact hout
    · exact hin
  simp only [State.collTake, Bool.true_or, if_true, hop, if_neg open']
  rfl

/-- Settles O51: entry by entry by `State.collTake_sum`. -/
theorem contributionsAccumulate : Obligations.ContributionsAccumulate := by
  intro s g n x first count src nc body d at0 w hop hin hout last
  rw [State.collTake_sum hop hin hout]
  refine ⟨_, State.coll_setColl .., rfl, fun i hi => ?_, fun j hj => ?_, rfl⟩
  · exact tget_updEntries (f := addElem d body) (b := at0) (t := x.acc) List.nodup_range (List.mem_range.2 hi)
  · refine tget_updEntries_other (f := addElem d body) (b := at0) (t := x.acc) fun i hi => ?_
    have := List.mem_range.1 hi
    omega

end Sys2Proof.Machine
end

section
/-! The control instructions of settings and overlays (R39, R96, R101, R109, R115, R130, R134, R143, R243, R374, R440): each completes with its own effect. -/

namespace Sys2Proof.Machine

/-! ### What each update leaves of the other tables -/

/-! #### updPort -/

@[simp] theorem State.trunk_updPort (s : State) (k : Nat) (f : Port → Port) (t : Nat) : (s.updPort k f).trunk t = s.trunk t := rfl
@[simp] theorem State.part_updPort (s : State) (k : Nat) (f : Port → Port) (p : Nat) : (s.updPort k f).part p = s.part p := rfl
@[simp] theorem State.tray_updPort (s : State) (k : Nat) (f : Port → Port) (t : Nat) : (s.updPort k f).tray t = s.tray t := rfl
@[simp] theorem State.blk_updPort (s : State) (k : Nat) (f : Port → Port) (g : Nat) : (s.updPort k f).blk g = s.blk g := rfl
@[simp] theorem State.ctx_updPort (s : State) (k : Nat) (f : Port → Port) (c : Nat) : (s.updPort k f).ctx c = s.ctx c := rfl
@[simp] theorem State.qtr_updPort (s : State) (k : Nat) (f : Port → Port) (q : Nat) : (s.updPort k f).qtr q = s.qtr q := rfl
@[simp] theorem State.now_updPort (s : State) (k : Nat) (f : Port → Port) : (s.updPort k f).now = s.now := rfl
@[simp] theorem State.incOf_updPort (s : State) (k : Nat) (f : Port → Port) (e : Eid) : (s.updPort k f).incOf e = s.incOf e := rfl

/-! #### updQtr -/

@[simp] theorem State.port_updQtr (s : State) (k : Nat) (f : Quarter → Quarter) (l : Nat) : (s.updQtr k f).port l = s.port l := rfl
@[simp] theorem State.trunk_updQtr (s : State) (k : Nat) (f : Quarter → Quarter) (t : Nat) : (s.updQtr k f).trunk t = s.trunk t := rfl
@[simp] theorem State.part_updQtr (s : State) (k : Nat) (f : Quarter → Quarter) (p : Nat) : (s.updQtr k f).part p = s.part p := rfl
@[simp] theorem State.tray_updQtr (s : State) (k : Nat) (f : Quarter → Quarter) (t : Nat) : (s.updQtr k f).tray t = s.tray t := rfl
@[simp] theorem State.blk_updQtr (s : State) (k : Nat) (f : Quarter → Quarter) (g : Nat) : (s.updQtr k f).blk g = s.blk g := rfl
@[simp] theorem State.ctx_updQtr (s : State) (k : Nat) (f : Quarter → Quarter) (c : Nat) : (s.updQtr k f).ctx c = s.ctx c := rfl
@[simp] theorem State.now_updQtr (s : State) (k : Nat) (f : Quarter → Quarter) : (s.updQtr k f).now = s.now := rfl
@[simp] theorem State.incOf_updQtr (s : State) (k : Nat) (f : Quarter → Quarter) (e : Eid) : (s.updQtr k f).incOf e = s.incOf e := rfl

/-! #### updQueue -/

@[simp] theorem State.port_updQueue (s : State) (k n : Nat) (f : Queue → Queue) (l : Nat) : (s.updQueue k n f).port l = s.port l := rfl
@[simp] theorem State.trunk_updQueue (s : State) (k n : Nat) (f : Queue → Queue) (t : Nat) : (s.updQueue k n f).trunk t = s.trunk t := rfl
@[simp] theorem State.part_updQueue (s : State) (k n : Nat) (f : Queue → Queue) (p : Nat) : (s.updQueue k n f).part p = s.part p := rfl
@[simp] theorem State.tray_updQueue (s : State) (k n : Nat) (f : Queue → Queue) (t : Nat) : (s.updQueue k n f).tray t = s.tray t := rfl
@[simp] theorem State.blk_updQueue (s : State) (k n : Nat) (f : Queue → Queue) (g : Nat) : (s.updQueue k n f).blk g = s.blk g := rfl
@[simp] theorem State.ctx_updQueue (s : State) (k n : Nat) (f : Queue → Queue) (c : Nat) : (s.updQueue k n f).ctx c = s.ctx c := rfl
@[simp] theorem State.now_updQueue (s : State) (k n : Nat) (f : Queue → Queue) : (s.updQueue k n f).now = s.now := rfl
@[simp] theorem State.incOf_updQueue (s : State) (k n : Nat) (f : Queue → Queue) (e : Eid) : (s.updQueue k n f).incOf e = s.incOf e := rfl

/-! #### setTrunk -/

@[simp] theorem State.port_setTrunk (s : State) (k : Nat) (x : Trunk) (l : Nat) : (s.setTrunk k x).port l = s.port l := rfl
@[simp] theorem State.part_setTrunk (s : State) (k : Nat) (x : Trunk) (p : Nat) : (s.setTrunk k x).part p = s.part p := rfl
@[simp] theorem State.tray_setTrunk (s : State) (k : Nat) (x : Trunk) (t : Nat) : (s.setTrunk k x).tray t = s.tray t := rfl
@[simp] theorem State.blk_setTrunk (s : State) (k : Nat) (x : Trunk) (g : Nat) : (s.setTrunk k x).blk g = s.blk g := rfl
@[simp] theorem State.ctx_setTrunk (s : State) (k : Nat) (x : Trunk) (c : Nat) : (s.setTrunk k x).ctx c = s.ctx c := rfl
@[simp] theorem State.qtr_setTrunk (s : State) (k : Nat) (x : Trunk) (q : Nat) : (s.setTrunk k x).qtr q = s.qtr q := rfl
@[simp] theorem State.now_setTrunk (s : State) (k : Nat) (x : Trunk) : (s.setTrunk k x).now = s.now := rfl
@[simp] theorem State.incOf_setTrunk (s : State) (k : Nat) (x : Trunk) (e : Eid) : (s.setTrunk k x).incOf e = s.incOf e := rfl

/-! #### updTrunk -/

@[simp] theorem State.port_updTrunk (s : State) (k : Nat) (f : Trunk → Trunk) (l : Nat) : (s.updTrunk k f).port l = s.port l := rfl
@[simp] theorem State.part_updTrunk (s : State) (k : Nat) (f : Trunk → Trunk) (p : Nat) : (s.updTrunk k f).part p = s.part p := rfl
@[simp] theorem State.tray_updTrunk (s : State) (k : Nat) (f : Trunk → Trunk) (t : Nat) : (s.updTrunk k f).tray t = s.tray t := rfl
@[simp] theorem State.blk_updTrunk (s : State) (k : Nat) (f : Trunk → Trunk) (g : Nat) : (s.updTrunk k f).blk g = s.blk g := rfl
@[simp] theorem State.ctx_updTrunk (s : State) (k : Nat) (f : Trunk → Trunk) (c : Nat) : (s.updTrunk k f).ctx c = s.ctx c := rfl
@[simp] theorem State.qtr_updTrunk (s : State) (k : Nat) (f : Trunk → Trunk) (q : Nat) : (s.updTrunk k f).qtr q = s.qtr q := rfl
@[simp] theorem State.now_updTrunk (s : State) (k : Nat) (f : Trunk → Trunk) : (s.updTrunk k f).now = s.now := rfl
@[simp] theorem State.incOf_updTrunk (s : State) (k : Nat) (f : Trunk → Trunk) (e : Eid) : (s.updTrunk k f).incOf e = s.incOf e := rfl

/-! #### updPart -/

@[simp] theorem State.port_updPart (s : State) (k : Nat) (f : Part → Part) (l : Nat) : (s.updPart k f).port l = s.port l := rfl
@[simp] theorem State.trunk_updPart (s : State) (k : Nat) (f : Part → Part) (t : Nat) : (s.updPart k f).trunk t = s.trunk t := rfl
@[simp] theorem State.tray_updPart (s : State) (k : Nat) (f : Part → Part) (t : Nat) : (s.updPart k f).tray t = s.tray t := rfl
@[simp] theorem State.blk_updPart (s : State) (k : Nat) (f : Part → Part) (g : Nat) : (s.updPart k f).blk g = s.blk g := rfl
@[simp] theorem State.ctx_updPart (s : State) (k : Nat) (f : Part → Part) (c : Nat) : (s.updPart k f).ctx c = s.ctx c := rfl
@[simp] theorem State.qtr_updPart (s : State) (k : Nat) (f : Part → Part) (q : Nat) : (s.updPart k f).qtr q = s.qtr q := rfl
@[simp] theorem State.now_updPart (s : State) (k : Nat) (f : Part → Part) : (s.updPart k f).now = s.now := rfl
@[simp] theorem State.incOf_updPart (s : State) (k : Nat) (f : Part → Part) (e : Eid) : (s.updPart k f).incOf e = s.incOf e := rfl

/-! #### updTray -/

@[simp] theorem State.port_updTray (s : State) (k : Nat) (f : Tray → Tray) (l : Nat) : (s.updTray k f).port l = s.port l := rfl
@[simp] theorem State.trunk_updTray (s : State) (k : Nat) (f : Tray → Tray) (t : Nat) : (s.updTray k f).trunk t = s.trunk t := rfl
@[simp] theorem State.part_updTray (s : State) (k : Nat) (f : Tray → Tray) (p : Nat) : (s.updTray k f).part p = s.part p := rfl
@[simp] theorem State.blk_updTray (s : State) (k : Nat) (f : Tray → Tray) (g : Nat) : (s.updTray k f).blk g = s.blk g := rfl
@[simp] theorem State.ctx_updTray (s : State) (k : Nat) (f : Tray → Tray) (c : Nat) : (s.updTray k f).ctx c = s.ctx c := rfl
@[simp] theorem State.qtr_updTray (s : State) (k : Nat) (f : Tray → Tray) (q : Nat) : (s.updTray k f).qtr q = s.qtr q := rfl
@[simp] theorem State.now_updTray (s : State) (k : Nat) (f : Tray → Tray) : (s.updTray k f).now = s.now := rfl
@[simp] theorem State.incOf_updTray (s : State) (k : Nat) (f : Tray → Tray) (e : Eid) : (s.updTray k f).incOf e = s.incOf e := rfl

/-! #### updBlk -/

@[simp] theorem State.port_updBlk (s : State) (k : Nat) (f : Block → Block) (l : Nat) : (s.updBlk k f).port l = s.port l := rfl
@[simp] theorem State.trunk_updBlk (s : State) (k : Nat) (f : Block → Block) (t : Nat) : (s.updBlk k f).trunk t = s.trunk t := rfl
@[simp] theorem State.part_updBlk (s : State) (k : Nat) (f : Block → Block) (p : Nat) : (s.updBlk k f).part p = s.part p := rfl
@[simp] theorem State.tray_updBlk (s : State) (k : Nat) (f : Block → Block) (t : Nat) : (s.updBlk k f).tray t = s.tray t := rfl
@[simp] theorem State.ctx_updBlk (s : State) (k : Nat) (f : Block → Block) (c : Nat) : (s.updBlk k f).ctx c = s.ctx c := rfl
@[simp] theorem State.qtr_updBlk (s : State) (k : Nat) (f : Block → Block) (q : Nat) : (s.updBlk k f).qtr q = s.qtr q := rfl
@[simp] theorem State.now_updBlk (s : State) (k : Nat) (f : Block → Block) : (s.updBlk k f).now = s.now := rfl
@[simp] theorem State.incOf_updBlk (s : State) (k : Nat) (f : Block → Block) (e : Eid) : (s.updBlk k f).incOf e = s.incOf e := rfl

/-! #### setCtx -/

@[simp] theorem State.port_setCtx (s : State) (k : Nat) (x : Ctx) (l : Nat) : (s.setCtx k x).port l = s.port l := rfl
@[simp] theorem State.trunk_setCtx (s : State) (k : Nat) (x : Ctx) (t : Nat) : (s.setCtx k x).trunk t = s.trunk t := rfl
@[simp] theorem State.part_setCtx (s : State) (k : Nat) (x : Ctx) (p : Nat) : (s.setCtx k x).part p = s.part p := rfl
@[simp] theorem State.tray_setCtx (s : State) (k : Nat) (x : Ctx) (t : Nat) : (s.setCtx k x).tray t = s.tray t := rfl
@[simp] theorem State.blk_setCtx (s : State) (k : Nat) (x : Ctx) (g : Nat) : (s.setCtx k x).blk g = s.blk g := rfl
@[simp] theorem State.qtr_setCtx (s : State) (k : Nat) (x : Ctx) (q : Nat) : (s.setCtx k x).qtr q = s.qtr q := rfl
@[simp] theorem State.now_setCtx (s : State) (k : Nat) (x : Ctx) : (s.setCtx k x).now = s.now := rfl
@[simp] theorem State.incOf_setCtx (s : State) (k : Nat) (x : Ctx) (e : Eid) : (s.setCtx k x).incOf e = s.incOf e := rfl

/-! #### updCtx -/

@[simp] theorem State.port_updCtx (s : State) (k : Nat) (f : Ctx → Ctx) (l : Nat) : (s.updCtx k f).port l = s.port l := rfl
@[simp] theorem State.trunk_updCtx (s : State) (k : Nat) (f : Ctx → Ctx) (t : Nat) : (s.updCtx k f).trunk t = s.trunk t := rfl
@[simp] theorem State.part_updCtx (s : State) (k : Nat) (f : Ctx → Ctx) (p : Nat) : (s.updCtx k f).part p = s.part p := rfl
@[simp] theorem State.tray_updCtx (s : State) (k : Nat) (f : Ctx → Ctx) (t : Nat) : (s.updCtx k f).tray t = s.tray t := rfl
@[simp] theorem State.blk_updCtx (s : State) (k : Nat) (f : Ctx → Ctx) (g : Nat) : (s.updCtx k f).blk g = s.blk g := rfl
@[simp] theorem State.qtr_updCtx (s : State) (k : Nat) (f : Ctx → Ctx) (q : Nat) : (s.updCtx k f).qtr q = s.qtr q := rfl
@[simp] theorem State.now_updCtx (s : State) (k : Nat) (f : Ctx → Ctx) : (s.updCtx k f).now = s.now := rfl
@[simp] theorem State.incOf_updCtx (s : State) (k : Nat) (f : Ctx → Ctx) (e : Eid) : (s.updCtx k f).incOf e = s.incOf e := rfl

/-! #### setInc -/

@[simp] theorem State.port_setInc (s : State) (k : Eid) (i : Inc) (l : Nat) : (s.setInc k i).port l = s.port l := rfl
@[simp] theorem State.trunk_setInc (s : State) (k : Eid) (i : Inc) (t : Nat) : (s.setInc k i).trunk t = s.trunk t := rfl
@[simp] theorem State.part_setInc (s : State) (k : Eid) (i : Inc) (p : Nat) : (s.setInc k i).part p = s.part p := rfl
@[simp] theorem State.tray_setInc (s : State) (k : Eid) (i : Inc) (t : Nat) : (s.setInc k i).tray t = s.tray t := rfl
@[simp] theorem State.blk_setInc (s : State) (k : Eid) (i : Inc) (g : Nat) : (s.setInc k i).blk g = s.blk g := rfl
@[simp] theorem State.ctx_setInc (s : State) (k : Eid) (i : Inc) (c : Nat) : (s.setInc k i).ctx c = s.ctx c := rfl
@[simp] theorem State.qtr_setInc (s : State) (k : Eid) (i : Inc) (q : Nat) : (s.setInc k i).qtr q = s.qtr q := rfl
@[simp] theorem State.now_setInc (s : State) (k : Eid) (i : Inc) : (s.setInc k i).now = s.now := rfl

/-! ### What an event leaves alone -/

/-- A Block without the depth that its TC2 queue has reached. -/
def Block.offPeak (b : Block) : Block := { b with peak := 0 }

/-- The state without the ring of events and its counters, the outputs, the free values taken, the queues and the orders of instructions; and
each Block without its peak. -/
def State.offEvents (s : State) : State × (Nat → Block) :=
  ({ s with sec := { s.sec with evts := [], eseq := 0, evtDrop := 0 }, out := [], freeCtr := 0, qs := [], ctlq := [], blks := [] },
    fun g => (s.blk g).offPeak)

@[simp] theorem State.updQueue_offEvents (s : State) (q n : Nat) (f : Queue → Queue) : (s.updQueue q n f).offEvents = s.offEvents := rfl
@[simp] theorem State.updQtr_offEvents (s : State) (q : Nat) (f : Quarter → Quarter) : (s.updQtr q f).offEvents = s.offEvents := rfl
@[simp] theorem State.notePool_offEvents (s : State) (q : Nat) : (s.notePool q).offEvents = s.offEvents := rfl

@[simp] theorem State.nsFree_offEvents (s : State) : s.nsFree.2.offEvents = s.offEvents := rfl

theorem State.updBlk_offEvents {s : State} {g : Nat} {f : Block → Block} (h : (f (s.blk g)).offPeak = (s.blk g).offPeak) :
    (s.updBlk g f).offEvents = s.offEvents := by
  refine Prod.ext rfl (funext fun k => ?_)
  by_cases hk : k = g
  · simpa [State.offEvents, hk] using h
  · simp [State.offEvents, State.blk_updBlk_other _ _ hk]

@[simp] theorem State.takeTurn_offEvents (s : State) (q n : Nat) (p : Pkt) : (s.takeTurn q n p).offEvents = s.offEvents := by
  unfold State.takeTurn
  split <;> rfl

@[simp] theorem State.noteDepth_offEvents (s : State) (q n : Nat) : (s.noteDepth q n).offEvents = s.offEvents := by
  simp only [State.noteDepth]
  split
  · exact (State.updBlk_offEvents rfl).trans (by simp)
  · simp

@[simp] theorem State.enqueue_offEvents (s : State) (q n : Nat) (m : Msg) (cells fromMin : Nat) (mc : Option Nat) :
    (s.enqueue q n m cells fromMin mc).offEvents = s.offEvents := by
  simp [State.enqueue]

theorem State.admitUni_offEvents {s t : State} {q n : Nat} {m : Msg} (h : s.admitUni q n m = some t) : t.offEvents = s.offEvents := by
  simp only [State.admitUni] at h
  split at h
  · cases h
    simp
  · cases h

@[simp] theorem State.sendEvent_offEvents (s : State) (e : Event) (k : Nat) : (s.sendEvent e k).offEvents = s.offEvents := by
  simp only [State.sendEvent]
  split
  · rfl
  · split
    next h => exact State.admitUni_offEvents h
    next => rfl

/-- An event changes its ring, the outputs and the queues alone. -/
@[simp] theorem State.raise_offEvents (s : State) (e : Event) : (s.raise e).offEvents = s.offEvents := by
  simp only [State.raise]
  rw [foldl_same (fun s k => s.sendEvent_offEvents ..)]
  repeat' split
  all_goals rfl

@[simp] theorem State.raise_tb (s : State) (e : Event) : (s.raise e).tb = s.tb := (congrArg (·.1.tb) (s.raise_offEvents e) :)
@[simp] theorem State.raise_pw (s : State) (e : Event) : (s.raise e).pw = s.pw := (congrArg (·.1.pw) (s.raise_offEvents e) :)
@[simp] theorem State.raise_mod (s : State) (e : Event) : (s.raise e).mod = s.mod := (congrArg (·.1.mod) (s.raise_offEvents e) :)
@[simp] theorem State.raise_fuse (s : State) (e : Event) : (s.raise e).fuse = s.fuse := (congrArg (·.1.fuse) (s.raise_offEvents e) :)
@[simp] theorem State.raise_boot (s : State) (e : Event) : (s.raise e).boot = s.boot := (congrArg (·.1.boot) (s.raise_offEvents e) :)
@[simp] theorem State.raise_selfEid (s : State) (e : Event) : (s.raise e).selfEid = s.selfEid := (congrArg (·.1.selfEid) (s.raise_offEvents e) :)
@[simp] theorem State.raise_selfInc (s : State) (e : Event) : (s.raise e).selfInc = s.selfInc := (congrArg (·.1.selfInc) (s.raise_offEvents e) :)
@[simp] theorem State.raise_eidInc (s : State) (e : Event) : (s.raise e).eidInc = s.eidInc := (congrArg (·.1.eidInc) (s.raise_offEvents e) :)
@[simp] theorem State.raise_mgrs (s : State) (e : Event) : (s.raise e).mgrs = s.mgrs := (congrArg (·.1.mgrs) (s.raise_offEvents e) :)
@[simp] theorem State.raise_ports (s : State) (e : Event) : (s.raise e).ports = s.ports := (congrArg (·.1.ports) (s.raise_offEvents e) :)
@[simp] theorem State.raise_trunks (s : State) (e : Event) : (s.raise e).trunks = s.trunks := (congrArg (·.1.trunks) (s.raise_offEvents e) :)
@[simp] theorem State.raise_parts (s : State) (e : Event) : (s.raise e).parts = s.parts := (congrArg (·.1.parts) (s.raise_offEvents e) :)
@[simp] theorem State.raise_trays (s : State) (e : Event) : (s.raise e).trays = s.trays := (congrArg (·.1.trays) (s.raise_offEvents e) :)
@[simp] theorem State.raise_ctxs (s : State) (e : Event) : (s.raise e).ctxs = s.ctxs := (congrArg (·.1.ctxs) (s.raise_offEvents e) :)
@[simp] theorem State.raise_mem (s : State) (e : Event) : (s.raise e).mem = s.mem := (congrArg (·.1.mem) (s.raise_offEvents e) :)
@[simp] theorem State.raise_poison (s : State) (e : Event) : (s.raise e).poison = s.poison := (congrArg (·.1.poison) (s.raise_offEvents e) :)
@[simp] theorem State.raise_lost (s : State) (e : Event) : (s.raise e).lost = s.lost := (congrArg (·.1.lost) (s.raise_offEvents e) :)
@[simp] theorem State.raise_joins (s : State) (e : Event) : (s.raise e).joins = s.joins := (congrArg (·.1.joins) (s.raise_offEvents e) :)
@[simp] theorem State.raise_calset (s : State) (e : Event) : (s.raise e).calset = s.calset := (congrArg (·.1.calset) (s.raise_offEvents e) :)
@[simp] theorem State.raise_save (s : State) (e : Event) : (s.raise e).save = s.save := (congrArg (·.1.save) (s.raise_offEvents e) :)
@[simp] theorem State.raise_flash (s : State) (e : Event) : (s.raise e).flash = s.flash := (congrArg (·.1.flash) (s.raise_offEvents e) :)
@[simp] theorem State.raise_flashOld (s : State) (e : Event) : (s.raise e).flashOld = s.flashOld := (congrArg (·.1.flashOld) (s.raise_offEvents e) :)
@[simp] theorem State.raise_cage (s : State) (e : Event) : (s.raise e).cage = s.cage := (congrArg (·.1.cage) (s.raise_offEvents e) :)
@[simp] theorem State.raise_spray (s : State) (e : Event) : (s.raise e).spray = s.spray := (congrArg (·.1.spray) (s.raise_offEvents e) :)
@[simp] theorem State.raise_rsto (s : State) (e : Event) : (s.raise e).rsto = s.rsto := (congrArg (·.1.rsto) (s.raise_offEvents e) :)
@[simp] theorem State.raise_pteEvt (s : State) (e : Event) : (s.raise e).pteEvt = s.pteEvt := (congrArg (·.1.pteEvt) (s.raise_offEvents e) :)
@[simp] theorem State.port_raise (s : State) (e : Event) (l : Nat) : (s.raise e).port l = s.port l := (congrArg (·.1.port l) (s.raise_offEvents e) :)
@[simp] theorem State.trunk_raise (s : State) (e : Event) (t : Nat) : (s.raise e).trunk t = s.trunk t := (congrArg (·.1.trunk t) (s.raise_offEvents e) :)
@[simp] theorem State.part_raise (s : State) (e : Event) (p : Nat) : (s.raise e).part p = s.part p := (congrArg (·.1.part p) (s.raise_offEvents e) :)
@[simp] theorem State.tray_raise (s : State) (e : Event) (t : Nat) : (s.raise e).tray t = s.tray t := (congrArg (·.1.tray t) (s.raise_offEvents e) :)
theorem State.blk_raise (s : State) (e : Event) (g : Nat) : ((s.raise e).blk g).offPeak = (s.blk g).offPeak := (congrArg (·.2 g) (s.raise_offEvents e) :)
@[simp] theorem State.ctx_raise (s : State) (e : Event) (c : Nat) : (s.raise e).ctx c = s.ctx c := (congrArg (·.1.ctx c) (s.raise_offEvents e) :)
@[simp] theorem State.now_raise (s : State) (e : Event) : (s.raise e).now = s.now := (congrArg (fun x => State.now x.1) (s.raise_offEvents e) :)
@[simp] theorem State.incOf_raise (s : State) (v : Event) (e : Eid) : (s.raise v).incOf e = s.incOf e := (congrArg (·.1.incOf e) (s.raise_offEvents v) :)

/-! ### What taking the instruction off its queue leaves alone -/

/-- The state without its queues of packets and control instructions, and without the count of free values. -/
def State.offQueues (s : State) : State := { s with qs := [], freeCtr := 0, ctlq := [] }

theorem State.releaseMc_offQueues (s : State) (q : Nat) (p : QPkt) : (s.releaseMc q p).offQueues = s.offQueues := by
  unfold State.releaseMc
  split <;> rfl

theorem State.takeHead_offQueues {s t : State} {q n : Nat} {p : QPkt} (h : s.takeHead q n = some (p, t)) : t.offQueues = s.offQueues := by
  unfold State.takeHead at h
  split at h
  · cases h
  · cases h
    exact State.releaseMc_offQueues ..

theorem State.dropCtl_offQueues (s : State) (via : Via) : (s.dropCtl via).offQueues = s.offQueues := by
  cases via with
  | tc0 q =>
    simp only [State.dropCtl]
    split
    next h => exact (State.takeHead_offQueues h).trans rfl
    next => rfl
  | pcie => rfl
  | i3c => rfl

@[simp] theorem State.dropCtl_tb (s : State) (via : Via) : (s.dropCtl via).tb = s.tb :=
  (congrArg State.tb (s.dropCtl_offQueues via) :)
@[simp] theorem State.dropCtl_ports (s : State) (via : Via) : (s.dropCtl via).ports = s.ports :=
  (congrArg State.ports (s.dropCtl_offQueues via) :)
@[simp] theorem State.dropCtl_trunks (s : State) (via : Via) : (s.dropCtl via).trunks = s.trunks :=
  (congrArg State.trunks (s.dropCtl_offQueues via) :)
@[simp] theorem State.dropCtl_trays (s : State) (via : Via) : (s.dropCtl via).trays = s.trays :=
  (congrArg State.trays (s.dropCtl_offQueues via) :)
@[simp] theorem State.dropCtl_parts (s : State) (via : Via) : (s.dropCtl via).parts = s.parts :=
  (congrArg State.parts (s.dropCtl_offQueues via) :)
@[simp] theorem State.dropCtl_blks (s : State) (via : Via) : (s.dropCtl via).blks = s.blks :=
  (congrArg State.blks (s.dropCtl_offQueues via) :)
@[simp] theorem State.dropCtl_ctxs (s : State) (via : Via) : (s.dropCtl via).ctxs = s.ctxs :=
  (congrArg State.ctxs (s.dropCtl_offQueues via) :)
@[simp] theorem State.dropCtl_mgrs (s : State) (via : Via) : (s.dropCtl via).mgrs = s.mgrs :=
  (congrArg State.mgrs (s.dropCtl_offQueues via) :)
@[simp] theorem State.dropCtl_calset (s : State) (via : Via) : (s.dropCtl via).calset = s.calset :=
  (congrArg State.calset (s.dropCtl_offQueues via) :)
@[simp] theorem State.dropCtl_selfEid (s : State) (via : Via) : (s.dropCtl via).selfEid = s.selfEid :=
  (congrArg State.selfEid (s.dropCtl_offQueues via) :)
@[simp] theorem State.dropCtl_eidInc (s : State) (via : Via) : (s.dropCtl via).eidInc = s.eidInc :=
  (congrArg State.eidInc (s.dropCtl_offQueues via) :)
@[simp] theorem State.dropCtl_mem (s : State) (via : Via) : (s.dropCtl via).mem = s.mem :=
  (congrArg State.mem (s.dropCtl_offQueues via) :)

@[simp] theorem State.dropCtl_port (s : State) (via : Via) (l : Nat) : (s.dropCtl via).port l = s.port l := by simp [State.port]
@[simp] theorem State.dropCtl_trunk (s : State) (via : Via) (t : Nat) : (s.dropCtl via).trunk t = s.trunk t := by simp [State.trunk]
@[simp] theorem State.dropCtl_tray (s : State) (via : Via) (t : Nat) : (s.dropCtl via).tray t = s.tray t := by simp [State.tray]
@[simp] theorem State.dropCtl_part (s : State) (via : Via) (p : Nat) : (s.dropCtl via).part p = s.part p := by simp [State.part]
@[simp] theorem State.dropCtl_blk (s : State) (via : Via) (g : Nat) : (s.dropCtl via).blk g = s.blk g := by simp [State.blk]
@[simp] theorem State.dropCtl_ctx (s : State) (via : Via) (c : Nat) : (s.dropCtl via).ctx c = s.ctx c := by simp [State.ctx]
@[simp] theorem State.dropCtl_now (s : State) (via : Via) : (s.dropCtl via).now = s.now := by simp [State.now]

/-! ### Completion -/

/-- An instruction that is ready, whose check only looks, passes it and acts at once completes OK with the effect done. -/
theorem runCtl_plain {s : State} {via : Via} {ci : CtlInsn} {c : Caller} {opc sub : Nat} {check : State → Status} (f : State → State)
    (h : CtlReady s via ci opc sub c) (hk : ctlKnown opc sub = true) (hc : check (s.sinks via) = stOk) :
    s.runCtl via ci opc sub (looks check) (plain f)
      = .next ((f ((s.sinks via).dropCtl via)).ctlOk ((s.sinks via).dropCtl via) c opc sub 0) :=
  runCtl_ok h hk (looks_eq hc) rfl

/-- A field of the instruction word fits its width. -/
theorem ctl_f_lt (ci : CtlInsn) (lo n : Nat) : ci.f lo n < 2 ^ n := Nat.mod_lt _ (Nat.two_pow_pos n)

@[simp] theorem toNat_ofNat_f (ci : CtlInsn) (lo n : Nat) : (BitVec.ofNat n (ci.f lo n)).toNat = ci.f lo n := by
  simp [Nat.mod_eq_of_lt (ctl_f_lt ci lo n)]

@[simp] theorem toNat_ofNat_sbits (v : BitVec w) (lo n : Nat) : (BitVec.ofNat n (sbits v lo n)).toNat = sbits v lo n := by
  simp [sbits, bits]

/-! ### Overlays (R440 to R443) -/

/-- Settles O22: every overlay instruction that is ready runs its own effect. -/
theorem calsetCompletes : Obligations.CalsetCompletes := by
  refine ⟨fun s via ci c => ⟨fun l h hf hl => ?_, fun l h hf hl => ?_, fun h hf hs hp => ?_⟩, fun s m d c hs => ?_⟩
  · dsimp only [exec, execCalsetApply]
    exact ⟨_, runCtl_plain _ h rfl (by simp [formed, hf, hl]), by simp [hl]⟩
  · dsimp only [exec, execCalsetRemove]
    exact ⟨_, runCtl_plain _ h rfl (by simp [formed, hf, hl]), by simp [hl]⟩
  · dsimp only [exec, execCalsetSave]
    exact runCtl_later h rfl (looks_eq (by simp [hf, hs, hp])) rfl
  · simp [exec, execCalsetSaveDone, hs]

/-! ### Tables of queues, trunks and trays -/

theorem State.updQtr_congr {s : State} {q : Nat} {f g : Quarter → Quarter} (h : f (s.qtr q) = g (s.qtr q)) : s.updQtr q f = s.updQtr q g := by
  simp [State.updQtr, h]

theorem State.updQueue_congr {s : State} {q n : Nat} {f g : Queue → Queue} (h : f (s.queue q n) = g (s.queue q n)) :
    s.updQueue q n f = s.updQueue q n g :=
  State.updQtr_congr (congrArg (fun v => (s.qtr q).setQueue n v) h)

theorem State.updPort_congr {s : State} {l : Nat} {f g : Port → Port} (h : f (s.port l) = g (s.port l)) : s.updPort l f = s.updPort l g := by
  simp [State.updPort, h]

@[simp] theorem Quarter.queue_setQueue (x : Quarter) (n : Nat) (v : Queue) : (x.setQueue n v).queue n = v := by
  simp [Quarter.setQueue, Quarter.queue]

@[simp] theorem State.queue_updQueue (s : State) (q n : Nat) (f : Queue → Queue) : (s.updQueue q n f).queue q n = f (s.queue q n) := by
  simp [State.updQueue, State.queue]

end Sys2Proof.Machine
end

section
/-! The settings of LINKCTL, and the cable groups (R39, R84 to R86, R96 to R134, R243, R374). -/

namespace Sys2Proof.Machine

/-! ### The timebase -/

@[simp] theorem State.tbEnter_state (s : State) (st : TbState) (up : Nat) : (s.tbEnter st up).tb.state = st := by
  simp only [State.tbEnter]
  split
  next h => exact h
  next => simp

@[simp] theorem State.tbEnter_tick (s : State) (st : TbState) (up : Nat) : (s.tbEnter st up).tb.tick = s.tb.tick := by
  simp only [State.tbEnter]
  split <;> simp

@[simp] theorem State.tbEnter_src (s : State) (st : TbState) (up : Nat) : (s.tbEnter st up).tb.src = s.tb.src := by
  simp only [State.tbEnter]
  split <;> simp

@[simp] theorem State.newSource_tick (s : State) : s.newSource.tb.tick = s.tb.tick := by
  unfold State.newSource
  repeat' split
  all_goals simp

@[simp] theorem State.newSource_src (s : State) : s.newSource.tb.src = s.tb.src := by
  unfold State.newSource
  repeat' split
  all_goals simp

/-- A new source of the timebase makes no device a source itself. -/
theorem State.newSource_state_ne_source {s : State} (h : s.tb.state ≠ .source) : s.newSource.tb.state ≠ .source := by
  unfold State.newSource
  repeat' split
  all_goals simp [h]

/-! ### Queues -/

@[simp] theorem State.queue_notePool (s : State) (q p n : Nat) : (s.notePool q).queue p n = s.queue p n := by
  by_cases h : p = q
  · subst h
    simp [State.notePool, State.queue, Quarter.queue]
  · simp [State.notePool, State.queue, State.qtr_updQtr_other _ _ h]

@[simp] theorem State.qtr_notePool_mcres (s : State) (q : Nat) : ((s.notePool q).qtr q).mcres = (s.qtr q).mcres := by simp [State.notePool]
@[simp] theorem State.qtr_notePool_mcs (s : State) (q : Nat) : ((s.notePool q).qtr q).mcs = (s.qtr q).mcs := by simp [State.notePool]

theorem State.updQtr_updQtr (s : State) (q : Nat) (f g : Quarter → Quarter) : (s.updQtr q f).updQtr q g = s.updQtr q (fun x => g (f x)) := by
  simp [State.updQtr, State.setQtr, State.qtr, tset_tset]

/-- Noting the watermark of the pool writes that field alone. -/
theorem State.notePool_eq (s : State) (q : Nat) : s.notePool q = s.updQtr q (fun x => { x with poolTop := ((s.notePool q).qtr q).poolTop }) :=
  State.updQtr_congr (f := fun x => { x with poolTop := max x.poolTop (s.qtr q).poolUsed }) (by simp [State.notePool])

theorem qcfgDo_eq (q n m a : Nat) (w : State) :
    let u := qcfgDo q n m a w
    u = (w.updQueue q n (fun x => { x with min := (u.queue q n).min, alpha := (u.queue q n).alpha, pkts := (u.queue q n).pkts })).updQtr q
          (fun x => { x with poolTop := (u.qtr q).poolTop }) := by
  intro u
  rw [State.updQueue_congr (g := fun x => { x with min := BitVec.ofNat 18 m, alpha := BitVec.ofNat 3 a, pkts := recountMin m x.pkts }) (by simp [u, qcfgDo])]
  exact State.notePool_eq ..

theorem bufcfgDo_eq (q m : Nat) (w : State) :
    let u := bufcfgDo q m w
    u = w.updQtr q (fun x => { x with mcres := (u.qtr q).mcres, mcs := (u.qtr q).mcs, poolTop := (u.qtr q).poolTop }) := by
  intro u
  refine (State.notePool_eq ..).trans ?_
  rw [State.updQtr_updQtr]
  exact State.updQtr_congr (by simp [u, bufcfgDo])

/-! ### Tables -/

/-- Reading a table whose values are all mapped by a function that keeps the default. -/
theorem tget_map {α : Type} {f : Nat → α → α} {d : α} {k : Nat} (h : f k d = d) (t : Tbl α) : tget (t.map (fun e => (e.1, f e.1 e.2))) k d = f k (tget t k d) := by
  induction t with
  | nil => exact h.symm
  | cons e r ih =>
    by_cases hk : e.1 = k
    · simp [tget, hk]
    · simpa [tget, hk] using ih

theorem State.tray_foldl_updTray {f : Nat → Tray → Tray} {l : List Nat} (hl : l.Nodup) (s : State) (k : Nat) :
    (l.foldl (fun s i => s.updTray i (f i)) s).tray k = if k ∈ l then f k (s.tray k) else s.tray k := by
  induction l generalizing s with
  | nil => rfl
  | cons i r ih =>
    obtain ⟨hi, hr⟩ := List.nodup_cons.mp hl
    rw [List.foldl_cons, ih hr]
    by_cases h : k = i
    · simp [h, hi]
    · simp [h, State.tray_updTray_other _ _ h]

theorem State.foldl_updTray {f : Nat → Tray → Tray} (l : List Nat) (s : State) :
    l.foldl (fun s i => s.updTray i (f i)) s = { s with trays := (l.foldl (fun s i => s.updTray i (f i)) s).trays } := by
  induction l generalizing s with
  | nil => rfl
  | cons i r ih => exact (ih _).trans rfl

theorem traycfgDo_eq (t : Nat) (on sel : Bool) (s : State) : traycfgDo t on sel s = { s with trays := (traycfgDo t on sel s).trays } :=
  (State.foldl_updTray ..).trans rfl

theorem tray_traycfgDo {t : Nat} (h : t < 16) (on sel : Bool) (s : State) :
    ((traycfgDo t on sel s).tray t).sel = sel
    ∧ ((traycfgDo t on sel s).tray t).state
        = (if on then (if (s.tray t).state = .disabled then (if (s.tray t).prsnt then .train else .down) else (s.tray t).state) else .disabled : TrayState)
    ∧ ∀ k, k < 16 → k ≠ t → ((traycfgDo t on sel s).tray k).sel = ((s.tray k).sel && !sel) := by
  refine ⟨?_, ?_, fun k hk hkt => ?_⟩
  · simp [traycfgDo, State.tray_foldl_updTray List.nodup_range, h]
  · simp [traycfgDo, State.tray_foldl_updTray List.nodup_range, h]
  · simp [traycfgDo, State.tray_foldl_updTray List.nodup_range, hk, hkt, State.tray_updTray_other _ _ hkt]

theorem ticksrcDo_src (k : Nat) (load : Bool) (tick : BitVec 64) (s : State) : (ticksrcDo k load tick s).tb.src = BitVec.ofNat 2 k := by
  simp only [ticksrcDo]
  repeat' split
  all_goals simp

theorem ticksrcDo_tick (k : Nat) (load : Bool) (tick : BitVec 64) (s : State) :
    (ticksrcDo k load tick s).tb.tick = if load then tick else s.tb.tick := by
  simp only [ticksrcDo]
  repeat' split
  all_goals simp_all

/-- A device is a source of the timebase only where its source is itself. -/
theorem ticksrcDo_state_source {k : Nat} {load : Bool} {tick : BitVec 64} {s : State} (h : (ticksrcDo k load tick s).tb.state = .source) : k = 3 := by
  refine Classical.byContradiction fun hk => ?_
  simp only [ticksrcDo, hk, if_false] at h
  split at h
  · simp at h
  · split at h
    · simp at h
    next hn => exact State.newSource_state_ne_source (by simpa using (not_or.mp hn).2) h

theorem ticksrcDo_self {load : Bool} {tick : BitVec 64} {s : State} (h : s.tb.mismatch = false ∨ load = true) :
    (ticksrcDo 3 load tick s).tb.state = .source := by
  rcases h with h | h <;> simp [ticksrcDo, h]

theorem ticksrcDo_other {k : Nat} {load : Bool} {tick : BitVec 64} {s : State} (hk : k ≠ 3) (h : s.tb.state = .source ∨ load = true) :
    (ticksrcDo k load tick s).tb.state = .unaligned := by
  simp only [ticksrcDo, hk, if_false]
  split
  · simp
  · simp [h.symm]

/-- A trunk without the order state of the classes whose mode `flips`. -/
def Trunk.keep (flips : Nat → Bool) (x : Trunk) : Trunk :=
  { x with exp := x.exp.filter (fun e => !flips e.1), gap := x.gap.filter (fun e => !flips e.1), pseq := x.pseq.filter (fun e => !flips e.1) }

theorem trunk_orderDo (a b : Nat) (s : State) (t : Nat) : ((orderDo a b s).trunk t).members = (s.trunk t).members := by
  have kept := tget_map (f := fun _ => Trunk.keep (fun k => s.spray.getLsbD k ≠ (BitVec.ofNat 7 a).getLsbD k)) (d := {}) (k := t) rfl s.trunks
  exact (congrArg Trunk.members kept :)

/-- Settles O21, setting by setting. -/
theorem linkctlSettingsComplete : Obligations.LinkctlSettingsComplete := by
  intro s via ci c b q n l w
  have ported : w.port l = b.port l := State.dropCtl_port ..
  refine ⟨fun h hc => ?_, fun h hc => ?_, fun h hc => ?_, fun h hc => ?_, fun h hc => ?_, fun h hc => ?_, fun h hc => ?_, fun h hc => ?_,
    fun h hc => ?_, fun h hc => ?_⟩
  · dsimp only [exec, execLinkctlTicksrc]
    refine ⟨_, runCtl_plain _ h rfl hc, ?_, ?_, ticksrcDo_state_source, fun hs hm => ?_, fun hs hm => ?_⟩
    · rw [ticksrcDo_src, toNat_ofNat_f]
    · simp [ticksrcDo_tick, b]
    · rw [hs]
      exact ticksrcDo_self (by simpa [b] using hm)
    · exact ticksrcDo_other hs (by simpa [b] using hm)
  · dsimp only [exec, execLinkctlQcfg]
    refine ⟨_, runCtl_plain _ h rfl hc, qcfgDo_eq .., ?_⟩
    simp [-BitVec.toNat_ofNat, qcfgDo, q, n]
  · dsimp only [exec, execLinkctlBufcfg]
    refine ⟨_, runCtl_plain _ h rfl hc, bufcfgDo_eq .., ?_⟩
    simp [-BitVec.toNat_ofNat, bufcfgDo, q]
  · dsimp only [exec, execLinkctlOrder]
    exact ⟨_, runCtl_plain _ h rfl hc, rfl, fun t => (trunk_orderDo ..).trans (by rw [State.dropCtl_trunk])⟩
  · dsimp only [exec, execLinkctlShaper]
    exact ⟨_, runCtl_plain _ h rfl hc, rfl⟩
  · dsimp only [exec, execLinkctlPolicer]
    refine ⟨_, runCtl_plain _ h rfl hc, ?_, ?_, ?_, ?_, ?_⟩
    · simp [-BitVec.toNat_ofNat, l]
    · simp [-BitVec.toNat_ofNat, l]
    · simp [l, b]
    · exact State.updPort_congr (by simp [l])
    · intro k hk
      simp [l, b, tget_tset_other _ _ _ hk]
  · dsimp only [exec, execLinkctlLoadcfg]
    exact ⟨_, runCtl_plain _ h rfl hc, rfl⟩
  · dsimp only [exec, execLinkctlEgress]
    exact ⟨_, runCtl_plain _ h rfl hc, rfl⟩
  · dsimp only [exec, execLinkctlManager]
    refine ⟨_, runCtl_plain _ h rfl hc, rfl, ?_, fun e he => ?_⟩
    · simp [mem_setPut]
    · simp [mem_setPut, he, b]
  · dsimp only [exec, execLinkctlTraycfg]
    obtain ⟨sel, state, others⟩ := tray_traycfgDo (ctl_f_lt ci 0 4) (ci.f 4 1 = 1) (ci.f 5 1 = 1) w
    refine ⟨_, runCtl_plain _ h rfl hc, traycfgDo_eq .., sel, fun on k hk hkt => ?_, fun off => ?_, fun on hd => ?_, fun on hd => ?_⟩
    · exact (others k hk hkt).trans (by simp [on])
    · exact state.trans (by simp [off])
    · exact state.trans (by simp [on, w, hd])
    · exact state.trans (by simp [on, w, hd])

/-! ### Cable groups (R84 to R86) -/

theorem getLsbD_twoPow (k j : Nat) (hj : j < 64) : (BitVec.ofNat 64 (2 ^ k)).getLsbD j = decide (k = j) := by
  rw [BitVec.getLsbD_ofNat, Nat.testBit_two_pow]
  simp [hj]

/-- Settles O34: the bit of the group changes and no other, and the rest is the command's own effect. -/
theorem cablesComeAndGo : Obligations.CablesComeAndGo := by
  intro s group k ht
  have hk : k < 64 := group.isLt
  refine ⟨fun h => ?_, fun h => ?_, fun h => ?_, fun h => ?_⟩
  · refine ⟨{ s with cage := s.cage ||| BitVec.ofNat 64 (2 ^ k) }, ?_, ?_, fun j hj hjk => ?_, rfl⟩
    · simp only [exec, execCableIn]
      rw [if_neg (by simp [k, h, ht] at *)]
      split <;> rfl
    · rw [BitVec.getLsbD_or, getLsbD_twoPow k k hk]
      simp
    · rw [BitVec.getLsbD_or, getLsbD_twoPow k j hj]
      simp [hjk.symm]
  · refine ⟨{ s with cage := s.cage &&& ~~~(BitVec.ofNat 64 (2 ^ k)) }, ?_, ?_, fun j hj hjk => ?_, rfl⟩
    · simp only [exec, execCableOut]
      rw [if_neg (by simp_all [k])]
    · rw [BitVec.getLsbD_and, BitVec.getLsbD_not, getLsbD_twoPow k k hk]
      simp
    · rw [BitVec.getLsbD_and, BitVec.getLsbD_not, getLsbD_twoPow k j hj]
      simp [hjk.symm, hj]
  · simp [exec, execCableOut, k, h]
  · simp [exec, execCableIn, k, h]

end Sys2Proof.Machine
end

section
/-! Banks that change hands, killed jobs and parked contexts (R182, R387, R395). -/

namespace Sys2Proof.Machine

/-! ### Nibbles of a word -/

/-- Nibble `i` of a word replaced: what it held goes, `k` comes. -/
def setNibble (w i k : Nat) : Nat := w - bits w (4 * i) 4 * 2 ^ (4 * i) + k * 2 ^ (4 * i)

/-- A field below a cut is read from what lies below the cut. -/
theorem bits_add_mul_low {b c d lo n : Nat} (h : lo + n ≤ d) : bits (b + 2 ^ d * c) lo n = bits b lo n := by
  obtain ⟨e, rfl⟩ := Nat.exists_eq_add_of_le h
  have : b + 2 ^ (lo + n + e) * c = b + 2 ^ lo * (2 ^ n * (2 ^ e * c)) := by rw [Nat.pow_add, Nat.pow_add, Nat.mul_assoc, Nat.mul_assoc]
  rw [bits, bits, this, Nat.add_mul_div_left _ _ (Nat.two_pow_pos lo), Nat.add_mul_mod_self_left]

/-- A field above a cut is read from what lies above the cut. -/
theorem bits_add_mul_high {b c d lo n : Nat} (hb : b < 2 ^ d) (h : d ≤ lo) : bits (b + 2 ^ d * c) lo n = bits c (lo - d) n := by
  obtain ⟨e, rfl⟩ := Nat.exists_eq_add_of_le h
  rw [bits, bits, Nat.add_sub_cancel_left, Nat.pow_add, ← Nat.div_div_eq_div_mul, Nat.add_mul_div_left _ _ (Nat.two_pow_pos d), Nat.div_eq_of_lt hb,
    Nat.zero_add]

/-- A word is what lies below a nibble, the nibble, and what lies above it. -/
theorem nibble_split (w i : Nat) : w = w % 2 ^ (4 * i) + 2 ^ (4 * i) * (bits w (4 * i) 4 + 2 ^ 4 * (w / 2 ^ (4 * i) / 2 ^ 4)) := by
  rw [bits, Nat.mod_add_div, Nat.mod_add_div]

theorem setNibble_eq (w i k : Nat) : setNibble w i k = w % 2 ^ (4 * i) + 2 ^ (4 * i) * (k + 2 ^ 4 * (w / 2 ^ (4 * i) / 2 ^ 4)) := by
  have h := nibble_split w i
  simp only [setNibble]
  generalize bits w (4 * i) 4 = n at *
  generalize w / 2 ^ (4 * i) / 2 ^ 4 = c at *
  have e (m : Nat) : 2 ^ (4 * i) * (m + 2 ^ 4 * c) = m * 2 ^ (4 * i) + 2 ^ (4 * i) * (2 ^ 4 * c) := by rw [Nat.mul_add, Nat.mul_comm m]
  rw [e] at h ⊢
  omega

theorem bits_setNibble {w i k : Nat} (hk : k < 16) (j : Nat) : bits (setNibble w i k) (4 * j) 4 = if j = i then k else bits w (4 * j) 4 := by
  have hlow : w % 2 ^ (4 * i) < 2 ^ (4 * i) := Nat.mod_lt _ (Nat.two_pow_pos _)
  rw [setNibble_eq]
  rcases Nat.lt_trichotomy j i with h | rfl | h
  · rw [if_neg (by omega), bits_add_mul_low (by omega)]
    conv => rhs; rw [nibble_split w i, bits_add_mul_low (by omega)]
  · rw [if_pos rfl, bits_add_mul_high hlow (Nat.le_refl _), Nat.sub_self, bits_add_mul_low (b := k) (d := 4) (by omega)]
    simpa [bits] using Nat.mod_eq_of_lt hk
  · have hn : bits w (4 * i) 4 < 2 ^ 4 := Nat.mod_lt _ (by omega)
    rw [if_neg (by omega), bits_add_mul_high hlow (by omega), bits_add_mul_high (by omega) (by omega)]
    conv => rhs; rw [nibble_split w i, bits_add_mul_high hlow (by omega), bits_add_mul_high hn (by omega)]

/-- The nibbles of a list replaced, one after the other. -/
theorem bits_foldl_setNibble {k : Nat} (hk : k < 16) (l : List Nat) (w j : Nat) :
    bits (l.foldl (fun w i => setNibble w i k) w) (4 * j) 4 = if j ∈ l then k else bits w (4 * j) 4 := by
  induction l generalizing w with
  | nil => simp
  | cons i r ih =>
    rw [List.foldl_cons, ih, bits_setNibble hk]
    by_cases hr : j ∈ r <;> simp [hr]

/-- A nibble of a 64-bit word is read through the word's width. -/
theorem sbits_ofNat_nibble {i : Nat} (hi : i < 16) (n : Nat) : sbits (BitVec.ofNat 64 n) (4 * i) 4 = bits n (4 * i) 4 := by
  conv => rhs; rw [← Nat.mod_add_div n (2 ^ 64), bits_add_mul_low (by omega)]
  simp [sbits]

/-! ### Ownership of banks -/

/-- The owner of each bank after the banks of a mask are given. -/
theorem State.bankOf_giveBanks {s : State} {g : Nat} {m : BitVec 16} {to' : Option Nat} (hk : ∀ k ∈ to', k < 16) {i : Nat} (hi : i < 16) :
    ((s.giveBanks g m to').blk g).bankOf i = if m.getLsbD i then to' else (s.blk g).bankOf i := by
  cases to' with
  | none => cases hm : m.getLsbD i <;> simp [State.giveBanks, Block.bankOf, hm]
  | some k =>
    have nibble := bits_foldl_setNibble (hk k rfl) (maskList 16 m) (s.blk g).bankOwn.toNat i
    simp only [setNibble, mem_maskList, hi, true_and] at nibble
    simp only [State.giveBanks, Block.bankOf, State.blk_updBlk, sbits_ofNat_nibble hi, nibble, BitVec.getLsbD_and, BitVec.getLsbD_not, hi, decide_true,
      Bool.true_and]
    cases hm : m.getLsbD i <;> simp [sbits]

theorem State.giveBanks_bytes (s : State) (g : Nat) (m : BitVec 16) (to' : Option Nat) :
    ((s.giveBanks g m to').blk g).bank = (s.blk g).bank ∧ ((s.giveBanks g m to').blk g).bpois = (s.blk g).bpois
      ∧ ((s.giveBanks g m to').blk g).give = none := by
  cases to' <;> simp [State.giveBanks]

/-! ### Review of contexts -/

theorem State.reviewCtx_blks (s : State) (c : Nat) : (s.reviewCtx c).blks = s.blks := by
  simp only [State.reviewCtx]
  repeat' split
  all_goals rfl

theorem State.reviewCand_blks (was s : State) (c e : Nat) : (was.reviewCand s c e).blks = s.blks := by
  simp only [State.reviewCand]
  repeat' split
  all_goals rfl

/-- A review changes contexts alone. -/
@[simp] theorem State.review_blks (s : State) : s.review.blks = s.blks := by
  unfold State.review
  rw [foldl_same (g := State.blks) (fun s c => foldl_same (g := State.blks) (fun u e => State.reviewCand_blks ..) _ s)]
  exact foldl_same (fun s c => s.reviewCtx_blks c) _ s

@[simp] theorem State.review_blk (s : State) (g : Nat) : s.review.blk g = s.blk g := blk_congr s.review_blks g

theorem bgTo_lt (ci : CtlInsn) : ∀ k ∈ bgTo ci, k < 16 := by
  intro k hk
  unfold bgTo at hk
  split at hk
  · cases hk
  · obtain rfl := Option.some.inj hk
    exact ctl_f_lt ci 27 4

/-- Settles O17: who owns each bank afterwards by `State.bankOf_giveBanks`; a review of the contexts touches no bank. -/
theorem banksChangeHands : Obligations.BanksChangeHands := by
  unfold Obligations.BanksChangeHands
  intro given
  have gives (b u : State) (g : Nat) (m : BitVec 16) (to' : Option Nat) (hk : ∀ k ∈ to', k < 16) (hb : u.blk g = b.blk g) :
      given b (u.giveBanks g m to').review g m to' := by
    obtain ⟨bank, bpois, give⟩ := u.giveBanks_bytes g m to'
    simp only [given, State.review_blk, ← hb]
    exact ⟨fun i hi => State.bankOf_giveBanks hk hi, bank, bpois, give⟩
  constructor
  · intro s via ci c h hc b
    dsimp only [exec, execBankgive]
    split
    next may => exact ⟨_, runCtl_ok h rfl (looks_eq hc) (if_pos may), gives _ _ _ _ _ (bgTo_lt ci) (State.dropCtl_blk ..)⟩
    next may => exact ⟨_, runCtl_later h rfl (looks_eq hc) (if_neg may), by simp, fun i => by simp [b, Block.bankOf]⟩
  · intro s g v hv may hk
    exact ⟨_, by simp [exec, execBankHandover, hv, may], gives _ _ _ _ _ hk rfl⟩

/-! ### Killed jobs (R182) -/

/-- The port under each key after ports of a list are marked killed. -/
theorem State.port_foldl_kill (l : List (Nat × Port)) (s : State) (k : Nat) :
    (l.foldl (fun s e => s.updPort e.1 (fun p => { p with killed := true })) s).port k
      = { s.port k with killed := (s.port k).killed || l.any (fun e => e.1 = k) } := by
  induction l generalizing s with
  | nil => simp
  | cons e r ih =>
    rw [List.foldl_cons, ih]
    by_cases h : k = e.1
    · simp [h]
    · simp [State.port_updPort_other _ _ h, Ne.symm h]

theorem State.foldl_updPort_eq {f : Port → Port} (l : List (Nat × Port)) (s : State) :
    l.foldl (fun s e => s.updPort e.1 f) s = { s with ports := (l.foldl (fun s e => s.updPort e.1 f) s).ports } := by
  induction l generalizing s with
  | nil => rfl
  | cons e r ih => exact (ih _).trans rfl

/-- The state in which JOBKILL has marked the ports of its job. -/
def State.killed (ci : CtlInsn) (b : State) (via : Via) : State :=
  (b.ports.filter (fun e => e.2.job = ci.job)).foldl (fun s e => s.updPort e.1 (fun p => { p with killed := true })) (b.dropCtl via)

/-! ### Parked contexts (R395) -/

/-- A context that a freed entry may let go on loses causes alone. -/
theorem State.ctx_entryFreed (s : State) (g : Nat) (e : Nat → Bool) (c : Nat) :
    (s.entryFreed g e).ctx c = { s.ctx c with causes := ((s.entryFreed g e).ctx c).causes } := by
  let wake (k : Nat) (x : Ctx) : Ctx := if k / 16 = g then { x with causes := x.causes.filter (fun k => !(k.why = 2 && k.eid.isNone && e k.src)) } else x
  have mapped : (s.entryFreed g e).ctx c = wake c (s.ctx c) := by
    rw [State.ctx, State.ctx, ← tget_map (f := wake) (by simp [wake])]
    simp only [State.entryFreed, wake]
    congr 2
    funext x
    split <;> rfl
  rw [mapped]
  simp only [wake]
  split <;> rfl

theorem State.ctx_parkCtx (s : State) (c : Nat) (st : CtxState) :
    ((s.parkCtx c st).ctx c).state = st ∧ ((s.parkCtx c st).ctx c).pcx = (s.ctx c).pcx
      ∧ ((s.parkCtx c st).ctx c).since = BitVec.ofNat 28 s.now := by
  simp only [State.parkCtx]
  rw [State.ctx_entryFreed]
  simp

/-- Settles O18: the ports of the job by `State.port_foldl_kill`, the parked context by `State.ctx_parkCtx`. -/
theorem killAndParkComplete : Obligations.KillAndParkComplete := by
  intro s via ci c b
  refine ⟨fun h hc => ?_, fun h hc => ?_, fun h hc => ?_⟩
  · dsimp only [exec, execJobkill]
    have ports : (b.dropCtl via).ports = b.ports := b.dropCtl_ports via
    have parted : (State.killed ci b via).partOfJob ci.job = b.partOfJob ci.job := by
      rw [State.killed, State.foldl_updPort_eq]
      simp [State.partOfJob]
    refine ⟨_, runCtl_plain _ h rfl hc, State.killed ci b via, fun l => ?_, State.foldl_updPort_eq .., ?_⟩
    · simp [State.killed, State.port_foldl_kill, List.any_filter, Bool.and_comm]
    · have done : killDo ci (b.dropCtl via) = match (State.killed ci b via).partOfJob ci.job with
          | some p => (State.killed ci b via).killPart p
          | none => (State.killed ci b via).raise { code := 0x19, unit := uSquare, job := ci.job } := by
        rw [killDo, ports]
        rfl
      rw [parted] at done
      cases hp : b.partOfJob ci.job <;> simpa [hp] using done
  · dsimp only [exec, execCtxparkPark]
    refine ⟨_, runCtl_ok h rfl hc rfl, ?_⟩
    have legal : (b.ctx (ci.f 0 10)).state = .ready ∨ (b.ctx (ci.f 0 10)).state = .blocked ∨ (b.ctx (ci.f 0 10)).state = .swapped
        ∨ (b.ctx (ci.f 0 10)).state = .held := by
      cases hx : (b.ctx (ci.f 0 10)).state <;> simp_all [parkCheck, b]
    obtain ⟨parked, pcx, since⟩ := State.ctx_parkCtx (b.dropCtl via) (ci.f 0 10) .held
    simp only [parkDo, State.dropCtl_ctx]
    rcases legal with hx | hx | hx | hx <;> simp_all [b]
  · dsimp only [exec, execCtxparkResume]
    refine ⟨_, runCtl_plain _ h rfl hc, ?_⟩
    simp [b, State.updCtx, State.setCtx]

end Sys2Proof.Machine
end

section
/-! TIERMOVE over a table of partitions that is not in ascending order (R228). -/

namespace Sys2Proof.Machine

/-! ### A counterexample to TIERMOVE MOVE

The check of MOVE notes that the page's translation was used, which writes the partition back to its table in ascending order. Where the table
was not in ascending order and two partitions carry the job, the effect then finds the other one. -/

/-- MOVE of page 0x400 of job 0x312 to the near tier. -/
def moveInsn : CtlInsn := { modf := 0, rsv := 0, arglen := 0, imm := 0x312 + 2 ^ 16 * 0x400 + 2 ^ 40 * 1, args := [] }

/-- An operating machine whose partitions 1 and 0, in this order, both carry job 0x312; the page lies in the bulk tier of partition 1. -/
def twoOfJob : State :=
  { State.reset with
    boot := { State.reset.boot with step := 6 }, selfEid := 0x020, selfInc := 1
    parts := [(1, { state := .bound, blocks := 1, job := 0x312, ptv := true, usedBulk := 1, pages := [(0x400, { state := .placed, tier := 2 })],
                    tcache := [(0x400, { v := true, dev := 0x020 })] }),
              (0, { state := .bound, job := 0x312 })]
    blks := [(0, { state := .member })]
    ctlq := [(.pcie, moveInsn.word 0x86 0, [])] }

/-- The state that the check of MOVE leaves. -/
def twoOfJobChecked : State := (moveCheck moveInsn (twoOfJob.sinks .pcie)).1

/-- A completion through a window leaves the partitions as the effect left them. -/
theorem State.ctlOk_parts {c : Caller} (h : c.via = .pcie ∨ c.via = .i3c) (u s0 : State) (opc sub r : Nat) : (u.ctlOk s0 c opc sub r).parts = u.parts :=
  ((windowCompletion u s0 c opc sub r h).2.2.2.2.2.2.1 :)

theorem twoOfJob_ready : CtlReady twoOfJob .pcie moveInsn 0x86 0 { via := .pcie, ci := moveInsn } := ⟨⟨by decide, by decide⟩, by decide⟩

theorem twoOfJob_checked : moveCheck moveInsn (twoOfJob.sinks .pcie) = (twoOfJobChecked, .st stOk) :=
  Prod.ext rfl (by decide)

/-- The page of the partition whose check was made stays where it was. -/
theorem twoOfJob_page : (tget (tget (moveDo moveInsn (twoOfJobChecked.dropCtl .pcie)).parts 1 {}).pages 0x400 {}).state = .placed := by decide

/-- Refutes O19: the tables of a state need not be in ascending order, and two partitions may carry one job; the partition that the check of MOVE
finds for the job is then not the one whose page the effect moves. In `twoOfJob` the page of partition 1 passes the check and stays in its tier. -/
theorem not_tiermoveCompletes : ¬ Obligations.TiermoveCompletes := by
  intro h
  obtain ⟨move, -⟩ := h twoOfJob .pcie moveInsn { via := .pcie, ci := moveInsn }
  obtain ⟨u, hu, hpage⟩ := move 1 twoOfJobChecked twoOfJob_ready (by decide) twoOfJob_checked
  have run : exec (.tiermoveMove .pcie moveInsn) twoOfJob
      = .next ((moveDo moveInsn (twoOfJobChecked.dropCtl .pcie)).ctlOk (twoOfJobChecked.dropCtl .pcie) { via := .pcie, ci := moveInsn } 0x86 0 0) := by
    dsimp only [exec, execTiermoveMove]
    exact runCtl_ok twoOfJob_ready rfl twoOfJob_checked rfl
  have parts : u.parts = (moveDo moveInsn (twoOfJobChecked.dropCtl .pcie)).parts := by
    have same := Host.Outcome.next.inj (hu.symm.trans run)
    simpa only [State.ctlOk_parts (c := { via := .pcie, ci := moveInsn }) (.inl rfl)] using congrArg State.parts same
  have key : (twoOfJobChecked.part 1).pageKey (CtlInsn.f moveInsn 16 24) = 0x400 := by decide
  have tier : ((twoOfJobChecked.part 1).page (CtlInsn.f moveInsn 16 24)).tier.toNat ≠ CtlInsn.f moveInsn 40 2 := by decide
  rw [if_neg tier, key, State.part, parts] at hpage
  exact absurd (hpage.1.symm.trans twoOfJob_page) (by decide)

end Sys2Proof.Machine
end

section
/-! What a message or an event leaves of each port, trunk and Block: a finer frame than `State.still`, which names none of them. -/

namespace Sys2Proof.Machine

/-- A port without the credits that it owes its peer. -/
def Port.offOwed (p : Port) : Port := { p with owed := [] }

/-- A trunk without the packet numbers of its sprayed classes. -/
def Trunk.offPseq (t : Trunk) : Trunk := { t with pseq := [] }

/-- A Block without the messages that wait at its exit and the counts of what was lost or refused there. -/
def Block.offCounts (b : Block) : Block := { b with peak := 0, lateRsp := 0, fenceDrop := 0, fenceSince := 0, fenceEvt := none, outq := [] }

/-- What no message and no event changes: all that `State.still` keeps, and of each port, trunk and Block all but the counts of traffic. -/
def State.offTraffic (s : State) : State × (Nat → Port) × (Nat → Trunk) × (Nat → Block) :=
  (s.still, fun l => (s.port l).offOwed, fun t => (s.trunk t).offPseq, fun g => (s.blk g).offCounts)

/-! ### Queues -/

@[simp] theorem State.updQueue_offTraffic (s : State) (q n : Nat) (f : Queue → Queue) : (s.updQueue q n f).offTraffic = s.offTraffic := rfl
@[simp] theorem State.updQtr_offTraffic (s : State) (q : Nat) (f : Quarter → Quarter) : (s.updQtr q f).offTraffic = s.offTraffic := rfl
@[simp] theorem State.nsFree_offTraffic (s : State) : s.nsFree.2.offTraffic = s.offTraffic := rfl
@[simp] theorem State.free_offTraffic (s : State) : s.free.2.offTraffic = s.offTraffic := rfl
@[simp] theorem State.emit_offTraffic (s : State) (o : Output) : (s.emit o).offTraffic = s.offTraffic := rfl

@[simp] theorem State.send_offTraffic (s : State) (o : Output) : (s.send o).offTraffic = s.offTraffic := by
  unfold State.send
  split <;> rfl

theorem State.updBlk_offTraffic {s : State} {g : Nat} {f : Block → Block} (h : (f (s.blk g)).offCounts = (s.blk g).offCounts) :
    (s.updBlk g f).offTraffic = s.offTraffic := by
  refine Prod.ext rfl (Prod.ext rfl (Prod.ext rfl (funext fun k => ?_)))
  by_cases hk : k = g
  · simpa [State.offTraffic, hk] using h
  · simp [State.offTraffic, State.blk_updBlk_other _ _ hk]

theorem State.updPort_offTraffic {s : State} {l : Nat} {f : Port → Port} (h : (f (s.port l)).offOwed = (s.port l).offOwed) :
    (s.updPort l f).offTraffic = s.offTraffic := by
  refine Prod.ext rfl (Prod.ext (funext fun k => ?_) rfl)
  by_cases hk : k = l
  · simpa [State.offTraffic, hk] using h
  · simp [State.offTraffic, State.port_updPort_other _ _ hk]

theorem State.updTrunk_offTraffic {s : State} {t : Nat} {f : Trunk → Trunk} (h : (f (s.trunk t)).offPseq = (s.trunk t).offPseq) :
    (s.updTrunk t f).offTraffic = s.offTraffic := by
  refine Prod.ext rfl (Prod.ext rfl (Prod.ext (funext fun k => ?_) rfl))
  by_cases hk : k = t
  · simpa [State.offTraffic, hk] using h
  · simp [State.offTraffic, State.trunk_updTrunk_other _ _ hk]

/-- What keeps the queues' frame and no other table keeps the traffic's. -/
theorem State.offTraffic_of_offEvents {s t : State} (h : t.offEvents = s.offEvents) : t.offTraffic = s.offTraffic := by
  have still : t.still = s.still := (congrArg (fun x => x.1.still) h :)
  have ports : t.ports = s.ports := (congrArg (fun x => x.1.ports) h :)
  have trunks : t.trunks = s.trunks := (congrArg (fun x => x.1.trunks) h :)
  have blks (g : Nat) : (t.blk g).offPeak = (s.blk g).offPeak := (congrArg (·.2 g) h :)
  refine Prod.ext still (Prod.ext ?_ (Prod.ext ?_ (funext fun g => ?_)))
  · simp [State.offTraffic, State.port, ports]
  · simp [State.offTraffic, State.trunk, trunks]
  · exact (congrArg Block.offCounts (blks g) :)

@[simp] theorem State.countRefused_offTraffic (s : State) (q n : Nat) : (s.countRefused q n).offTraffic = s.offTraffic := rfl

@[simp] theorem State.enqueue_offTraffic (s : State) (q n : Nat) (m : Msg) (cells fromMin : Nat) (mc : Option Nat) :
    (s.enqueue q n m cells fromMin mc).offTraffic = s.offTraffic := State.offTraffic_of_offEvents (s.enqueue_offEvents ..)

@[simp] theorem State.releaseMc_offTraffic (s : State) (q : Nat) (p : QPkt) : (s.releaseMc q p).offTraffic = s.offTraffic := by
  unfold State.releaseMc
  split <;> rfl

theorem State.takeHead_offTraffic {s t : State} {q n : Nat} {p : QPkt} (h : s.takeHead q n = some (p, t)) : t.offTraffic = s.offTraffic := by
  unfold State.takeHead at h
  split at h
  · cases h
  · cases h
    exact State.releaseMc_offTraffic ..

theorem State.admitUni_offTraffic {s t : State} {q n : Nat} {m : Msg} (h : s.admitUni q n m = some t) : t.offTraffic = s.offTraffic :=
  State.offTraffic_of_offEvents (State.admitUni_offEvents h)

theorem State.admitMc_offTraffic {s t : State} {q c : Nat} {ts : List (Nat × Msg)} {b : Bool} (h : s.admitMc q ts c b = some t) :
    t.offTraffic = s.offTraffic := by
  have stored (u : State) (k : Nat) (l : List (Nat × Msg)) :
      (l.foldl (fun s t => s.enqueue q t.1 t.2 c 0 (some k)) u).offTraffic = u.offTraffic := foldl_same (fun s t => s.enqueue_offTraffic ..) l u
  have counted (u : State) (l : List (Nat × Msg)) : (l.foldl (fun s t => s.countRefused q t.1) u).offTraffic = u.offTraffic :=
    foldl_same (fun s t => s.countRefused_offTraffic ..) l u
  simp only [State.admitMc] at h
  repeat' split at h
  all_goals cases h <;> simp [stored, counted]

@[simp] theorem State.raise_offTraffic (s : State) (e : Event) : (s.raise e).offTraffic = s.offTraffic :=
  State.offTraffic_of_offEvents (s.raise_offEvents e)

/-! ### Offering a packet to its outputs -/

@[simp] theorem State.fenceDrop_offTraffic (s : State) (g : Nat) : (s.fenceDrop g).offTraffic = s.offTraffic := by
  simp only [State.fenceDrop]
  split
  · exact State.updBlk_offTraffic rfl
  · rw [State.raise_offTraffic, State.updBlk_offTraffic rfl, State.updBlk_offTraffic rfl]

@[simp] theorem State.creditBack_offTraffic (s : State) (m : Msg) : (s.creditBack m).offTraffic = s.offTraffic := by
  unfold State.creditBack
  split
  · rfl
  · exact State.updPort_offTraffic rfl

@[simp] theorem State.stamp_offTraffic (s : State) (r : Route) (m : Msg) : (s.stamp r m).2.offTraffic = s.offTraffic := by
  simp only [State.stamp]
  repeat' split
  any_goals rfl
  all_goals exact State.updTrunk_offTraffic rfl

@[simp] theorem State.lose_offTraffic (s : State) (q : Nat) (m : Msg) (r : Route) : (s.lose q m r).offTraffic = s.offTraffic := by
  have dropped (l : List Nat) : (l.foldl (fun s g => s.fenceDrop g) s).offTraffic = s.offTraffic := foldl_same (fun s g => s.fenceDrop_offTraffic g) l s
  simp only [State.lose]
  split
  · split
    · exact (State.updBlk_offTraffic rfl).trans (dropped _)
    · exact dropped _
  · split
    · exact dropped _
    · exact dropped _

theorem State.admitAt_offTraffic {s t : State} {q : Nat} {r : Route} {ns : List Nat} {m : Msg} (h : s.admitAt q r ns m = some t) :
    t.offTraffic = s.offTraffic := by
  have stamped := s.stamp_offTraffic r m
  simp only [State.admitAt] at h
  split at h
  · cases h; rfl
  · split at h
    · exact (State.admitMc_offTraffic h).trans stamped
    · split at h
      next hu => cases h; exact (State.admitUni_offTraffic hu).trans stamped
      next => split at h <;> cases h; rfl
  · exact (State.admitMc_offTraffic h).trans stamped

theorem State.cross_offTraffic {s t : State} {q x : Nat} {even : Bool} {r : Route} {ns : List Nat} {m w : Msg}
    (h : s.cross q x even r ns m w = some t) : t.offTraffic = s.offTraffic := by
  simp only [State.cross] at h
  split at h
  next u hu =>
    have admitted : u.offTraffic = s.offTraffic := State.admitAt_offTraffic (Option.ite_none_right_eq_some.mp hu).2
    cases h
    split <;> simp [admitted]
  next =>
    repeat' split at h
    all_goals cases h <;> rfl

/-- The copies for the other Quarters, taken across one after the other. -/
theorem State.crossAll_offTraffic {q : Nat} {even : Bool} {r : Route} {ns : Nat → List Nat} {m w : Msg} {xs : List Nat} {a : Option State} {t : State}
    (h : xs.foldl (fun (a : Option State) x => match a with | none => none | some s => s.cross q x even r (ns x) m w) a = some t) :
    ∃ s, a = some s ∧ t.offTraffic = s.offTraffic := by
  induction xs generalizing a with
  | nil => exact ⟨t, h, rfl⟩
  | cons x xs ih =>
    obtain ⟨u, hu, ht⟩ := ih h
    cases a with
    | none => cases hu
    | some s => exact ⟨s, rfl, ht.trans (State.cross_offTraffic hu)⟩

theorem State.offer_offTraffic {s t : State} {q : Nat} {even : Bool} {m : Msg} {r : Route} (h : s.offer q even m r = some t) :
    t.offTraffic = s.offTraffic := by
  simp only [State.offer] at h
  split at h
  · cases h
    simp
  · split at h
    · cases h
    next u hu =>
      split at h
      · cases h
      next v hv =>
        obtain ⟨w, hw, hvw⟩ := State.crossAll_offTraffic hv
        cases hw
        have crossed : v.offTraffic = s.offTraffic := hvw.trans ((State.admitAt_offTraffic hu).trans (s.lose_offTraffic q m r))
        cases h
        split <;> simp [crossed]

@[simp] theorem State.offerSome_offTraffic (s : State) (q : Nat) (even : Bool) (m : Msg) (r : Route) :
    (s.offerSome q even m r).1.offTraffic = s.offTraffic := by
  have step (xs : List Nat) (a : State × Msg) : (xs.foldl (fun a x =>
      if a.2.gone.contains x ∨ ¬(r.outs.any (fun o => o.1 = x && s.outOk o && !s.fenced m.pkt.job o)) then a
      else match a.1.offer q even { a.2 with slots := 0 } { r with outs := r.outs.filter (fun o => o.1 = x) } with
        | some t => (t, { a.2 with gone := x :: a.2.gone })
        | none => a) a).1.offTraffic = a.1.offTraffic := by
    induction xs generalizing a with
    | nil => rfl
    | cons x xs ih =>
      rw [List.foldl_cons, ih]
      split
      · rfl
      · split
        next t ht => exact State.offer_offTraffic ht
        next => rfl
  unfold State.offerSome
  split
  · rfl
  · exact step _ _

/-! ### Messages of the Square and of a Block -/

@[simp] theorem State.beginWait_offTraffic (s : State) (m : Msg) (r : Route) : (s.beginWait m r).offTraffic = s.offTraffic := by
  unfold State.beginWait
  split
  · rfl
  · exact foldl_same (fun s o => s.countRefused_offTraffic ..) _ s

@[simp] theorem State.sendSq_offTraffic (s : State) (m : Msg) : (s.sendSq m).offTraffic = s.offTraffic := by
  simp only [State.sendSq]
  split
  · rfl
  · split
    next h => exact State.offer_offTraffic h
    next => exact s.beginWait_offTraffic ..

@[simp] theorem State.sendBlk_offTraffic (s : State) (g : Nat) (m : Msg) : (s.sendBlk g m).offTraffic = s.offTraffic := by
  simp only [State.sendBlk]
  split
  · exact State.updBlk_offTraffic rfl
  · split
    next h => exact State.offer_offTraffic h
    next => exact (State.updBlk_offTraffic rfl).trans (by simp)

/-! ### What this frame says of each table -/

theorem State.still_of_offTraffic {s t : State} (h : t.offTraffic = s.offTraffic) : t.still = s.still := (congrArg (·.1) h :)
theorem State.port_of_offTraffic {s t : State} (h : t.offTraffic = s.offTraffic) (l : Nat) : (t.port l).offOwed = (s.port l).offOwed :=
  (congrArg (·.2.1 l) h :)
theorem State.trunk_of_offTraffic {s t : State} (h : t.offTraffic = s.offTraffic) (k : Nat) : (t.trunk k).offPseq = (s.trunk k).offPseq :=
  (congrArg (·.2.2.1 k) h :)
theorem State.blk_of_offTraffic {s t : State} (h : t.offTraffic = s.offTraffic) (g : Nat) : (t.blk g).offCounts = (s.blk g).offCounts :=
  (congrArg (·.2.2.2 g) h :)

end Sys2Proof.Machine
end

section
/-! PARTSET and SCRUB (R243, R404 to R410). -/

namespace Sys2Proof.Machine

/-! ### Tables -/

/-- Reading a table whose values are all mapped, where the value read does not become the default. -/
theorem tget_tmap {α : Type} [DecidableEq α] {f : Nat → α → α} {d : α} {k : Nat} {t : Tbl α} (hd : f k d = d) (h : f k (tget t k d) ≠ d) :
    tget (tmap t d f) k d = f k (tget t k d) := by
  induction t with
  | nil => exact absurd hd h
  | cons e r ih =>
    by_cases hk : e.1 = k
    · have hv : f e.1 e.2 ≠ d := by simpa [tget, hk] using h
      rw [tmap, List.filterMap_cons, if_neg hv]
      simp [tget, hk]
    · have h' : f k (tget r k d) ≠ d := by simpa [tget, hk] using h
      have ih := ih h'
      by_cases hv : f e.1 e.2 = d
      · simpa [tmap, tget, hk, List.filterMap_cons, hv] using ih
      · simpa [tmap, tget, hk, List.filterMap_cons, hv] using ih

/-! ### Blocks that leave -/

@[simp] theorem State.purgeBlk_offTraffic (s : State) (g : Nat) : (s.purgeBlk g).offTraffic = s.offTraffic := by
  unfold State.purgeBlk
  refine foldl_same (fun s k => ?_) _ s
  dsimp only
  split
  · rfl
  · rw [State.updQueue_offTraffic]
    exact foldl_same (fun s p => by simp) _ s

/-- A Block that has left its partition: to be scrubbed, without entries, records or banks (R407, R412). -/
def Block.Left (b : Block) : Prop := b.state = .scrubbing ∧ b.dir = [] ∧ b.replay = [] ∧ b.bank = []

theorem Block.left_congr {a b : Block} (h : a.offCounts = b.offCounts) : a.Left ↔ b.Left := by
  have hs : a.state = b.state := (congrArg Block.state h :)
  have hd : a.dir = b.dir := (congrArg Block.dir h :)
  have hr : a.replay = b.replay := (congrArg Block.replay h :)
  have hb : a.bank = b.bank := (congrArg Block.bank h :)
  simp only [Block.Left, hs, hd, hr, hb]

theorem Block.left_offPeak {a b : Block} (h : a.offPeak = b.offPeak) : a.Left ↔ b.Left := Block.left_congr (congrArg Block.offCounts h :)

theorem State.left_leaveBlk (s : State) (g k : Nat) : ((s.leaveBlk g).blk k).Left ↔ k = g ∨ (s.blk k).Left := by
  simp only [State.leaveBlk]
  rw [Block.left_congr (State.blk_of_offTraffic (State.purgeBlk_offTraffic ..) k)]
  by_cases h : k = g
  · simp [h, Block.Left, Block.emptied]
  · rw [State.blk_updBlk_other _ _ h]
    simp only [h, false_or]
    rfl

theorem State.left_foldl_leaveBlk (l : List Nat) (s : State) (k : Nat) : ((l.foldl State.leaveBlk s).blk k).Left ↔ k ∈ l ∨ (s.blk k).Left := by
  induction l generalizing s with
  | nil => simp
  | cons g r ih =>
    rw [List.foldl_cons, ih, State.left_leaveBlk, List.mem_cons, or_left_comm, or_assoc]

/-! ### What stands of a partition while Blocks and trays leave it -/

/-- A partition without what the Blocks and trays that leave it take along. -/
def Part.standing (x : Part) : Part := { x with tcache := [], trays := 0, scrubLeft := 0, leaving := 0, resizing := false }

theorem State.purgeBlk_part (s : State) (g p : Nat) : (s.purgeBlk g).part p = s.part p :=
  (congrArg (fun x => State.part x.1 p) (s.purgeBlk_offTraffic g) :)

theorem State.standing_leaveBlk {s : State} {p : Nat} (h : (s.part p).standing ≠ Part.standing {}) (g : Nat) :
    ((s.leaveBlk g).part p).standing = (s.part p).standing := by
  simp only [State.leaveBlk, State.purgeBlk_part, State.part_updBlk]
  let drop (_ : Nat) (x : Part) : Part := { x with tcache := x.tcache.filter (fun e => e.1 / 2 ^ 24 ≠ g) }
  have kept : tget (tmap s.parts {} drop) p {} = drop p (s.part p) :=
    tget_tmap rfl (fun e => h (congrArg Part.standing e :))
  exact (congrArg Part.standing kept :)

theorem Part.state_of_standing {x y : Part} (h : x.standing = y.standing) : x.state = y.state := (congrArg Part.state h :)
theorem Part.pages_of_standing {x y : Part} (h : x.standing = y.standing) : x.pages = y.pages := (congrArg Part.pages h :)
theorem Part.blocks_of_standing {x y : Part} (h : x.standing = y.standing) : x.blocks = y.blocks := (congrArg Part.blocks h :)
theorem Part.staged_of_standing {x y : Part} (h : x.standing = y.standing) : x.staged = y.staged := (congrArg Part.staged h :)
theorem Part.job_of_standing {x y : Part} (h : x.standing = y.standing) : x.job = y.job := (congrArg Part.job h :)
theorem Part.gen_of_standing {x y : Part} (h : x.standing = y.standing) : x.gen = y.gen := (congrArg Part.gen h :)
theorem Part.prev_of_standing {x y : Part} (h : x.standing = y.standing) : x.prev = y.prev := (congrArg Part.prev h :)
theorem Part.map_of_standing {x y : Part} (h : x.standing = y.standing) : x.map = y.map := (congrArg Part.map h :)
theorem Part.pmap_of_standing {x y : Part} (h : x.standing = y.standing) : x.pmap = y.pmap := (congrArg Part.pmap h :)
theorem Part.smap_of_standing {x y : Part} (h : x.standing = y.standing) : x.smap = y.smap := (congrArg Part.smap h :)
theorem Part.drainEnd_of_standing {x y : Part} (h : x.standing = y.standing) : x.drainEnd = y.drainEnd := (congrArg Part.drainEnd h :)

/-- A partition in being is no entry that its table may leave out. -/
theorem Part.standing_ne {x : Part} (h : x.state ≠ .none) : x.standing ≠ Part.standing {} := fun e => h (Part.state_of_standing e)

theorem State.standing_foldl_leaveBlk {p : Nat} (l : List Nat) {s : State} (h : (s.part p).standing ≠ Part.standing {}) :
    ((l.foldl State.leaveBlk s).part p).standing = (s.part p).standing := by
  induction l generalizing s with
  | nil => rfl
  | cons g r ih =>
    have step := State.standing_leaveBlk h g
    exact (ih (step ▸ h)).trans step

/-- Writing only what leaves of a partition keeps what stands of every one. -/
theorem State.standing_updPart {s : State} {k : Nat} {f : Part → Part} (h : (f (s.part k)).standing = (s.part k).standing) (p : Nat) :
    ((s.updPart k f).part p).standing = (s.part p).standing := by
  by_cases hp : p = k
  · simpa [hp] using h
  · rw [State.part_updPart_other _ _ hp]

theorem State.standing_freeTray (s : State) (t p : Nat) : ((s.freeTray t).part p).standing = (s.part p).standing :=
  State.standing_updPart rfl p

theorem State.standing_countScrub (s : State) (k p : Nat) : ((s.countScrub k).part p).standing = (s.part p).standing :=
  State.standing_updPart rfl p

theorem State.standing_resizeStep {s : State} {p : Nat} (h : (s.part p).standing ≠ Part.standing {}) (k : Nat) :
    ((s.resizeStep k).part p).standing = (s.part p).standing := by
  have leave (l : List Nat) (s : State) (h : (s.part p).standing ≠ Part.standing {}) : ((l.foldl (fun s g => if s.mayLeave k g then
      (s.updPart k (fun x => { x with leaving := listMask 64 (setDel (maskList 64 x.leaving) g) })).leaveBlk g else s) s).part p).standing
        = (s.part p).standing := by
    induction l generalizing s with
    | nil => rfl
    | cons g r ih =>
      rw [List.foldl_cons]
      split
      · have upd : ((s.updPart k (fun x => { x with leaving := listMask 64 (setDel (maskList 64 x.leaving) g) })).part p).standing
            = (s.part p).standing := State.standing_updPart rfl p
        have step := (State.standing_leaveBlk (upd ▸ h) g).trans upd
        exact (ih _ (step ▸ h)).trans step
      · exact ih s h
  have past (e : Event) : (((s.updPart k (fun x => { x with resizing := false })).raise e).part p).standing = (s.part p).standing := by
    rw [State.part_raise]
    exact State.standing_updPart rfl p
  simp only [State.resizeStep]
  split
  · split
    · exact past _
    · rfl
  · split
    · exact (leave _ _ (past _ ▸ h)).trans (past _)
    · exact leave _ _ h

/-! ### Release and scrubbing -/

theorem State.left_foldl_freeTray (l : List Nat) (s : State) (k : Nat) :
    ((l.foldl (fun s t => if (s.tray t).touched = 0 then s.freeTray t else s) s).blk k) = s.blk k :=
  foldl_same (g := fun s => s.blk k) (fun s t => by split <;> rfl) l s

theorem State.standing_foldl_freeTray (l : List Nat) (s : State) (p : Nat) :
    ((l.foldl (fun s t => if (s.tray t).touched = 0 then s.freeTray t else s) s).part p).standing = (s.part p).standing := by
  refine foldl_same (g := fun s => (s.part p).standing) (fun s t => ?_) l s
  split
  · exact s.standing_freeTray t p
  · rfl

theorem State.left_partClear (s : State) (p k : Nat) : ((s.partClear p).blk k).Left ↔ (s.blk k).Left := by
  have trays (l : List Nat) (s : State) : (l.foldl (fun s t => s.updTray t (fun y => { y with placed := 0 })) s).blk k = s.blk k :=
    foldl_same (g := fun s => s.blk k) (fun s t => by rfl) l s
  simp only [State.partClear]
  split
  · exact Block.left_offPeak (State.blk_raise ..)
  · split
    · refine (Block.left_offPeak (State.blk_raise ..)).trans ?_
      rw [State.blk_updPart, trays]
      rfl
    · rfl

/-- Where a RELEASING partition is clear it is gone; else it stands as it was. -/
theorem State.partClear_releasing {s : State} {p : Nat} (h : (s.part p).state = .releasing) :
    ((s.partClear p).part p) = (s.part p).counts ∨ ((s.partClear p).part p).standing = (s.part p).standing := by
  have counted := Part.state_of_standing (s.standing_countScrub p p)
  simp only [State.partClear]
  split
  · left
    simp [State.countScrub, Part.counts]
  · rw [if_neg (by simp [counted, h])]
    exact .inr (s.standing_countScrub p p)

/-- Where a SCRUBBING partition is clear it is READY; else it stands as it was. -/
theorem State.partClear_scrubbing {s : State} {p : Nat} (h : (s.part p).state = .scrubbing) :
    (((s.partClear p).part p).state = .scrubbing ∨ ((s.partClear p).part p).state = .ready)
      ∧ ((s.partClear p).part p).pages = (s.part p).pages ∧ ((s.partClear p).part p).blocks = (s.part p).blocks := by
  have counted := s.standing_countScrub p p
  have state := Part.state_of_standing counted
  have trays (l : List Nat) (s : State) : (l.foldl (fun s t => s.updTray t (fun y => { y with placed := 0 })) s).part p = s.part p :=
    foldl_same (g := fun s => s.part p) (fun s t => by rfl) l s
  simp only [State.partClear]
  rw [if_neg (by simp [state, h])]
  split
  · rw [State.part_raise, State.part_updPart, trays]
    exact ⟨.inr rfl, (Part.pages_of_standing counted :), (Part.blocks_of_standing counted :)⟩
  · exact ⟨.inl (state.trans h), Part.pages_of_standing counted, Part.blocks_of_standing counted⟩

theorem State.release_part (s : State) (p : Nat) :
    (((s.release p).part p).state = .releasing ∨ ((s.release p).part p).state = .none) ∧ ((s.release p).part p).blocks = 0
      ∧ ((s.release p).part p).pages = [] := by
  simp only [State.release]
  generalize hu : s.updPart p _ = u
  have begun : u.part p = { s.part p with state := .releasing, blocks := 0, leaving := (s.part p).blocks ||| (s.part p).leaving, staged := none,
                                          resizing := false, pages := [] } := by rw [← hu, State.part_updPart]
  generalize hv : (maskList 16 (s.part p).trays).foldl _ _ = v
  have stands : (v.part p).standing = (u.part p).standing := by
    rw [← hv, State.standing_foldl_freeTray]
    exact State.standing_foldl_leaveBlk _ (Part.standing_ne (by simp [begun]))
  have state := Part.state_of_standing stands
  have blocks : (v.part p).blocks = (u.part p).blocks := Part.blocks_of_standing stands
  have pages : (v.part p).pages = (u.part p).pages := Part.pages_of_standing stands
  rw [begun] at state blocks pages
  rcases v.partClear_releasing (p := p) state with h | h
  · rw [h]
    exact ⟨.inr rfl, rfl, rfl⟩
  · exact ⟨.inl ((Part.state_of_standing h).trans state), (Part.blocks_of_standing h).trans blocks, (Part.pages_of_standing h).trans pages⟩

theorem State.release_blk {s : State} {p g : Nat} (hg : g ∈ maskList 64 (s.part p).blocks) : ((s.release p).blk g).Left := by
  simp only [State.release]
  rw [State.left_partClear, State.left_foldl_freeTray, State.left_foldl_leaveBlk]
  left
  obtain ⟨hlt, hbit⟩ := mem_maskList.mp hg
  exact mem_maskList.mpr ⟨hlt, by rw [BitVec.getLsbD_or, hbit, Bool.true_or]⟩

/-! ### Blocks that join -/

/-- A Block that has joined: MEMBER at a horizon, with nothing of a former partition (R404). -/
def Block.Joined (b : Block) (hz : BitVec 64) : Prop := b.state = .member ∧ b.hz = hz ∧ b.dir = [] ∧ b.replay = [] ∧ b.bank = []

theorem State.joined_foldl_joinBlk {a : Nat} (l : List Nat) (s : State) {k : Nat} (h : k ∈ l ∨ (s.blk k).Joined s.tb.tick) :
    ((l.foldl (fun s g => s.joinBlk a g) s).blk k).Joined s.tb.tick := by
  induction l generalizing s with
  | nil => exact h.resolve_left List.not_mem_nil
  | cons g r ih =>
    refine ih (s.joinBlk a g) ?_
    by_cases hk : k = g
    · right
      simp [hk, State.joinBlk, Block.Joined, Block.emptied]
    · refine h.imp (fun hm => (List.mem_cons.mp hm).resolve_left hk) fun hj => ?_
      rw [State.joinBlk, State.blk_updBlk_other _ _ hk]
      exact hj

theorem State.part_foldl_joinBlk {a : Nat} (l : List Nat) (s : State) (p : Nat) : (l.foldl (fun s g => s.joinBlk a g) s).part p = s.part p :=
  foldl_same (g := fun s => s.part p) (fun s g => by rfl) l s

/-! ### Resizing -/

/-- A page as a resize marks it: to be re-laid where it lies, or is to lie, in a Block's tier (R406). -/
def Page.relaid (g : Page) : Page :=
  { g with relay := (decide (g.state = .placed) && decide (g.tier ≠ 3)) || (decide (g.state = .migrating) && decide (g.dst ≠ 3)) }

/-- What stands of a partition after a resize: its Blocks are the new ones, nothing is staged. -/
theorem State.resize_standing {s : State} {p : Nat} {new : BitVec 64}
    (h : ({ s.part p with blocks := new, staged := none, pages := [] } : Part).standing ≠ Part.standing {}) :
    ((s.resize p new).part p).standing
      = ({ s.part p with blocks := new, staged := none, pages := ((s.resize p new).part p).pages } : Part).standing := by
  have joined := State.part_foldl_joinBlk (a := (s.part p).area.toNat) (maskList 64 (new &&& ~~~(s.part p).blocks)) s p
  have stands : ((s.resize p new).part p).standing
      = ({ s.part p with blocks := new, staged := none, pages := (s.part p).pages.map (fun e => (e.1, e.2.relaid)) } : Part).standing := by
    simp only [State.resize]
    rw [State.standing_resizeStep, State.part_updPart, joined]
    · rfl
    · rw [State.part_updPart, joined]
      exact fun e => h (congrArg (fun x => Part.standing { x with pages := [] }) e :)
  rw [Part.pages_of_standing stands]
  exact stands

/-! ### Masks -/

theorem ofNat_two_pow (n i : Nat) : BitVec.ofNat n (2 ^ i) = BitVec.twoPow n i := by
  apply BitVec.eq_of_toNat_eq
  rw [BitVec.toNat_ofNat, BitVec.toNat_twoPow]

theorem getLsbD_add_twoPow {n i : Nat} {x : BitVec n} (h : x.getLsbD i = false) (j : Nat) :
    (x + BitVec.twoPow n i).getLsbD j = (x.getLsbD j || decide (j < n ∧ j = i)) := by
  have disjoint : x &&& BitVec.twoPow n i = 0#n := by
    refine BitVec.eq_of_getLsbD_eq fun k hk => ?_
    rw [BitVec.getLsbD_and, BitVec.getLsbD_twoPow]
    by_cases hki : k = i
    · simp [hki, h]
    · simp [Ne.symm hki]
  rw [BitVec.add_eq_or_of_and_eq_zero _ _ disjoint, BitVec.getLsbD_or, BitVec.getLsbD_twoPow]
  by_cases hj : j = i
  · simp [hj]
  · simp [hj, Ne.symm hj]

theorem nodup_eraseDups (l : List Nat) : l.eraseDups.Nodup := by
  match l with
  | [] => exact List.nodup_nil
  | a :: r =>
    rw [List.eraseDups_cons, List.nodup_cons]
    exact ⟨by simp [List.mem_eraseDups], nodup_eraseDups _⟩
termination_by l.length
decreasing_by exact Nat.lt_succ_of_le (List.length_filter_le ..)

/-- A mask that is summed up from distinct places has exactly their bits. -/
theorem getLsbD_foldl_two_pow {n : Nat} {l : List Nat} (hl : l.Nodup) (a j : Nat) (ha : ∀ i ∈ l, (BitVec.ofNat n a).getLsbD i = false) :
    (BitVec.ofNat n (l.foldl (fun a i => a + 2 ^ i) a)).getLsbD j = ((BitVec.ofNat n a).getLsbD j || decide (j < n ∧ j ∈ l)) := by
  induction l generalizing a with
  | nil => simp
  | cons i r ih =>
    obtain ⟨hi, hr⟩ := List.nodup_cons.mp hl
    have add (k : Nat) : (BitVec.ofNat n (a + 2 ^ i)).getLsbD k = ((BitVec.ofNat n a).getLsbD k || decide (k < n ∧ k = i)) := by
      rw [BitVec.ofNat_add, ofNat_two_pow, getLsbD_add_twoPow (ha i List.mem_cons_self)]
    rw [List.foldl_cons, ih hr, add, Bool.or_assoc]
    · congr 1
      by_cases hj : j = i
      · simp [hj, hi]
      · simp [hj]
    · intro k hk
      rw [add, ha k (List.mem_cons_of_mem _ hk)]
      have : k ≠ i := fun e => hi (e ▸ hk)
      simp [this]

theorem getLsbD_listMask (n : Nat) (l : List Nat) (j : Nat) : (listMask n l).getLsbD j = decide (j < n ∧ j ∈ l) := by
  rw [listMask, getLsbD_foldl_two_pow (nodup_eraseDups l) 0 j (by simp)]
  simp [List.mem_eraseDups]

/-! ### Checks -/

theorem formed_eq_ok {ok : Bool} {st : Status} (h : formed ok st = stOk) : ok = true ∧ st = stOk := by
  unfold formed at h
  split at h
  next hk => exact ⟨hk, h⟩
  next => exact absurd h (by decide)

/-- Settles O16: what stands of a partition by `Part.standing`, its Blocks by `Block.Left` and `Block.Joined`. -/
theorem partsetCompletes : Obligations.PartsetCompletes := by
  intro s via ci c b p
  refine ⟨fun h hc => ?_, fun h hc => ?_, fun h hc => ?_, fun h hc => ?_, fun h hc => ?_⟩
  · dsimp only [exec, execPartsetCreate]
    have area : CtlInsn.area ci ≤ 8 := by
      simp only [createRow, formed, State.createCheck] at hc
      refine Classical.byContradiction fun hbig => ?_
      simp [Nat.lt_of_not_le hbig] at hc
      split at hc <;> simp_all
    refine ⟨_, runCtl_plain _ h rfl hc, ?_⟩
    refine ⟨by simp [State.create, p], by simp [State.create, p], ?_, by simp [State.create, p, Part.counts], by simp [State.create, p, Part.counts], fun g hg => ?_⟩
    · simp [State.create, p]
      omega
    · have joined := State.joined_foldl_joinBlk (a := CtlInsn.area ci) (maskList 64 (CtlInsn.blocks ci)) (b.dropCtl via) (.inl hg)
      simpa [State.create, Block.Joined] using joined
  · dsimp only [exec, execPartsetResize]
    refine ⟨_, runCtl_plain _ h rfl hc, ?_⟩
    by_cases bound : (b.part p).state = .bound
    · rw [if_pos bound, resizeDo, if_pos (by simpa [p] using bound)]
      simp [State.updPart, State.setPart, p, b]
    · have ready : (b.part p).state = .ready := by
        obtain ⟨-, check⟩ := formed_eq_ok hc
        refine Classical.byContradiction fun hr => ?_
        simp only [State.resizeCheck] at check
        rw [if_pos (.inl fun e => e.elim hr bound)] at check
        exact absurd check (by decide)
      rw [if_neg bound, resizeDo, if_neg (by simpa [p] using bound)]
      have stands := State.resize_standing (s := b.dropCtl via) (p := p) (new := CtlInsn.blocks ci) (Part.standing_ne (by simp [ready]))
      exact ⟨Part.blocks_of_standing stands, Part.staged_of_standing stands, (Part.state_of_standing stands).trans (by simp [ready])⟩
  · dsimp only [exec, execPartsetRelease]
    obtain ⟨state, blocks, pages⟩ := (b.dropCtl via).release_part p
    exact ⟨_, runCtl_plain _ h rfl hc, state, blocks, pages, fun g hg => State.release_blk (by rwa [State.dropCtl_part])⟩
  · dsimp only [exec, execPartsetTray]
    refine ⟨_, runCtl_plain _ h rfl hc, ?_⟩
    by_cases give : ci.f 10 1 = 1
    · have bit : (BitVec.ofNat 16 (2 ^ ci.f 6 4)).getLsbD (ci.f 6 4) = true := by
        rw [ofNat_two_pow, BitVec.getLsbD_twoPow]
        simpa using ctl_f_lt ci 6 4
      simp only [State.trayPut, give, decide_true, if_true]
      refine ⟨by simp, ?_, ?_⟩
      · simp only [State.tray_updPart, State.tray_updTray]
        exact toNat_ofNat_f ci 0 6
      · simp only [p, State.part_updPart]
        rw [BitVec.getLsbD_or, bit, Bool.or_true]
    · have home : ((b.dropCtl via).tray (ci.f 6 4)).part.toNat = p := by
        obtain ⟨-, check⟩ := formed_eq_ok hc
        refine Classical.byContradiction fun hn => ?_
        rw [State.dropCtl_tray] at hn
        simp only [State.trayCheck, give, decide_false, Bool.false_eq_true, if_false] at check
        rw [if_pos fun e => hn e.2.1] at check
        exact absurd check (by decide)
      rw [if_neg give]
      simp only [State.trayPut, give, decide_false, Bool.false_eq_true, if_false, State.freeTray]
      refine ⟨by simp, ?_⟩
      rw [home, State.part_updPart, getLsbD_listMask]
      simp [mem_setDel]
  · dsimp only [exec, execScrub]
    refine ⟨_, runCtl_plain _ h rfl hc, ?_⟩
    obtain ⟨state, pages, blocks⟩ := State.partClear_scrubbing (p := p) (s := (b.dropCtl via).updPart p (fun x =>
      { x with state := .scrubbing, leaving := x.blocks, pages := [] })) (by simp)
    exact ⟨state, pages.trans (by simp), blocks.trans (by simp)⟩

end Sys2Proof.Machine
end

section
/-! MAPSET (R175 to R177, R219, R411, R503). -/

namespace Sys2Proof.Machine

/-! ### Finding in tables -/

theorem tfind_tdel {α : Type} (t : Tbl α) (k d : Nat) : tfind (tdel t k) d = if d = k then none else tfind t d := by
  induction t with
  | nil => simp [tdel, tfind]
  | cons e r ih =>
    simp only [tfind] at ih
    simp only [tdel]
    by_cases hk : e.1 = k
    · rw [if_pos hk, tfind, ih]
      by_cases hd : d = k
      · simp [hd]
      · simp [hd, tfind, hk, Ne.symm hd]
    · rw [if_neg hk, tfind, List.find?_cons]
      by_cases hd : e.1 = d
      · have hdk : d ≠ k := fun e' => hk (hd.trans e')
        simp [hd, hdk, tfind]
      · simpa [hd, tfind, List.find?_cons] using ih

theorem tfind_tins {α : Type} {t : Tbl α} {k : Nat} (h : tfind t k = none) (v : α) (d : Nat) :
    tfind (tins t k v) d = if d = k then some v else tfind t d := by
  induction t with
  | nil =>
    by_cases hd : d = k
    · simp [tins, tfind, hd]
    · simp [tins, tfind, hd, Ne.symm hd]
  | cons e r ih =>
    have hk : e.1 ≠ k := fun e' => by simp [tfind, e'] at h
    have hr : tfind r k = none := by simpa [tfind, List.find?_cons, hk] using h
    simp only [tins]
    split
    · by_cases hd : d = k
      · simp [tfind, hd]
      · simp [tfind, hd, Ne.symm hd]
    · by_cases hd : e.1 = d
      · have hdk : d ≠ k := fun e' => hk (hd.trans e')
        simp [tfind, hd, hdk]
      · simpa [tfind, List.find?_cons, hd] using ih hr

theorem tfind_put {α : Type} (t : Tbl α) (k : Nat) (v : α) (d : Nat) : tfind (tins (tdel t k) k v) d = if d = k then some v else tfind t d := by
  rw [tfind_tins (by simp [tfind_tdel]), tfind_tdel]
  by_cases hd : d = k <;> simp [hd]

/-! ### Routes -/

/-- One entry of a ROUTE done to a table of routes. -/
def routeStep (modf : BitVec 8) (t : Tbl Target) (e : Nat) : Tbl Target :=
  if modf = 1 then tdel t (bits e 0 12) else tins (tdel t (bits e 0 12)) (bits e 0 12) (routeTarget e)

theorem tfind_routeStep (modf : BitVec 8) (t : Tbl Target) (e d : Nat) :
    tfind (routeStep modf t e) d = if bits e 0 12 = d then (if modf = 1 then none else some (routeTarget e)) else tfind t d := by
  unfold routeStep
  split
  · rw [tfind_tdel]
    by_cases hd : bits e 0 12 = d
    · simp [hd]
    · simp [hd, Ne.symm hd]
  · rw [tfind_put]
    by_cases hd : bits e 0 12 = d
    · simp [hd]
    · simp [hd, Ne.symm hd]

/-- The last entry of a list for a destination decides its route. -/
theorem tfind_foldl_routeStep (modf : BitVec 8) (t : Tbl Target) (l : List Nat) (d : Nat) :
    tfind (l.foldl (routeStep modf) t) d = match (l.filter (fun e => bits e 0 12 = d)).getLast? with
      | none => tfind t d
      | some e => if modf = 1 then none else some (routeTarget e) := by
  induction l generalizing t with
  | nil => rfl
  | cons e l ih =>
    rw [List.foldl_cons, ih, tfind_routeStep]
    by_cases hd : bits e 0 12 = d
    · rw [List.filter_cons_of_pos (by simpa using hd), List.getLast?_cons]
      cases (l.filter (fun e => bits e 0 12 = d)).getLast? <;> simp [hd]
    · rw [List.filter_cons_of_neg (by simpa using hd)]
      simp [hd]

/-! ### Placing a page -/

/-- A partition without its pages and what it counts of used frames. -/
def Part.offPlaced (x : Part) : Part := { x with pages := [], usedNear := 0, usedBulk := 0, lastTray := 0 }

/-- A fold over a pair leaves of its first component what each step leaves. -/
theorem foldl_fst_same {α β γ : Type} {g : State → β} {f : State × γ → α → State × γ} (h : ∀ a x, g (f a x).1 = g a.1) (l : List α) (a : State × γ) :
    g (l.foldl f a).1 = g a.1 := by
  induction l generalizing a with
  | nil => rfl
  | cons x r ih => exact (ih _).trans (h a x)

theorem State.offPlaced_updPart {s : State} {k : Nat} {f : Part → Part} (h : (f (s.part k)).offPlaced = (s.part k).offPlaced) (p : Nat) :
    ((s.updPart k f).part p).offPlaced = (s.part p).offPlaced := by
  by_cases hp : p = k
  · simpa [hp] using h
  · rw [State.part_updPart_other _ _ hp]

theorem State.offPlaced_takeFrames (s : State) (p tier n : Nat) (skip : Option Nat) (j : Nat) :
    (((s.takeFrames p tier n skip).1).part j).offPlaced = (s.part j).offPlaced := by
  have pick (t total : Nat) (s : State) : ((((List.range n).foldl (fun (a : State × List Nat) _ =>
      let (f, s) := a.1.pickFrame p t 0 total a.2
      (s, a.2 ++ [f])) (s, [])).1).part j).offPlaced = (s.part j).offPlaced :=
    foldl_fst_same (g := fun s => (s.part j).offPlaced) (fun _ _ => by rfl) _ (s, [])
  unfold State.takeFrames
  split
  · exact (State.offPlaced_updPart rfl j).trans (pick ..)
  · exact (State.offPlaced_updPart rfl j).trans (pick ..)
  · refine foldl_fst_same (g := fun s => (s.part j).offPlaced) (fun a x => ?_) _ (s, [], [])
    dsimp only
    split
    · rfl
    · exact State.offPlaced_updPart rfl j

/-- The page that is placed in a tier. -/
theorem State.placeIn_page (s : State) (p k t : Nat) (big : Bool) :
    let g := tget ((s.placeIn p k t big).part p).pages k {}
    g.state = .placed ∧ g.tier = BitVec.ofNat 2 t := by
  simp [State.placeIn, State.updPage]

theorem State.offPlaced_updPage (s : State) (p k : Nat) (f : Page → Page) (j : Nat) :
    ((s.updPage p k f).part j).offPlaced = (s.part j).offPlaced := State.offPlaced_updPart rfl j

/-- Placing a page leaves all of each partition but its pages and the used frames. -/
theorem State.offPlaced_placeIn (s : State) (p k t : Nat) (big : Bool) (j : Nat) :
    ((s.placeIn p k t big).part j).offPlaced = (s.part j).offPlaced :=
  (State.offPlaced_updPart rfl j).trans (s.offPlaced_takeFrames ..)

/-! ### Binding -/

/-- A partition as BIND makes it, but for its pages and used frames (R503). -/
def Part.boundTo (x : Part) (job : JobId) (dev : Eid) (ptpn : BitVec 24) (tout : BitVec 16) (rto : BitVec 8) (drainw : BitVec 10) (g : Gen) : Part :=
  { x with
    state := .bound, job := job, gen := g, prev := 0, drainEnd := none, moveh := false, oldBlocks := none, killed := false, tout := tout, rto := rto,
    drainw := drainw, ptpn := ptpn, ptdev := dev, ptv := true, map := {}, pmap := {}, smap := {}, tcache := [], devs := [], pteRes := [], rehomed := false }

theorem State.bind_part (s : State) (p : Nat) (job : JobId) (dev : Eid) (ptpn : BitVec 24) (tout : BitVec 16) (rto : BitVec 8) (drainw : BitVec 10) (g : Gen) :
    ((s.bind p job dev ptpn tout rto drainw g).part p).offPlaced = ((s.part p).boundTo job dev ptpn tout rto drainw g).offPlaced := by
  simp only [State.bind]
  split
  · rw [State.offPlaced_updPage, State.offPlaced_placeIn, State.part_updPart]
    rfl
  · rw [State.part_updPart]
    rfl

theorem State.bind_page (s : State) (p : Nat) (job : JobId) {dev : Eid} (ptpn : BitVec 24) (tout : BitVec 16) (rto : BitVec 8) (drainw : BitVec 10) (g : Gen)
    (h : dev = s.selfEid) :
    let x := tget ((s.bind p job dev ptpn tout rto drainw g).part p).pages ptpn.toNat {}
    x.state = .placed ∧ x.tier = 1 ∧ x.pin = true := by
  simp only [State.bind]
  rw [if_pos (by simpa using h)]
  simp only [State.updPage, State.part_updPart, tget_tset_same, and_true]
  exact State.placeIn_page ..

/-! ### Unbinding and committing -/

/-- UNBIND leaves a READY partition without job, map or pages (R411). -/
theorem State.unbind_part (s : State) (p : Nat) :
    ((s.unbind p).part p).state = .ready ∧ ((s.unbind p).part p).job = 0 ∧ ((s.unbind p).part p).map = {} ∧ ((s.unbind p).part p).smap = {}
      ∧ ((s.unbind p).part p).pages = [] := by
  simp only [State.unbind]
  generalize hu : State.updPart _ p _ = u
  have freed : (u.part p).state = .ready ∧ (u.part p).job = 0 ∧ (u.part p).map = {} ∧ (u.part p).smap = {} ∧ (u.part p).pages = [] := by
    rw [← hu, State.part_updPart]
    exact ⟨rfl, rfl, rfl, rfl, rfl⟩
  obtain ⟨state, job, map, smap, pages⟩ := freed
  have stands := State.standing_resizeStep (s := u) (p := p) (Part.standing_ne (by simp [state])) p
  exact ⟨(Part.state_of_standing stands).trans state, (Part.job_of_standing stands).trans job, (Part.map_of_standing stands).trans map,
    (Part.smap_of_standing stands).trans smap, (Part.pages_of_standing stands).trans pages⟩

/-- What COMMIT makes of a partition's generations and maps, whether or not a resize goes with it (R175 to R177). -/
theorem State.commit_part (s : State) (p : Nat) (moveh : Bool) (times : Option (BitVec 16 × BitVec 8 × BitVec 10)) :
    let x := (s.commit p moveh times).part p
    let y := s.part p
    x.gen = y.gen + 1 ∧ x.prev = y.gen ∧ x.map = y.smap ∧ x.pmap = y.map
      ∧ x.drainEnd = some (endOf s.now (times.getD (y.tout, y.rto, y.drainw)).2.2.toNat)
      ∧ ∀ new, y.staged = some new → x.blocks = new ∧ x.staged = none := by
  intro x y
  simp only [x, y, State.commit]
  generalize hu : State.updPart _ p _ = u
  have noted : (u.part p).gen = (s.part p).gen + 1 ∧ (u.part p).prev = (s.part p).gen ∧ (u.part p).map = (s.part p).smap
      ∧ (u.part p).pmap = (s.part p).map
      ∧ (u.part p).drainEnd = some (endOf s.now (times.getD ((s.part p).tout, (s.part p).rto, (s.part p).drainw)).2.2.toNat) := by
    rw [← hu, State.part_updPart]
    exact ⟨rfl, rfl, rfl, rfl, rfl⟩
  obtain ⟨gen, prev, map, pmap, drain⟩ := noted
  cases (s.part p).staged with
  | none => exact ⟨gen, prev, map, pmap, drain, nofun⟩
  | some new =>
    have stands := State.resize_standing (s := u) (p := p) (new := new) (fun e => by
      have none : (u.part p).drainEnd = none := Part.drainEnd_of_standing e
      rw [drain] at none
      cases none)
    have gen' : ((u.resize p new).part p).gen = (u.part p).gen := (Part.gen_of_standing stands :)
    have prev' : ((u.resize p new).part p).prev = (u.part p).prev := (Part.prev_of_standing stands :)
    have map' : ((u.resize p new).part p).map = (u.part p).map := (Part.map_of_standing stands :)
    have pmap' : ((u.resize p new).part p).pmap = (u.part p).pmap := (Part.pmap_of_standing stands :)
    have drain' : ((u.resize p new).part p).drainEnd = (u.part p).drainEnd := (Part.drainEnd_of_standing stands :)
    refine ⟨gen'.trans gen, prev'.trans prev, map'.trans map, pmap'.trans pmap, drain'.trans drain, fun m hm => ?_⟩
    cases hm
    exact ⟨Part.blocks_of_standing stands, Part.staged_of_standing stands⟩

/-- A job that the checks of MAPSET find has a partition. -/
theorem State.mapCheck_job {s : State} {job : JobId} {next : Nat → Status} (h : s.mapCheck job next = stOk) : ∃ p, s.partOfJob job = some p := by
  unfold State.mapCheck at h
  split at h
  · exact absurd h (by decide)
  next p hp => exact ⟨p, hp⟩

@[simp] theorem State.dropCtl_partOfJob (s : State) (via : Via) (j : JobId) : (s.dropCtl via).partOfJob j = s.partOfJob j := by
  simp [State.partOfJob]

theorem State.updPart_parts_congr {s t : State} {p : Nat} {f g : Part → Part} (hs : s.parts = t.parts) (h : f (s.part p) = g (s.part p)) :
    (s.updPart p f).parts = (t.updPart p g).parts := by
  have same : t.part p = s.part p := by simp only [State.part, hs]
  simp only [State.updPart, State.setPart, hs, same, h]

/-- Settles O15: the binding by `State.bind_part`, routes by `tfind_foldl_routeStep`, the staged Blocks by `State.resize_standing`. -/
theorem mapsetCompletes : Obligations.MapsetCompletes := by
  intro s via ci c b a
  refine ⟨fun h hc => ?_, fun h hc => ?_, fun h hc => ?_, fun p h hp hc => ?_, fun p h hp hc => ?_⟩
  · dsimp only [exec, execMapsetBind]
    have stands := State.bind_part (b.dropCtl via) (ci.f 0 6) (BitVec.ofNat 16 (ci.f 6 16)) (BitVec.ofNat 12 (ci.f 22 12)) (BitVec.ofNat 24 (ci.f 34 24))
      (timesOf a).1 (timesOf a).2.1 (timesOf a).2.2 (BitVec.ofNat 16 (sbits a 48 16))
    refine ⟨_, runCtl_ok h rfl (looks_eq hc) rfl, (congrArg Part.state stands :), (congrArg Part.job stands :), (congrArg Part.gen stands :),
      (congrArg Part.ptdev stands :), (congrArg Part.ptpn stands :), ?_, ?_, ?_, (congrArg Part.map stands :), (congrArg Part.smap stands :),
      (congrArg Part.killed stands :), fun self => ?_⟩
    · exact (congrArg (fun x => x.tout.toNat) stands :).trans (toNat_ofNat_sbits ..)
    · exact (congrArg (fun x => x.rto.toNat) stands :).trans (toNat_ofNat_sbits ..)
    · exact (congrArg (fun x => x.drainw.toNat) stands :).trans (toNat_ofNat_sbits ..)
    · have dev : BitVec.ofNat 12 (ci.f 22 12) = (b.dropCtl via).selfEid := by simp [self]
      have page := State.bind_page (b.dropCtl via) (ci.f 0 6) (BitVec.ofNat 16 (ci.f 6 16)) (BitVec.ofNat 24 (ci.f 34 24)) (timesOf a).1 (timesOf a).2.1
        (timesOf a).2.2 (BitVec.ofNat 16 (sbits a 48 16)) dev
      rwa [toNat_ofNat_f] at page
  · obtain ⟨p, hp⟩ : ∃ p, b.partOfJob ci.job = some p := by
      simp only [routeCheck] at hc
      split at hc
      · exact absurd hc (by decide)
      · exact State.mapCheck_job hc
    have done : routeDo ci (b.dropCtl via) = (b.dropCtl via).updPart p (fun x =>
        { x with smap := { x.smap with ents := (CtlInsn.routes ci).foldl (routeStep ci.modf) x.smap.ents } }) := by
      simp only [routeDo, State.dropCtl_partOfJob, hp]
      rfl
    dsimp only [exec, execMapsetRoute]
    refine ⟨_, runCtl_plain _ h rfl hc, p, hp, ?_, fun d => ?_⟩
    · rw [done]
      exact State.updPart_parts_congr (State.dropCtl_parts ..) (by simp)
    · rw [done, State.part_updPart]
      exact (tfind_foldl_routeStep ..).trans (by rw [State.dropCtl_part] <;> rfl)
  · obtain ⟨p, hp⟩ : ∃ p, b.partOfJob ci.job = some p := by
      simp only [groupCheck] at hc
      split at hc
      · exact absurd hc (by decide)
      · exact State.mapCheck_job hc
    have done : groupDo ci (b.dropCtl via) = (b.dropCtl via).updPart p (fun x => { x with smap := { x.smap with
        groups := tins (tdel x.smap.groups (ci.f 16 12)) (ci.f 16 12) (BitVec.ofNat 64 (sbits a 0 64), lanesOf (ci.args.drop 1)) } }) := by
      simp only [groupDo, State.dropCtl_partOfJob, hp]
      rfl
    dsimp only [exec, execMapsetGroup]
    refine ⟨_, runCtl_plain _ h rfl hc, p, hp, ?_, fun d => ?_⟩
    · rw [done]
      exact State.updPart_parts_congr (State.dropCtl_parts ..) (by simp)
    · rw [done, State.part_updPart]
      exact (tfind_put ..).trans (by rw [State.dropCtl_part])
  · dsimp only [exec, execMapsetCommit]
    obtain ⟨gen, prev, map, pmap, drain, staged⟩ := (b.dropCtl via).commit_part p (ci.modf = 1) (if ci.args = [] then none else some (timesOf a))
    have done : commitDo ci (b.dropCtl via) c = ((b.dropCtl via).commit p (ci.modf = 1) (if ci.args = [] then none else some (timesOf a)),
        some ((b.part p).gen + 1).toNat) := by
      simp only [commitDo, State.dropCtl_partOfJob, hp]
      rw [State.dropCtl_part] at gen
      rw [← gen]
    simp only [State.dropCtl_part, State.dropCtl_now] at gen prev map pmap drain staged
    refine ⟨_, runCtl_ok h rfl (looks_eq hc) done, gen, prev, map, pmap, drain.trans ?_, staged⟩
    by_cases hargs : ci.args = []
    · simp [hargs]
    · simp [-BitVec.toNat_ofNat, hargs, timesOf]
  · dsimp only [exec, execMapsetUnbind]
    refine ⟨_, runCtl_plain _ h rfl hc, ?_⟩
    have done : unbindDo ci (b.dropCtl via) = (b.dropCtl via).unbind p := by simp only [unbindDo, State.dropCtl_partOfJob, hp]
    rw [done]
    exact State.unbind_part ..

end Sys2Proof.Machine
end

section
/-! Pages that change their tier, and what the scrubber clears (R224 to R234, R407, R410). -/

namespace Sys2Proof.Machine

/-! ### Frames taken in a tier of Blocks -/

/-- Frames picked one after the other: as many as asked for, and nothing but free values is used up. -/
theorem State.pickFrames (p t total n : Nat) (s : State) (l : List Nat) :
    ∃ k fs, (List.range n).foldl (fun (a : State × List Nat) _ =>
      let (f, s) := a.1.pickFrame p t 0 total a.2
      (s, a.2 ++ [f])) (s, l) = ({ s with freeCtr := k }, l ++ fs) ∧ fs.length = n := by
  induction n with
  | zero => exact ⟨s.freeCtr, [], by simp, rfl⟩
  | succ n ih =>
    obtain ⟨k, fs, hfold, hlen⟩ := ih
    rw [List.range_succ, List.foldl_append, hfold]
    exact ⟨k + 1, fs ++ [_], by simp [State.pickFrame, State.free, List.append_assoc]; rfl, by simp [hlen]⟩

/-- A page that starts its move to a tier of Blocks takes its frames there (R230). -/
theorem State.startMove_blocks {s u : State} {p k d : Nat} (hd : d = 1 ∨ d = 2) (h : s.startMove p k d = some u) :
    let g := tget (s.part p).pages k {}
    g.frames ≤ s.freeFrames p d ∧ ∃ c fs, fs.length = g.frames ∧
      u = ((({ s with freeCtr := c } : State).updPart p (fun x => if d = 1 then { x with usedNear := x.usedNear + g.frames } else { x with usedBulk := x.usedBulk + g.frames })).updPage p k
        (fun g => { g with state := .migrating, dst := BitVec.ofNat 2 d, dstTrays := [], dstFrms := fs, dstLay := (s.part p).blocks, chunk := 0 })) := by
  intro g
  simp only [State.startMove] at h
  split at h
  · cases h
  next hroom =>
    refine ⟨Nat.le_of_not_lt (not_or.mp hroom).1, ?_⟩
    rcases hd with rfl | rfl
    · obtain ⟨c, fs, hfold, hlen⟩ := State.pickFrames p 1 (nearFrames (popcount (s.part p).blocks)) g.frames s []
      refine ⟨c, fs, hlen, ?_⟩
      simp only [State.takeFrames, g] at h hfold
      rw [hfold] at h
      exact (Option.some.inj h).symm
    · obtain ⟨c, fs, hfold, hlen⟩ := State.pickFrames p 2 (bulkFrames (popcount (s.part p).blocks)) g.frames s []
      refine ⟨c, fs, hlen, ?_⟩
      simp only [State.takeFrames, g] at h hfold
      rw [hfold] at h
      exact (Option.some.inj h).symm

/-! ### Pages -/

@[simp] theorem State.page_updPage (s : State) (p k : Nat) (f : Page → Page) :
    tget ((s.updPage p k f).part p).pages k {} = f (tget (s.part p).pages k {}) := by simp [State.updPage]

theorem State.page_updPage_other (s : State) (p : Nat) {k j : Nat} (f : Page → Page) (h : j ≠ k) :
    tget ((s.updPage p k f).part p).pages j {} = tget (s.part p).pages j {} := by simp [State.updPage, tget_tset_other _ _ _ h]

theorem State.updPage_eq (s : State) (p k : Nat) (f : Page → Page) : s.updPage p k f = { s with parts := (s.updPage p k f).parts } := rfl

/-- Settles O45, one clause after the other: `State.startMove_blocks` says what a started move holds. -/
theorem pagesChangeTier : Obligations.PagesChangeTier := by
  refine ⟨⟨?_, ?_, ?_⟩, ?_⟩
  · intro s p near x tier hbound hstill hbusy hres k g d hev hd u hu
    have step : s.evictPage p.toNat tier = (u.updPage p.toNat k (fun g => { g with evict := true })).updPart p.toNat (fun x => { x with evictN := satAdd x.evictN 1 }) := by
      have places : (if tier = 1 then [2, 3] else [3]) = (if near then [2, 3] else [3]) := by cases near <;> rfl
      simp only [State.evictPage, places]
      have due : ¬((s.part p.toNat).state ≠ .bound ∨ (s.part p.toNat).resizing = true
          ∨ (s.part p.toNat).pages.any (fun e => e.2.state = .migrating && e.2.evict && e.2.tier.toNat = tier) = true
          ∨ ¬(s.part p.toNat).belowReserve tier = true) := by
        rintro (h | h | h | h)
        · exact h hbound
        · exact absurd (hstill.symm.trans h) Bool.false_ne_true
        · exact absurd (hbusy.symm.trans h) Bool.false_ne_true
        · exact h hres
      rw [if_neg due]
      simp only [x] at hev
      simp only [hev, hd, hu]
    refine ⟨_, congrArg Host.Outcome.next step, by simp [State.updPage], fun j => ?_, rfl⟩
    by_cases hj : j = k
    · simp [State.updPage, hj]
    · simp [State.updPage, hj, tget_tset_other _ _ _ hj]
  · intro s p n x g hbound hstill hplaced hpin hhint hdue htier hev u hu
    have step : s.promote p.toNat n.toNat = u := by
      simp only [State.promote]
      rw [if_neg (by simp_all [x, g])]
      simp only [x, g] at hu
      rw [hu, Option.getD_some]
    exact congrArg Host.Outcome.next step
  · intro s u p k d hd hu g h
    obtain ⟨room, c, fs, hlen, rfl⟩ := State.startMove_blocks hd hu
    refine ⟨room, ?_, ?_, ?_, ?_, ?_, ?_, rfl, ?_⟩
    · simp [h]
    · rcases hd with rfl | rfl <;> simp [h]
    · rcases hd with rfl | rfl <;> simp [h, g] <;> rfl
    · simp [h]
    · simp only [h, State.page_updPage]
      exact hlen
    · rcases hd with rfl | rfl <;> simp [h, g] <;> rfl
    · rcases hd with rfl | rfl <;> simp [State.updPage] <;> rfl
  · intro s p hst hage hdone
    refine ⟨_, by simp only [exec, execAccAging]; rw [if_neg (by simp [hst, hage, hdone])], ?_, ?_, ?_, rfl⟩
    · simp
    · simp
    · simp only [exec, execAccAging]
      rw [if_pos (by simp)]

/-! ### Chunks (R230 to R234) -/

@[simp] theorem State.chunkUe_zero (s : State) (p k : Nat) (g : Page) : s.chunkUe p k g 0#32 = s := by
  have none' : maskList 32 0#32 = [] := by decide
  rw [State.chunkUe, none', List.foldl_nil]

/-- A chunk of a page that moves, and is not being released, where both tiers have room in their shares. -/
theorem State.copyChunk_migrating {s : State} {p n : Nat} (hb : (s.part p).state = .bound) (hg : ((s.part p).page n).state = .migrating)
    (hr : tfind (s.part p).recalling ((s.part p).pageKey n) = none) (hfrom : (s.part p).migRoom ((s.part p).page n).tier.toNat = true)
    (hto : (s.part p).migRoom ((s.part p).page n).dst.toNat = true) :
    s.copyChunk p n 0 =
      let g := (s.part p).page n
      let k := (s.part p).pageKey n
      let u := s.updPart p (fun x => (x.migCharge g.tier.toNat).migCharge g.dst.toNat)
      if g.chunk + 1 < g.chunks then u.updPage p k (fun g => { g with chunk := g.chunk + 1 }) else u.finishMove p k := by
  simp [State.copyChunk, hb, hg, hr, hfrom, hto]

theorem State.page_migCharge (s : State) (p a b k : Nat) :
    tget ((s.updPart p (fun x => (x.migCharge a).migCharge b)).part p).pages k {} = tget (s.part p).pages k {} := by
  simp [Part.migCharge]

theorem State.migrated_eq (s : State) (p k : Nat) (d : BitVec 2) :
    s.migrated p k d.toNat = (s.updPart p (fun x => { x with migDone := satAdd x.migDone 1 })).raise
      (({ code := 0x2A, unit := uSquare, d0 := BitVec.ofNat 64 k, d1 := d.setWidth 64 } : Event).inPart p
        ((s.updPart p (fun x => { x with migDone := satAdd x.migDone 1 })).part p)) := by
  simp only [State.migrated, BitVec.ofNat_toNat]

/-- Settles O44: the chunks by `State.copyChunk_migrating`, the end of a move by `State.finishMove` itself. -/
theorem chunksAreCopied : Obligations.ChunksAreCopied := by
  refine ⟨?_, ?_, ?_⟩
  · intro s p n x k g hb hg hr
    refine ⟨fun hfrom hto hlast => ?_, fun hfrom hto hlast => ?_, fun ue hroom => ?_⟩
    · refine ⟨_, congrArg Host.Outcome.next ((State.copyChunk_migrating hb hg hr hfrom hto).trans (if_pos hlast)), ?_, rfl, rfl, rfl⟩
      rw [State.page_updPage, State.page_migCharge]
      rfl
    · exact ⟨_, congrArg Host.Outcome.next ((State.copyChunk_migrating hb hg hr hfrom hto).trans (if_neg (Nat.not_lt.mpr hlast))),
        State.page_migCharge .., rfl⟩
    · refine congrArg Host.Outcome.next ?_
      simp only [x, g] at hroom hg
      rcases hroom with h | h <;> simp [State.copyChunk, h, hg]
  · intro s p n ue h
    refine congrArg Host.Outcome.next ?_
    simp [State.copyChunk, h]
  · intro s p k g hg ht
    have dirty : s.dirtyFrames p g.tier.toNat g.frames g.trays g.frms
        = s.updPart p (fun x => { x with dirty := tset x.dirty g.tier.toNat (tget x.dirty g.tier.toNat 0 + g.frames) 0,
                                         dirtyFrms := tset x.dirtyFrms g.tier.toNat (tget x.dirtyFrms g.tier.toNat [] ++ g.frms) [] }) := by
      rcases ht with h | h <;> simp [State.dirtyFrames, h]
    simp only [State.finishMove, State.migrated_eq]
    simp only [g] at dirty
    rw [dirty]
    generalize hv : State.updPart s p _ = v
    have mem : v.mem = s.mem := by rw [← hv, State.updPart_mem]
    have pages : (v.part p).pages = (s.part p).pages := by rw [← hv, State.part_updPart]
    have migDone : (v.part p).migDone = (s.part p).migDone := by rw [← hv, State.part_updPart]
    have count : tget (v.part p).dirty g.tier.toNat 0 = tget (s.part p).dirty g.tier.toNat 0 + g.frames := by
      rw [← hv, State.part_updPart, tget_tset_same]
    refine ⟨_, rfl, ?_⟩
    simp only [State.part_updPart, State.page_updPage, pages, State.updPage, tget_tset_same, count, migDone, State.updPart_mem, mem, and_true, true_and]
    simp [g]

/-! ### Scrubbing (R407, R410) -/

/-- A frame of a tier of Blocks that has been zeroed is free again. -/
def Part.freed (x : Part) (tier : Nat) : Part :=
  { x with
    dirty := tset x.dirty tier (tget x.dirty tier 0 - 1) 0
    dirtyFrms := tset x.dirtyFrms tier ((tget x.dirtyFrms tier []).drop 1) []
    usedNear := if tier = 1 then x.usedNear - 1 else x.usedNear
    usedBulk := if tier = 2 then x.usedBulk - 1 else x.usedBulk }

theorem State.frameScrubbed_blocks {s : State} {p tier : Nat} (ht : tier = 1 ∨ tier = 2) (hd : 0 < tget (s.part p).dirty tier 0) :
    s.frameScrubbed p tier = (s.updPart p (fun x => x.freed tier)).evacNext p := by
  have dirty : tget (s.part p).dirty tier 0 ≠ 0 := by omega
  rcases ht with rfl | rfl <;> simp [State.frameScrubbed, dirty, Part.freed]

/-- Taking a Block off a mask of leaving Blocks clears its bit alone. -/
theorem getLsbD_setDel {n : Nat} (m : BitVec n) (g k : Nat) :
    (listMask n (setDel (maskList n m) g)).getLsbD k = (m.getLsbD k && decide (k ≠ g)) := by
  rw [getLsbD_listMask]
  by_cases hk : k < n
  · by_cases hg : k = g <;> simp [mem_setDel, mem_maskList, hk, hg]
  · simp [hk, BitVec.getLsbD_of_ge _ _ (Nat.le_of_not_lt hk)]

/-- Settles O46, command by command. -/
theorem scrubbingCompletes : Obligations.ScrubbingCompletes := by
  refine ⟨?_, ?_, ?_, ?_, ?_⟩
  · intro s g p ks hw hp hl
    refine ⟨s.updBlk g.toNat (fun b => { b with walks := b.walks.erase (.recalling ks false false) }), congrArg Host.Outcome.next ?_, ?_, rfl⟩
    · simp [State.walkStep, hw, hp, hl, Walk.pages]
    · simp [hw]
  · intro s p near tier x hd
    have range : tier = 1 ∨ tier = 2 := by cases near <;> simp [tier]
    have code : (if near then 1 else 2 : BitVec 2).toNat = tier := by cases near <;> rfl
    refine ⟨s.updPart p.toNat (fun x => x.freed tier), ?_, by simp [Part.freed, x], ?_, rfl⟩
    · simp only [exec, execFrameScrubbed, code]
      rw [State.frameScrubbed_blocks range hd]
    · cases near <;> simp [Part.freed, tier, x]
  · intro s g hheld
    have run : exec (.blockScrubDone g) s = .next (s.scrubDone g.toNat) := by simp [exec, execBlockScrubDone, hheld]
    refine ⟨fun hnone hst htr => ?_, fun p x hfind hx => ?_⟩
    · refine ⟨s.updBlk g.toNat (fun b => { b with state := .free }), run.trans (congrArg Host.Outcome.next ?_), by simp, rfl⟩
      have absent := List.find?_eq_none.mpr (List.any_eq_false.mp hnone)
      simp only [State.scrubDone, absent]
      rw [if_pos ⟨hst, htr⟩]
    · refine ⟨_, run.trans (congrArg Host.Outcome.next (by simp only [State.scrubDone, hfind]; rfl)), ?_, fun k hk hkg => ?_, ?_, ?_⟩
      · split <;> simp [getLsbD_setDel]
      · split <;> simp [getLsbD_setDel, hkg, hx]
      · split <;> simp
      · split <;> rfl
  · intro s t y p hy ht
    refine ⟨fun hrel => ?_, fun hscr => ?_⟩
    · simp only [exec, execTrayScrubDone]
      rw [if_neg (by simp [y, p] at *; simp [hy, ht]), if_pos hrel]
    · refine ⟨s.updTray t.toNat (fun y => { y with touched := 0, placed := 0 }), ?_, by simp, by simp, by simpa using hy, rfl⟩
      simp only [exec, execTrayScrubDone]
      rw [if_neg (by simp [y, p] at *; simp [hy, ht]), if_neg (by simp [y, p] at *; simp [hscr]), if_pos hscr]
  · intro s p hst hg ht
    refine ⟨(s.countScrub p).setPart p ((s.countScrub p).part p).counts, ?_, by simp [Part.counts], by simp [Part.counts], by simp [Part.counts], by simp [Part.counts]⟩
    have counted := s.standing_countScrub p p
    have done : ((maskList 64 ((s.countScrub p).part p).leaving).all (fun g => (s.countScrub p).heldOut g)
        && (maskList 16 ((s.countScrub p).part p).trays).all (fun t => ((s.countScrub p).tray t).touched = 0)) = true := by
      simp only [Bool.and_eq_true, List.all_eq_true, State.countScrub, State.part_updPart, State.tray_updPart]
      exact ⟨hg, fun t h => decide_eq_true (ht t h)⟩
    simp only [State.partClear]
    rw [if_pos ⟨done, (Part.state_of_standing counted).trans hst⟩]

end Sys2Proof.Machine
end

section
/-! Drain windows that end and directory entries that arrive at their new home (R177, R210). -/

namespace Sys2Proof.Machine

/-! ### What a translation leaves of memory and of a window that has ended -/

/-- A partition with no drain window and no Blocks of before. -/
def Part.Drained (x : Part) : Prop := x.drainEnd = none ∧ x.oldBlocks = none

/-- Every entry of the table that bears the partition's number is without a drain window. -/
def State.Drained (s : State) (p : Nat) : Prop := ∀ e ∈ s.parts, e.1 = p → e.2.Drained

theorem State.Drained.part {s : State} {p : Nat} (h : s.Drained p) : (s.part p).Drained := by
  have read (t : Tbl Part) (ht : ∀ e ∈ t, e.1 = p → e.2.Drained) : (tget t p {}).Drained := by
    induction t with
    | nil => exact ⟨rfl, rfl⟩
    | cons e r ih =>
      simp only [tget]
      split
      next hk => exact ht e List.mem_cons_self hk
      next => exact ih fun e he => ht e (List.mem_cons_of_mem _ he)
  exact read s.parts h

theorem mem_tset {α : Type} [DecidableEq α] {t : Tbl α} {k : Nat} {v d : α} {e : Nat × α} (h : e ∈ tset t k v d) : e = (k, v) ∨ e ∈ t ∧ e.1 ≠ k := by
  unfold tset at h
  split at h
  · exact .inr (tdel_mem t k e h)
  · exact (tins_mem _ k v e h).imp_right (tdel_mem t k e)

/-- A step that leaves memory as it was, and a partition without a drain window so. -/
def Keeps (p : Nat) (s t : State) : Prop := t.mem = s.mem ∧ (s.Drained p → t.Drained p)

theorem Keeps.trans {p : Nat} {s t u : State} (h : Keeps p s t) (g : Keeps p t u) : Keeps p s u := ⟨g.1.trans h.1, fun d => g.2 (h.2 d)⟩

theorem Keeps.refl (p : Nat) (s : State) : Keeps p s s := ⟨rfl, id⟩

theorem Keeps.of_eq {p : Nat} {s t : State} (hm : t.mem = s.mem) (hp : t.parts = s.parts) : Keeps p s t :=
  ⟨hm, fun d => by simpa only [State.Drained, hp] using d⟩

theorem Keeps.of_still {p : Nat} {s t : State} (h : t.still = s.still) : Keeps p s t :=
  .of_eq (congrArg State.mem h :) (congrArg State.parts h :)

theorem Keeps.updPart {p : Nat} (s : State) (k : Nat) {f : Part → Part} (h : ∀ x, x.Drained → (f x).Drained) : Keeps p s (s.updPart k f) := by
  refine ⟨rfl, fun d e he hp => ?_⟩
  rcases mem_tset he with rfl | ⟨he, -⟩
  · obtain rfl : k = p := hp
    exact h _ d.part
  · exact d e he hp

theorem Keeps.foldl {α : Type} {p : Nat} {f : State → α → State} (h : ∀ s x, Keeps p s (f s x)) (l : List α) (s : State) : Keeps p s (l.foldl f s) := by
  induction l generalizing s with
  | nil => exact .refl p s
  | cons x r ih => exact (h s x).trans (ih _)

theorem Keeps.raise (p : Nat) (s : State) (e : Event) : Keeps p s (s.raise e) := .of_eq (s.raise_mem e) (s.raise_parts e)
theorem Keeps.sendBlk (p : Nat) (s : State) (g : Nat) (m : Msg) : Keeps p s (s.sendBlk g m) := .of_still (s.sendBlk_still g m)
theorem Keeps.updBlk (p : Nat) (s : State) (g : Nat) (f : Block → Block) : Keeps p s (s.updBlk g f) := .of_eq rfl rfl
theorem Keeps.tagSet (p : Nat) (s : State) (tag : Tag) (e : Eid) (h : Holder) : Keeps p s (s.tagSet tag e h) := .of_eq rfl rfl
theorem Keeps.purgeBlk (p : Nat) (s : State) (g : Nat) : Keeps p s (s.purgeBlk g) := .of_still (congrArg (·.1) (s.purgeBlk_offTraffic g) :)

theorem Keeps.pteInvalid (p : Nat) (s : State) (job : JobId) (n : Nat) : Keeps p s (s.pteInvalid job n) := by
  simp only [State.pteInvalid]
  split
  · exact .refl p s
  · refine .trans ?_ (.raise ..)
    exact .of_eq rfl rfl

theorem Keeps.tookDev (p : Nat) (s : State) (k n : Nat) (dev : Eid) : Keeps p s (s.tookDev k n dev) := by
  unfold State.tookDev
  extract_lets x i old u
  have noted : Keeps p s u := .updPart s k fun x d => d
  split
  · exact noted.trans (.foldl (fun s g => .updBlk ..) _ _)
  · split
    · exact noted.trans (.foldl (fun s g => .updBlk ..) _ _)
    · exact noted

theorem Keeps.pteTake (p : Nat) (s : State) (q k : Nat) (e : Pte) (st : Status) : Keeps p s (s.pteTake q k e st) := by
  unfold State.pteTake
  extract_lets n u v
  have checked : Keeps p s u := by
    simp only [u]
    split
    · exact .pteInvalid ..
    · exact .refl ..
  have noted : Keeps p u v := by
    simp only [v]
    split
    · exact .tookDev ..
    · exact .refl ..
  exact checked.trans (noted.trans (.updPart v q fun x d => by dsimp only; split <;> exact d))

theorem Keeps.touchPage (p : Nat) (s : State) (q page n : Nat) : Keeps p s (s.touchPage q page n) := by
  simp only [State.touchPage]
  split
  · exact .updPart s q fun x d => d
  · exact .refl p s

theorem Keeps.timedOut (p : Nat) (s : State) (g q : Nat) (k : Pkt) (c : Option Nat) : Keeps p s (s.timedOut g q k c) := by
  simp only [State.timedOut]
  split
  · exact .updBlk ..
  · refine .trans ?_ (.raise ..)
    refine .trans ?_ (.updPart _ q fun x d => d)
    exact .updBlk ..

theorem State.tagTake_still {s t : State} {g : Nat} {deid : Eid} {h : Holder} {atom : Bool} {tag : Tag} (ht : s.tagTake g deid h atom = some (tag, t)) :
    t.still = s.still := by
  unfold State.tagTake at ht
  extract_lets q at ht
  split at ht
  · cases ht
  · rw [Option.some.injEq, Prod.mk.injEq] at ht
    rw [← ht.2, State.updQtr_still]

theorem Keeps.pteSend (p : Nat) (s : State) (q n : Nat) : Keeps p s (s.pteSend q n) := by
  simp only [State.pteSend]
  split
  · split
    · exact .refl p s
    · split
      next h => exact (Keeps.of_still (State.offer_still h)).trans (.updPart _ q fun x d => d)
      next => exact .refl p s
  · split
    · exact .refl p s
    next h =>
      refine .trans ?_ (.sendBlk ..)
      refine .trans ?_ (.updPart _ q fun x d => d)
      exact .of_still (State.tagTake_still h)

theorem Keeps.pteRead (p : Nat) (s : State) (q n : Nat) : Keeps p s (s.pteRead q n) := by
  simp only [State.pteRead]
  split
  · exact (Keeps.touchPage ..).trans (.pteTake ..)
  · split
    · exact .pteSend ..
    · split
      · exact .refl p s
      · split
        · refine .trans ?_ (.pteTake ..)
          refine .trans ?_ (.tagSet ..)
          exact .timedOut ..
        · split
          · refine .trans ?_ (.sendBlk ..)
            exact .updPart s q fun x d => d
          · exact .refl p s

theorem Keeps.translate (p : Nat) (s : State) (q u n : Nat) : Keeps p s (s.translate q u n).1 := by
  simp only [State.translate]
  split
  · split
    · exact (Keeps.pteRead ..).trans (.pteRead ..)
    · exact .pteRead ..
  · exact .refl p s

theorem Keeps.leaveBlk (p : Nat) (s : State) (g : Nat) : Keeps p s (s.leaveBlk g) := by
  have dropped : Keeps p s { s with parts := tmap s.parts {} (fun _ x => { x with tcache := x.tcache.filter (fun e => e.1 / 2 ^ 24 ≠ g) }) } := by
    refine ⟨rfl, fun d e he hp => ?_⟩
    obtain ⟨a, ha, hae⟩ := List.mem_filterMap.mp he
    split at hae
    · cases hae
    · cases hae
      exact d a ha hp
  refine .trans ?_ (.purgeBlk ..)
  refine .trans ?_ (.updBlk ..)
  exact dropped

theorem Keeps.resizeStep (p : Nat) (s : State) (q : Nat) : Keeps p s (s.resizeStep q) := by
  have leave (l : List Nat) (s : State) : Keeps p s (l.foldl (fun s g => if s.mayLeave q g then
      (s.updPart q (fun x => { x with leaving := listMask 64 (setDel (maskList 64 x.leaving) g) })).leaveBlk g else s) s) := by
    refine .foldl (fun s g => ?_) l s
    split
    · refine .trans ?_ (.leaveBlk ..)
      exact .updPart s q fun x d => d
    · exact .refl p s
  have past (e : Event) : Keeps p s ((s.updPart q (fun x => { x with resizing := false })).raise e) := by
    refine .trans ?_ (.raise ..)
    exact .updPart s q fun x d => d
  simp only [State.resizeStep]
  split
  · split
    · exact past _
    · exact .refl p s
  · split
    · exact (past _).trans (leave _ _)
    · exact leave _ _

theorem Keeps.moveReplay (p : Nat) (s : State) (g h : Nat) (r : Replay) : Keeps p s (s.moveReplay g h r) := by
  simp only [State.moveReplay]
  split <;> exact .of_eq rfl rfl

/-! ### The directory entry that moves -/

@[simp] theorem State.ent_setEnt (s : State) (g l : Nat) (e : DirEnt) : (s.setEnt g l e).ent g l = e.tidy := by simp [State.setEnt, State.ent]

theorem State.ent_setEnt_other (s : State) {g h : Nat} (l k : Nat) (e : DirEnt) (hne : h ≠ g) : (s.setEnt g l e).ent h k = s.ent h k := by
  simp [State.setEnt, State.ent, State.blk_updBlk_other _ _ hne]

@[simp] theorem DirEnt.tidy_mode (e : DirEnt) : e.tidy.mode = e.mode := by
  unfold DirEnt.tidy
  split
  next h => exact h.1.symm
  next => rfl

@[simp] theorem State.ent_setMode_mode (s : State) (g l : Nat) (m : DirMode) : ((s.setMode g l m).ent g l).mode = m := by
  simp only [State.setMode]
  split <;> simp

theorem State.ent_setMode_other (s : State) {g h : Nat} (l k : Nat) (m : DirMode) (hne : h ≠ g) : (s.setMode g l m).ent h k = s.ent h k := by
  simp only [State.setMode]
  split
  · rw [State.ent_setEnt_other _ _ _ _ hne]
    simp [State.ent, State.blk_updBlk_other _ _ hne]
  · exact State.ent_setEnt_other _ _ _ _ hne

theorem State.setMode_eq (s : State) (g l : Nat) (m : DirMode) : s.setMode g l m = { s with blks := (s.setMode g l m).blks } := by
  simp only [State.setMode]
  split <;> rfl

/-! ### The end of a drain window -/

/-- A window that ends without a move of homes. -/
theorem State.drainEnd_still {s : State} {p e : Nat} (hd : (s.part p).drainEnd = some e) (he : e ≤ s.now) (hm : (s.part p).moveh = false) :
    s.drainEnd p = (s.updPart p (fun x => { x with drainEnd := none, moveh := false, pmap := {}, oldBlocks := none })).resizeStep p := by
  simp [State.drainEnd, hd, Nat.not_lt.mpr he, hm]

theorem Keeps.drainEnd {s : State} {p e : Nat} (hd : (s.part p).drainEnd = some e) (he : e ≤ s.now) :
    (s.drainEnd p).mem = s.mem ∧ (s.drainEnd p).Drained p := by
  unfold State.drainEnd
  extract_lets x
  simp only [x, hd]
  rw [if_neg (Nat.not_lt.mpr he)]
  rename_i old ls u v w
  have ended : u.mem = s.mem ∧ u.Drained p := by
    refine ⟨rfl, fun e he hk => ?_⟩
    rcases mem_tset he with rfl | ⟨-, hne⟩
    · exact ⟨rfl, rfl⟩
    · exact absurd hk hne
  have moved : Keeps p u v := by
    simp only [v]
    split
    · refine .foldl (fun s g => ?_) _ _
      refine .trans (t := List.foldl _ s (s.blk g).replay) (.foldl (fun s r => ?_) _ _) (.foldl (fun s l => ?_) _ _)
      · split
        · exact .moveReplay ..
        · exact .refl ..
      · split
        · exact .refl ..
        · exact (Keeps.updBlk ..).trans (.updBlk ..)
    · exact .refl ..
  have read : Keeps p v w := by
    simp only [w]
    split
    · refine .foldl (fun s k => ?_) _ _
      exact (Keeps.translate ..).trans (.updPart _ p fun x d => d)
    · exact .refl ..
  have kept : Keeps p u (w.resizeStep p) := (moved.trans read).trans (.resizeStep ..)
  exact ⟨kept.1.trans ended.1, kept.2 ended.2⟩

/-- Settles O47: a window's end by `Keeps`, the entry's new home by the rules of `State.setMode`. -/
theorem drainWindowsEnd : Obligations.DrainWindowsEnd := by
  refine ⟨?_, ?_⟩
  · intro s p e hd
    refine ⟨fun h => ?_, fun he hm => ?_, fun he hm => ?_⟩
    · simp [exec, execDrainWindowEnd, State.drainEnd, hd, h]
    · exact ⟨_, congrArg Host.Outcome.next (State.drainEnd_still hd he hm), by simp, by simp, by simp, by simp, by simp, rfl⟩
    · obtain ⟨mem, drained⟩ := Keeps.drainEnd hd he
      exact ⟨_, rfl, drained.part.1, drained.part.2, mem⟩
  · intro s g line p hp l h e harr htxn hhot hconf hh hmode hways
    refine ⟨(s.setEnt g.toNat l {}).setMode h l e.mode, congrArg Host.Outcome.next ?_, by simp, ?_, ?_⟩
    · have quiet : (s.blk g.toNat).conf.any (fun c => (c.msg.linesAt g.toNat).any (fun r => r.line = l)) = false := by simp [hconf]
      have unhot : (if (s.ent g.toNat line.toNat).hot.isSome = true then s.endHot g.toNat p line.toNat else s) = s :=
        if_neg (by rw [show (s.ent g.toNat line.toNat).hot = none from hhot]; simp)
      have few : ¬16 ≤ (s.ways h l).length := Nat.not_le.mpr hways
      simp only [e] at htxn hhot hmode
      simp only [State.entryArrives, hp]
      rw [if_neg (by simp [harr, htxn, quiet, l]), if_neg hh]
      simp only [unhot]
      rw [if_neg fun w => few w.2, if_neg hmode]
    · rw [State.ent_setMode_other _ _ _ _ hh.symm]
      simp
    · rw [State.setMode_eq]
      rfl

end Sys2Proof.Machine
end

section
/-! SPDM, the life cycle and debug (R418 to R430). -/

namespace Sys2Proof.Machine

/-! ### What an event leaves of the security state -/

@[simp] theorem State.raise_sec_lc (s : State) (e : Event) : (s.raise e).sec.lc = s.sec.lc := (congrArg (·.1.sec.lc) (s.raise_offEvents e) :)
@[simp] theorem State.raise_sec_debug (s : State) (e : Event) : (s.raise e).sec.debug = s.sec.debug := (congrArg (·.1.sec.debug) (s.raise_offEvents e) :)
@[simp] theorem State.raise_sec_caskV (s : State) (e : Event) : (s.raise e).sec.caskV = s.sec.caskV := (congrArg (·.1.sec.caskV) (s.raise_offEvents e) :)
@[simp] theorem State.raise_sec_wipeCause (s : State) (e : Event) : (s.raise e).sec.wipeCause = s.sec.wipeCause :=
  (congrArg (·.1.sec.wipeCause) (s.raise_offEvents e) :)
@[simp] theorem State.raise_sec_jseq (s : State) (e : Event) : (s.raise e).sec.jseq = s.sec.jseq := (congrArg (·.1.sec.jseq) (s.raise_offEvents e) :)
@[simp] theorem State.raise_sec_eseq (s : State) (e : Event) : (s.raise e).sec.eseq = s.sec.eseq + 1 := (congrArg (·.2.1) (s.raise_recorded e) :)

@[simp] theorem State.journalOne_wipeCause (s : State) (src : BitVec 8) (a : BitVec 32) (old new : BitVec 64) :
    (s.journalOne src a old new).sec.wipeCause = s.sec.wipeCause := rfl
@[simp] theorem State.wipe_wipeCause (s : State) (cause : Nat) (src : BitVec 8) : (s.wipe cause src).sec.wipeCause = BitVec.ofNat 4 cause := rfl

/-! ### SPDM -/

@[simp] theorem State.spdmSay_wipeCause (s : State) (m : Mctp) (code : Nat) (body : List Byte) :
    (s.spdmSay m code body).sec.wipeCause = s.sec.wipeCause := rfl

theorem State.onSpdm_eq {s : State} {m : Mctp} (up : s.spdmUp m = true) (rom : s.spdmRom = false) (f : State → State) : s.onSpdm m f = .next (f s) :=
  if_pos ⟨up, by simp [rom]⟩

/-- A warm start with the new life-cycle state in the fuses keeps them and why the cask was wiped, and memory is empty (R419, R432, R460). -/
theorem State.lifecycleReset {u : State} (wiped : u.sec.wipeCause = 5) (goal : LifeCycle) :
    let t := { u with fuse := { u.fuse with lc := goal } }.warmStart 5 0
    t.fuse.lc = goal ∧ t.boot.step = 1 ∧ t.boot.last = 5 ∧ t.sec.caskV = false ∧ t.sec.wipeCause = 5 ∧ t.mem = [] :=
  ⟨rfl, rfl, rfl, rfl, wiped, rfl⟩

/-- A life-cycle change that is allowed ends in a warm start with cause LIFECYCLE (R419, R420). -/
theorem exec_spdmLcset_allowed {s : State} {m : Mctp} {goal : LifeCycle} {token need : Bool} (up : s.spdmUp m = true) (rom : s.spdmRom = false)
    (arrow : lcArrow s.sec.lc goal = some need) (tok : need = true → token = true) (clear : s.parts.any (fun e => e.2.state ≠ .none) = false) :
    ∃ t : State, exec (.spdmLcset m goal token) s = .next t ∧ t.fuse.lc = goal ∧ t.boot.step = 1 ∧ t.boot.last = 5 ∧ t.sec.caskV = false ∧ t.sec.wipeCause = 5 ∧ t.mem = [] := by
  have ok : (!need || token) = true := by
    cases need
    · rfl
    · simpa using tok rfl
  dsimp only [exec, execSpdmLcset]
  rw [State.onSpdm_eq up rom]
  simp only [arrow, ok, clear, not_true_eq_false, Bool.false_eq_true, or_self, if_false]
  refine ⟨_, rfl, State.lifecycleReset ?_ goal⟩
  rw [State.spdmSay_wipeCause, State.raise_sec_wipeCause, State.journalOne_wipeCause, State.wipe_wipeCause]
  rfl

/-- Any other life-cycle change is answered Unspecified (log 39). -/
theorem exec_spdmLcset_refused {s : State} {m : Mctp} {goal : LifeCycle} {token : Bool} (up : s.spdmUp m = true) (rom : s.spdmRom = false)
    (h : lcArrow s.sec.lc goal = none ∨ (lcArrow s.sec.lc goal = some true ∧ token = false) ∨ s.parts.any (fun e => e.2.state ≠ .none) = true) :
    exec (.spdmLcset m goal token) s = .next (s.spdmError m errUnspecified) := by
  dsimp only [exec, execSpdmLcset]
  rw [State.onSpdm_eq up rom]
  refine congrArg Host.Outcome.next (if_pos ?_)
  rcases h with none | ⟨some, tok⟩ | parts
  · exact .inl (by simp [none])
  · exact .inl (by simp [some, tok])
  · exact .inr parts

/-- SPDM requests after the handshake with the ROM (R421, R423, R424). -/
theorem spdm_answers {s : State} {m : Mctp} (up : s.spdmUp m = true) (rom : s.spdmRom = false) :
    exec (.spdmGetCapabilities m) s = .next (s.spdmSay m 0x61 (leBytes 4 0x16))
    ∧ (∀ a b, exec (.spdmNegotiateAlgorithms m a b) s = .next (s.spdmSay m 0x63 [BitVec.ofNat 8 (b1 a), BitVec.ofNat 8 (b1 b)]))
    ∧ (∃ mask l, exec (.spdmGetDigests m) s = .next (s.spdmSay m 0x01 (mask :: l)) ∧ ∀ i, i < 8 → mask.getLsbD i = s.slotHeld i)
    ∧ ∀ slot, exec (.spdmGetCertificate m slot) s = .next (s.spdmSay m 0x02 (if s.slotHeld slot.toNat then Config.certChain slot.toNat else [])) := by
  dsimp only [exec, execSpdmGetCapabilities, execSpdmNegotiateAlgorithms, execSpdmGetDigests, execSpdmGetCertificate]
  simp only [State.onSpdm_eq up rom]
  refine ⟨trivial, fun a b => trivial, ⟨_, _, rfl, fun i hi => ?_⟩, fun slot => trivial⟩
  rw [BitVec.ofNat_toNat, BitVec.setWidth_eq, getLsbD_listMask]
  simp [hi]

/-- CHALLENGE is answered under the cask alone, for a slot that holds a chain. -/
theorem spdm_challenge {s : State} {m : Mctp} (up : s.spdmUp m = true) (rom : s.spdmRom = false) (slot : BitVec 3) (nonce : BitVec 256) :
    (s.sec.caskV = false → exec (.spdmChallenge m slot nonce) s = .next (s.spdmError m errUnspecified))
    ∧ (s.sec.caskV = true → s.slotHeld slot.toNat = false → exec (.spdmChallenge m slot nonce) s = .next (s.spdmError m errInvalid))
    ∧ (s.sec.caskV = true → s.slotHeld slot.toNat = true →
        ∃ body, exec (.spdmChallenge m slot nonce) s = .next (s.spdmSay m 0x03 (body ++ Config.sign (leBytes 32 nonce.toNat ++ body))) ∧ body.head? = some (BitVec.ofNat 8 slot.toNat)) := by
  dsimp only [exec, execSpdmChallenge]
  rw [State.onSpdm_eq up rom]
  refine ⟨fun cask => ?_, fun cask held => ?_, fun cask held => ?_⟩
  · simp [cask]
  · simp [cask, held]
  · simp only [cask, held, not_true_eq_false, if_false]
    exact ⟨_, rfl, rfl⟩

/-- GET_MEASUREMENTS: one signed needs the cask, one unsigned of a block answers it. -/
theorem spdm_measurements {s : State} {m : Mctp} (up : s.spdmUp m = true) (rom : s.spdmRom = false) (i : BitVec 8) (nonce : BitVec 256) :
    (s.sec.caskV = false → exec (.spdmGetMeasurements m i true nonce) s = .next (s.spdmError m errUnspecified))
    ∧ (∀ b, i ≠ 0 → i ≠ 0xFF → s.measure i.toNat = some b → exec (.spdmGetMeasurements m i false nonce) s = .next (s.spdmSay m 0x60 (i :: b)))
    ∧ (i ≠ 0 → i ≠ 0xFF → s.measure i.toNat = none → exec (.spdmGetMeasurements m i false nonce) s = .next (s.spdmError m errInvalid)) := by
  have zero (h : i ≠ 0) : i.toNat ≠ 0 := fun e => h (BitVec.eq_of_toNat_eq e)
  have all (h : i ≠ 0xFF) : i.toNat ≠ 255 := fun e => h (BitVec.eq_of_toNat_eq e)
  simp only [exec, execSpdmGetMeasurements, up, rom, not_true_eq_false, Bool.false_eq_true, if_false]
  refine ⟨fun cask => ?_, fun b h0 h1 found => ?_, fun h0 h1 found => ?_⟩
  · simp [cask]
  · simp [zero h0, all h1, found]
  · simp [zero h0, all h1, found]

/-! ### Debug -/

theorem State.setDebug_effect (s : State) (level : DebugLevel) :
    (s.setDebug level).sec.debug = level ∧ (s.setDebug level).sec.jseq = s.sec.jseq + 1 ∧ (s.setDebug level).sec.eseq = s.sec.eseq + 1
      ∧ (s.setDebug level).mem = s.mem := by
  simp only [State.setDebug, State.raise_sec_debug, State.raise_sec_jseq, State.raise_sec_eseq, State.raise_mem]
  exact ⟨rfl, rfl, rfl, rfl⟩

/-- A request above the level in force, with the device up and past the first start-up step (R429). -/
theorem exec_jtagUnlock {s : State} {level : DebugLevel} {token : Bool} (up : s.alive = true) (h1 : s.boot.step ≠ 1) (h7 : s.boot.step ≠ 7)
    (above : dbgCode s.sec.debug < dbgCode level) :
    exec (.jtagUnlock level token) s = .next (if ¬debugAllowed s.sec.lc level token then s.journalOne 5 0x7000 (s.readSq 0x7000) (s.readSq 0x7000)
      else if level = .invasive then (s.wipe 6 5).setDebug level else s.setDebug level) := by
  simp only [exec, execJtagUnlock]
  have served : ¬(¬s.alive ∨ (s.boot.step = 1 ∧ s.sec.lc ≠ .scrapped) ∨ s.boot.step = 7 ∨ dbgCode level ≤ dbgCode s.sec.debug) := by
    rintro (dead | ⟨first, _⟩ | recovery | low)
    · exact dead up
    · exact h1 first
    · exact h7 recovery
    · omega
  rw [if_neg served, apply_ite Host.Outcome.next, apply_ite Host.Outcome.next]

/-- Settles O59: SPDM by `spdm_answers` and its neighbours, the life cycle by `exec_spdmLcset_allowed`, debug by `exec_jtagUnlock`. -/
theorem securityCommandsAct : Obligations.SecurityCommandsAct := by
  refine ⟨fun s m up => ⟨if_pos up, fun rom => ?_⟩, fun s m code body => rfl, fun s level token live => ⟨fun h1 h7 above => ?_, fun below => if_pos ⟨live, below⟩⟩,
    fun s level => s.setDebug_effect level, fun token => ⟨rfl, rfl, rfl, rfl⟩⟩
  · obtain ⟨caps, algs, digests, cert⟩ := spdm_answers up rom
    exact ⟨caps, algs, digests, cert, spdm_challenge up rom, spdm_measurements up rom,
      fun goal token => ⟨fun need arrow tok clear => exec_spdmLcset_allowed up rom arrow tok clear, exec_spdmLcset_refused up rom⟩⟩
  · rw [exec_jtagUnlock live h1 h7 above]
    refine ⟨fun allowed mild => ?_, fun allowed invasive => ?_, fun refused => ⟨_, congrArg Host.Outcome.next (if_pos (by simp [refused])), rfl, rfl⟩⟩
    · simp [allowed, mild]
    · simp [invasive, allowed]

end Sys2Proof.Machine
end

section
/-! Detected errors and how each is contained (R462 to R465). -/

namespace Sys2Proof.Machine

/-! ### Events -/

@[simp] theorem Event.inPart_code (e : Event) (p : Nat) (x : Part) : (e.inPart p x).code = e.code := rfl
@[simp] theorem Event.inPart_cls (e : Event) (p : Nat) (x : Part) : (e.inPart p x).cls = e.cls := rfl
@[simp] theorem Event.inPart_part (e : Event) (p : Nat) (x : Part) : (e.inPart p x).part = BitVec.ofNat 6 p := rfl

/-- The partition of a Block, if it has one, joins the event with its code and class kept. -/
def Event.inPart? (e : Event) (s : State) (o : Option Nat) : Event := match o with | some p => e.inPart p (s.part p) | none => e

@[simp] theorem Event.inPart?_code (e : Event) (s : State) (o : Option Nat) : (e.inPart? s o).code = e.code := by cases o <;> rfl
@[simp] theorem Event.inPart?_cls (e : Event) (s : State) (o : Option Nat) : (e.inPart? s o).cls = e.cls := by cases o <;> rfl

/-! ### The place of a line (R212 to R215) -/

/-- The channels of a place are those of its layout in turn, 512 bytes each. -/
theorem Spot.channel_eq {x : Spot} {c : Nat × Nat}
    (h : (channels x.lay (x.tier = 1))[x.addr / 512 % (channels x.lay (x.tier = 1)).length]? = some c) : x.channel = c := by
  have pos : 1 ≤ (channels x.lay (x.tier = 1)).length := by
    obtain ⟨hlt, _⟩ := List.getElem?_eq_some_iff.mp h
    omega
  simp only [Spot.channel, Nat.max_eq_right pos, h, Option.getD_some]

theorem Part.spot_placed {y : Part} {l : Nat} (tier : (y.page (l / 2 ^ 21)).tier ≠ 0) (still : (y.page (l / 2 ^ 21)).dstFrms = []) :
    let g := y.page (l / 2 ^ 21)
    let o := 128 * l - y.pageKey (l / 2 ^ 21) * 2 ^ 28
    y.spot l = some { tier := g.tier.toNat, tray := nth g.trays (o / 2 ^ 28), frame := nth g.frms (o / 2 ^ 28), off := o % 2 ^ 28, lay := g.lay } := by
  simp only [Part.spot]
  rw [if_neg tier, if_neg fun h => h.1 still]

/-! ### What containment leaves of memory and of the poison bits -/

theorem State.lineUe_frame (s : State) (p l : Nat) (x : Spot) :
    (s.lineUe p l x).poison = (s.setPoison p l true).poison ∧ (s.lineUe p l x).mem = s.mem := by
  simp only [State.lineUe]
  split <;> split <;> simp only [State.raise_poison, State.raise_mem] <;> exact ⟨rfl, rfl⟩

theorem State.replayUe_effect (s : State) (g : Nat) :
    ∃ (u : State) (e : Event), s.replayUe g = u.raise e ∧ (u.blk g).hz = s.tb.tick ∧ e.code = 0x60 ∧ e.cls = 5 ∧ u.mem = s.mem := by
  let u := s.free.2.updBlk g (fun b => { b with replay := b.replay.eraseIdx (s.free.1 % b.replay.length), hz := s.free.2.tb.tick })
  refine ⟨u, (ueEvent 5 (uBlk g) 0 5).inPart? u (u.partOfBlk g), rfl, ?_, by simp [ueEvent], by simp [ueEvent], rfl⟩
  simp only [u, State.blk_updBlk]
  rfl

theorem State.partFault_of_part {s : State} {g p : Nat} (home : s.partOfBlk g = some p) (unit : BitVec 16) (d0 d1 : Nat) :
    ∃ e : Event, s.partFault g (ueEvent 6 unit d0 d1) = (s.raise e).fencePart p 0x60 6 s.sec.eseq ∧ e.code = 0x60 ∧ e.cls = 6 ∧ e.part = BitVec.ofNat 6 p := by
  refine ⟨(ueEvent 6 unit d0 d1).inPart p (s.part p), ?_, rfl, rfl, rfl⟩
  simp only [State.partFault, home]
  rfl

/-- A Block that stays in its state stays in its partition. -/
theorem State.partOfBlk_updBlk {s : State} {g : Nat} {f : Block → Block} (same : (f (s.blk g)).state = (s.blk g).state) (k : Nat) :
    (s.updBlk g f).partOfBlk k = s.partOfBlk k := by
  have state : ((s.updBlk g f).blk k).state = (s.blk k).state := by
    by_cases hk : k = g
    · rw [hk, State.blk_updBlk, same]
    · rw [State.blk_updBlk_other _ _ hk]
  simp only [State.partOfBlk, state]
  rfl

theorem State.fencePart_effect {s : State} {p : Nat} (open_ : (s.part p).state = .bound ∨ (s.part p).state = .ready) (code : Nat) (cls : BitVec 8) (seq : BitVec 64) :
    ∃ (u : State) (e : Event), s.fencePart p code cls seq = u.raise e ∧ u = (s.updPart p (fun x => { x with state := .fenced })).faultPart p stStateLost ∧ e.code = 0x44 ∧ e.d1 = seq :=
  ⟨_, _, if_pos open_, rfl, rfl, rfl⟩

/-- A halt with no partition in being raises its event and nothing else (R463). -/
theorem State.halt_effect {s : State} (unit : BitVec 16) (code : Nat) (seq : BitVec 64) (running : s.boot.halted = false) (none : s.parts = []) :
    ∃ u : State, s.halt unit (some (code, seq)) = u.raise { code := 0x64, cls := 7, unit := unit, d0 := seq } ∧ u.boot.halted = true ∧ u = { s with boot := u.boot } := by
  refine ⟨{ s with boot := { s.boot with halted := true } }, ?_, rfl, rfl⟩
  simp only [State.halt]
  rw [if_neg (by simp [running]), State.raise_parts]
  simp [none]

/-! ### Each site -/

theorem exec_lineError {s : State} (run : s.ticking = true) {p : PartId} {l : BitVec 45} {tray : Bool} {x : Spot} (lies : (s.part p.toNat).spot l.toNat = some x)
    (tier : decide (x.tier = 3) = tray) : exec (.uncorrectableError (.line p l tray)) s = .next (s.lineUe p.toNat l.toNat x) := by
  simp [exec, execUncorrectableError, run, lies, tier]

theorem exec_bankWordError {s : State} (run : s.ticking = true) {g : BlockId} (w : BitVec 19) (held : (s.blk g.toNat).state = .member) :
    ∃ (u : State) (e : Event), exec (.uncorrectableError (.bankWord g w)) s = .next ((u.raise e).bufferUe g.toNat (w.toNat / 1024)) ∧ e.code = 0x60 ∧ e.cls = 4
      ∧ w.toNat ∈ (u.blk g.toNat).bpois ∧ (u.blk g.toNat).bank = (s.blk g.toNat).bank ∧ u = { s with blks := u.blks } := by
  let u := s.updBlk g.toNat (fun b => { b with bpois := setIns b.bpois w.toNat, health := b.health.add 4096 })
  refine ⟨u, (ueEvent 4 (uBlk g.toNat) (16 * w.toNat) 2).inPart? u (u.partOfBlk g.toNat), ?_, by simp [ueEvent], by simp [ueEvent], ?_, ?_, rfl⟩
  · simp only [exec, execUncorrectableError, run, held, not_true_eq_false, if_false, ne_eq]
    rfl
  · simp [u, mem_setIns]
  · simp [u]

theorem exec_issueStateError {s : State} (run : s.ticking = true) {c : CtxId} (holds : (s.ctx c.toNat).holds = true) (here : (s.ctx c.toNat).parked = false) :
    ∃ (v : State) (e : Event), exec (.uncorrectableError (.issueState c)) s = .next (v.faultCtx c.toNat stStateLost 0xFFFF) ∧ v = s.raise e ∧ e.code = 0x60 ∧ e.cls = 4 := by
  refine ⟨_, s.ctxEvent c.toNat (ueEvent 4 (uBlk (c.toNat / 16)) 0 9), ?_, rfl, ?_, ?_⟩
  · simp [exec, execUncorrectableError, run, holds, here, State.ctxUe]
  · exact (Event.inPart?_code _ s (s.partOfBlk (c.toNat / 16))).trans rfl
  · exact (Event.inPart?_cls _ s (s.partOfBlk (c.toNat / 16))).trans rfl

theorem exec_engineUnresponsive {s : State} {g : BlockId} (e : Eng) {p : Nat} (held : (s.blk g.toNat).state = .member) (home : s.partOfBlk g.toNat = some p) :
    ∃ (u : State) (v : Event), exec (.engineUnresponsive g e) s = .next ((u.raise v).fencePart p 0x60 6 s.sec.eseq) ∧ v.code = 0x60 ∧ v.cls = 6 ∧ u = { s with blks := u.blks } := by
  let u := s.updBlk g.toNat (fun b => { b with health := b.health.add 16320 })
  obtain ⟨v, fault, code, cls, _⟩ := State.partFault_of_part (s := u) (g := g.toNat) (p := p) ((State.partOfBlk_updBlk rfl _).trans home) (uBlk g.toNat) 0 9
  refine ⟨u, v, ?_, code, cls, rfl⟩
  simp only [exec, execEngineUnresponsive]
  rw [if_neg (by simp [held, home])]
  exact congrArg Host.Outcome.next fault

/-- Settles O60: each site by its own lemma. -/
theorem errorsAreContained : Obligations.ErrorsAreContained := by
  refine ⟨fun s run => ⟨fun l n on => ?_, fun q c n hc => ?_, fun q n => ?_, fun p l tray x lies tier => ⟨exec_lineError run lies tier, s.lineUe_frame ..⟩,
      fun p l tier still => ⟨_, Part.spot_placed tier still, rfl, rfl, rfl, rfl, fun c hc => Spot.channel_eq hc⟩, fun g w held => exec_bankWordError run w held,
      fun c holds here => exec_issueStateError run holds here, fun g cached => ?_, fun g site p hsite home => ?_, fun running q => ⟨⟨s.raise (ueEvent 7 (uQtr q.toNat) 0 8), ?_⟩, ?_⟩⟩,
    fun s g e p held home => exec_engineUnresponsive e held home, fun s p code cls seq open_ => State.fencePart_effect open_ code cls seq,
    fun s unit code seq running none => State.halt_effect unit code seq running none⟩
  · simp only [exec, execCorrectedError, run, on, not_true_eq_false, if_false]
    exact ⟨_, rfl, by simp, by simp, rfl⟩
  · simp [exec, execCorrectedError, run, hc]
  · simp only [exec, execCorrectedError, run, not_true_eq_false, if_false]
    exact ⟨_, rfl, by simp, rfl⟩
  · obtain ⟨u, e, eq, rest⟩ := s.replayUe_effect g.toNat
    refine ⟨u, e, ?_, rest⟩
    simp [exec, execUncorrectableError, run, cached, eq]
  · rcases hsite with rfl | rfl | rfl <;> simp only [exec, execUncorrectableError, run, not_true_eq_false, if_false, Host.Outcome.next.injEq] <;>
      exact State.partFault_of_part home ..
  · simp only [exec, execUncorrectableError, run, running]
    simp
  · simp [exec, execUncorrectableError, run]

end Sys2Proof.Machine
end

section
/-! Flits and notices as a port takes them (R14, R60 to R68, R72 to R81). -/

namespace Sys2Proof.Machine

/-! ### What a command asks of its flit and its port -/

theorem State.onPort_enabled {s : State} {lane : Lane} (on : (s.port lane.toNat).enabled = true) {c : Port → Bool} (holds : c (s.port lane.toNat) = true)
    (f : Nat → State → State) : s.onPort lane c f = .next (f lane.toNat s) := if_pos (by simp [on, holds])

theorem State.onJoin_enabled {s : State} {lane : Lane} {f : Flit} (whole : f.slots.length = 15) (on : (s.port lane.toNat).enabled = true)
    (act : Nat → JoinMsg → State → State) : s.onJoin lane f act = .next (s.rxJoin lane.toNat f act) := by
  rw [State.onJoin, if_neg (Classical.not_not.mpr whole), State.onPort_enabled on rfl]

theorem State.onJoin_torn {s : State} {lane : Lane} {f : Flit} (torn : f.slots.length ≠ 15) (act : Nat → JoinMsg → State → State) :
    s.onJoin lane f act = .fault .malformedCommand := if_pos torn

theorem Port.off_of_enabled {p : Port} (h : p.enabled = true) : p.off = 0 := by
  simp only [Port.enabled, Bool.and_eq_true, decide_eq_true_eq] at h
  exact h.1

theorem exec_dataFlit {s : State} {lane : Lane} {f : Flit} (whole : f.slots.length = 15) (on : (s.port lane.toNat).off = 0) :
    exec (.dataFlit lane f) s = .next (s.rxData lane.toNat f) := by
  simp [exec, execDataFlit, whole, on]

theorem exec_idleFlit {s : State} {lane : Lane} {f : Flit} (whole : f.slots.length = 15) (on : (s.port lane.toNat).enabled = true) :
    exec (.idleFlit lane f) s = .next (s.rxIdle lane.toNat f) := by
  dsimp only [exec, execIdleFlit]
  rw [if_neg (Classical.not_not.mpr whole), State.onPort_enabled on rfl]

/-! ### Flits that are not taken -/

@[simp] theorem State.updPort_updPort (s : State) (l : Nat) (f g : Port → Port) : (s.updPort l f).updPort l g = s.updPort l (fun p => g (f p)) := by
  simp only [State.updPort, State.setPort, State.port, tget_tset_same, tset_tset]

/-- A flit with a bad CRC (R65, R72). -/
theorem State.badFlit_crc {s : State} {l : Nat} {f : Flit} (bad : f.good = false) :
    s.badFlit l f = s.updPort l (fun p => { p with crcErr := satAdd p.crcErr 1, health := p.health.add 16, nak := p.nak || decide (p.state = .active) }) := by
  unfold State.badFlit State.crcDrop State.crcCount
  rw [if_pos (by simp [bad])]
  split
  next active =>
    rw [State.updPort_updPort]
    exact State.updPort_congr (by simp [active])
  next idle => exact State.updPort_congr (by simp [idle])

/-- A good flit whose link header is reserved (R14). -/
theorem State.badFlit_header {s : State} {l : Nat} {f : Flit} (good : f.good = true) :
    s.badFlit l f = s.updPort l (fun p => { p with rsvdEnc := satAdd p.rsvdEnc 1, nak := p.nak || (decide (p.state = .active) && decide (f.ftype = 0)) }) :=
  if_neg (Classical.not_not.mpr good)

theorem Flit.turned_away {f : Flit} (h : f.good = false ∨ f.headOk = false) : ¬f.good ∨ ¬f.headOk := by simpa using h

/-- Every flit command turns such a flit away alike. -/
theorem exec_badFlit {s : State} {lane : Lane} {f : Flit} (ns turn : Ns) (whole : f.slots.length = 15) (on : (s.port lane.toNat).enabled = true)
    (bad : f.good = false ∨ f.headOk = false) {t : State} (ht : s.badFlit lane.toNat f = t) :
    exec (.dataFlit lane f) s = .next t ∧ exec (.idleFlit lane f) s = .next t ∧ exec (.jreq lane f) s = .next t ∧ exec (.jconfirm lane f) s = .next t
      ∧ exec (.probe lane f ns turn) s = .next t ∧ exec (.echo lane f ns) s = .next t ∧ exec (.joinReply lane f) s = .next t
      ∧ exec (.notice lane (.join f)) s = .next t := by
  have join (act : Nat → JoinMsg → State → State) : s.onJoin lane f act = .next t := by
    rw [State.onJoin_enabled whole on, State.rxJoin, if_pos (Flit.turned_away bad), ht]
  refine ⟨?_, ?_, join _, join _, join _, join _, join _, join _⟩
  · rw [exec_dataFlit whole (Port.off_of_enabled on), State.rxData, if_pos (Flit.turned_away bad), ht]
  · rw [exec_idleFlit whole on, State.rxIdle, if_pos (Flit.turned_away bad), ht]

/-! ### DATA flits -/

theorem State.rxData_active {s : State} {l : Nat} {f : Flit} (active : (s.port l).state = .active) (good : f.good = true) (head : f.headOk = true)
    (kind : f.ftype = 0) :
    let u := s.linkHeader l f.hdr
    (sbits f.hdr 4 12 = (u.port l).rxSeq.toNat →
      ∃ v, s.rxData l f = ((List.range 15).zip f.slots).foldl (fun s x => s.takeSlot l (sbit f.hdr (48 + x.1)) x.2) v
        ∧ (v.port l).rxSeq = (u.port l).rxSeq + 1 ∧ (v.port l).nak = false ∧ (v.port l).rxAny = true ∧ v = { u with ports := v.ports })
    ∧ (sbits f.hdr 4 12 ≠ (u.port l).rxSeq.toNat →
      ∃ v, s.rxData l f = v ∧ (v.port l).nak = true ∧ (v.port l).rxSeq = (u.port l).rxSeq ∧ v = { u with ports := v.ports }) := by
  have taken : s.rxData l f = _ := (if_neg (by simp [good, head])).trans ((if_neg (by simp [kind])).trans (if_neg (by simp [active])))
  refine ⟨fun inSeq => ?_, fun outOfSeq => ?_⟩
  · exact ⟨_, taken.trans (if_neg (Classical.not_not.mpr inSeq)), by simp, by simp, by simp, rfl⟩
  · exact ⟨_, taken.trans (if_pos outOfSeq), by simp, by simp, rfl⟩

theorem State.rxData_inactive {s : State} {l : Nat} {f : Flit} (idle : (s.port l).state ≠ .active) (good : f.good = true) (head : f.headOk = true)
    (kind : f.ftype = 0) :
    s.rxData l f = if (s.port l).state = .fenced then (List.range f.starts).foldl (fun t _ => t.staleDrop l (s.port l).peerEid) s
      else s.updPort l (fun p => { p with unbound := satAdd p.unbound f.starts }) :=
  (if_neg (by simp [good, head])).trans ((if_neg (by simp [kind])).trans (if_pos idle))

/-- Settles O30: torn and bad flits by `exec_badFlit`, DATA flits by `State.rxData_active` and `State.rxData_inactive`. -/
theorem flitsAreTaken : Obligations.FlitsAreTaken := by
  intro s lane f ns turn l p
  refine ⟨fun torn => ?_, fun whole on bad => exec_badFlit ns turn whole on (.inl bad) (State.badFlit_crc bad), fun whole on good bad => ?_,
    fun whole on active good head kind => ?_, fun whole on idle good head kind => ?_, fun whole on active good head kind => ?_⟩
  · exact ⟨if_pos torn, if_pos torn, State.onJoin_torn torn _, State.onJoin_torn torn _, State.onJoin_torn torn _, State.onJoin_torn torn _,
      State.onJoin_torn torn _, State.onJoin_torn torn _⟩
  · obtain ⟨data, idle, jreq, _⟩ := exec_badFlit ns turn whole on (.inr bad) (State.badFlit_header good)
    exact ⟨data, idle, jreq⟩
  · rw [exec_dataFlit whole (Port.off_of_enabled on)]
    simp only [Host.Outcome.next.injEq]
    exact State.rxData_active active good head kind
  · rw [exec_dataFlit whole on, State.rxData_inactive idle good head kind]
    exact ⟨fun open_ => congrArg _ (if_neg open_), fun fenced => congrArg _ (if_pos fenced)⟩
  · rw [exec_idleFlit whole on]
    exact congrArg _ ((if_neg (by simp [good, head])).trans (if_neg (not_or.mpr ⟨Classical.not_not.mpr kind, Classical.not_not.mpr active⟩)))

/-! ### JOIN flits and notices -/

theorem State.rxJoin_legal {s : State} {l : Nat} {f : Flit} (h : JoinFlit f) (act : Nat → JoinMsg → State → State) :
    s.rxJoin l f act = act l f.join (s.joinBase l f) := by
  obtain ⟨_, good, head, kind, legal⟩ := h
  simp [State.rxJoin, good, head, kind, legal, State.joinBase]

theorem State.rxJoin_reserved {s : State} {l : Nat} {f : Flit} (good : f.good = true) (head : f.headOk = true) (kind : f.ftype = 2) (bad : f.joinOk = false)
    (act : Nat → JoinMsg → State → State) : s.rxJoin l f act = s.updPort l (fun p => { p with rsvdEnc := satAdd p.rsvdEnc 1 }) := by
  simp [State.rxJoin, good, head, kind, bad]

/-- A command in a legal JOIN flit acts on its message. -/
theorem State.onJoin_legal {s : State} {lane : Lane} {f : Flit} (on : (s.port lane.toNat).enabled = true) (h : JoinFlit f) (act : Nat → JoinMsg → State → State) :
    s.onJoin lane f act = .next (act lane.toNat f.join (s.joinBase lane.toNat f)) := by
  rw [State.onJoin_enabled h.1 on, State.rxJoin_legal h]

/-- The NOTICE packet gives its credit back and is judged by its source (R80, R81, R132). -/
theorem exec_noticePacket {s : State} {lane : Lane} {h : Slot} (on : (s.port lane.toNat).enabled = true) (active : (s.port lane.toNat).state = .active)
    (tc : (Pkt.ofHeader h).tc = 0) (kind : (Pkt.ofHeader h).mtype = 5) :
    let u := s.updPort lane.toNat (fun x => { x with owed := tset x.owed 0 (tget x.owed 0 0 + 1) 0 })
    let v := u.verdict lane.toNat (Pkt.ofHeader h)
    exec (.notice lane (.packet h)) s = .next (if v.1 = 3 then v.2.staleDrop lane.toNat (Pkt.ofHeader h).seid
      else if v.1 = 4 then v.2.updPort lane.toNat (fun x => { x with unbound := satAdd x.unbound 1 })
      else if ¬(Pkt.ofHeader h).legal false then v.2.updPort lane.toNat (fun x => { x with rsvdEnc := satAdd x.rsvdEnc 1 })
      else v.2) := by
  dsimp only [exec, execNotice]
  rw [State.onPort_enabled on (by simp [active])]
  exact congrArg _ (if_neg (by simp [tc, kind]))

/-- The three ways a packet's source is judged (R80, R132). -/
theorem State.verdict_cases (s : State) (l : Nat) (x : Pkt) :
    (s.sourceOk x = false → s.verdict l x = (3, s)) ∧ (s.sourceOk x = true → (s.port l).role = 1 → x.seid ≠ (s.port l).peerEid → s.verdict l x = (4, s))
      ∧ (s.sourceOk x = true → ((s.port l).role = 1 → x.seid = (s.port l).peerEid) → s.verdict l x = (if (s.police l x).1 then 1 else 2, (s.police l x).2)) := by
  refine ⟨fun stale => if_pos (by simp [stale]), fun current endpoint other => ?_, fun current own => ?_⟩
  · exact (if_neg (by simp [current])).trans (if_pos ⟨endpoint, other⟩)
  · exact (if_neg (by simp [current])).trans (if_neg fun h => h.2 (own h.1))

/-- Settles O33: the packet form by `exec_noticePacket` and `State.verdict_cases`, the JOIN forms by `State.rxJoin_reserved`. -/
theorem noticesAreConsumed : Obligations.NoticesAreConsumed := by
  refine ⟨fun s lane h => ?_, fun s lane f ns turn => ?_⟩
  · intro l k p u on active tc kind
    have taken := exec_noticePacket on active tc kind
    obtain ⟨stale, foreign, passed⟩ := u.verdict_cases l k
    have port : u.port l = { p with owed := tset p.owed 0 (tget p.owed 0 0 + 1) 0 } := State.port_updPort ..
    have source : u.sourceOk k = s.sourceOk k := rfl
    rw [source] at stale foreign passed
    simp only [port] at foreign passed
    refine ⟨fun current own legal => ⟨?_, by simp [port]⟩, fun old => ?_, fun current endpoint other => ?_⟩
    · rw [taken, passed current own]
      simp only [legal]
      split <;> simp
    · rw [taken, stale old]
      exact congrArg _ (if_pos rfl)
    · rw [taken, foreign current endpoint other]
      exact congrArg _ ((if_neg (show ¬4 = 3 by decide)).trans (if_pos rfl))
  · intro l t on whole good head kind
    refine ⟨fun bad => ?_, fun legal => State.onJoin_legal on ⟨whole, good, head, kind, legal⟩ _⟩
    have reserved (act : Nat → JoinMsg → State → State) : s.onJoin lane f act = .next t := by
      rw [State.onJoin_enabled whole on, State.rxJoin_reserved good head kind bad]
    exact ⟨reserved _, reserved _, reserved _, reserved _, reserved _, reserved _⟩

end Sys2Proof.Machine
end

section
/-! Packets at a port: judged as they land, admitted, tried again, and the IDLE flit of a link with nothing to send (R14, R67, R80, R114, R132, R135). -/

namespace Sys2Proof.Machine

/-! ### The landing ring -/

@[simp] theorem State.ring_setRing (s : State) (l k : Nat) (r : List Msg) : (s.setRing l k r).ring l k = r := by
  simp [State.setRing, State.ring]

/-- What lands at a port is left alone by a change that keeps the port's ring. -/
theorem State.ring_updPort {s : State} {l : Nat} {f : Port → Port} (keeps : ∀ p, (f p).landing = p.landing) (j k : Nat) :
    (s.updPort l f).ring j k = s.ring j k := by
  by_cases h : j = l
  · rw [State.ring, h, State.port_updPort, keeps]
    rfl
  · rw [State.ring, State.port_updPort_other _ _ h]
    rfl

@[simp] theorem State.ring_creditBack (s : State) (m : Msg) (j k : Nat) : (s.creditBack m).ring j k = s.ring j k := by
  unfold State.creditBack
  split
  · rfl
  · exact State.ring_updPort (by exact fun _ => rfl) j k

theorem State.ring_dropLanded {f : Port → Port} (keeps : ∀ p, (f p).landing = p.landing) (s : State) (m : Msg) (j k : Nat) :
    (s.dropLanded m f).ring j k = s.ring j k := by
  rw [State.dropLanded, State.ring_creditBack, State.ring_updPort keeps]

@[simp] theorem State.ring_raise (s : State) (e : Event) (j k : Nat) : (s.raise e).ring j k = s.ring j k := by simp [State.ring]

/-- A stale packet is counted at its port, and may raise an event (R80). -/
theorem State.staleDrop_cases (s : State) (l : Nat) (e : Eid) :
    ∃ f : Port → Port, (∀ p, (f p).landing = p.landing) ∧ (s.staleDrop l e = s.updPort l f ∨ ∃ v, s.staleDrop l e = (s.updPort l f).raise v) := by
  unfold State.staleDrop
  extract_lets t p quiet
  by_cases h : quiet = true
  · exact ⟨_, by exact fun _ => rfl, .inl (if_pos h)⟩
  · exact ⟨_, by exact fun _ => rfl, .inr ⟨_, (if_neg h).trans (congrArg (State.raise · _) (State.updPort_updPort ..))⟩⟩

@[simp] theorem State.ring_staleDrop (s : State) (l : Nat) (e : Eid) (j k : Nat) : (s.staleDrop l e).ring j k = s.ring j k := by
  obtain ⟨f, keeps, drop | ⟨v, drop⟩⟩ := s.staleDrop_cases l e <;> simp [drop, State.ring_updPort keeps]

/-! ### What trunks and spraying are left -/

/-- The trunks and the classes that are sprayed. -/
def State.spread (s : State) : Tbl Trunk × BitVec 7 := (s.trunks, s.spray)

@[simp] theorem State.updPort_spread (s : State) (l : Nat) (f : Port → Port) : (s.updPort l f).spread = s.spread := rfl
@[simp] theorem State.setRing_spread (s : State) (l k : Nat) (r : List Msg) : (s.setRing l k r).spread = s.spread := rfl
@[simp] theorem State.raise_spread (s : State) (e : Event) : (s.raise e).spread = s.spread := by simp [State.spread]

@[simp] theorem State.dropLanded_spread (s : State) (m : Msg) (f : Port → Port) : (s.dropLanded m f).spread = s.spread := by
  unfold State.dropLanded State.creditBack
  split <;> rfl

@[simp] theorem State.staleDrop_spread (s : State) (l : Nat) (e : Eid) : (s.staleDrop l e).spread = s.spread := by
  obtain ⟨f, keeps, drop | ⟨v, drop⟩⟩ := s.staleDrop_cases l e <;> simp [drop]

/-- After a packet that left its trunk's order, the trunk looks at its gap (R114). -/
def State.onward (s u : State) (l k : Nat) : State :=
  match s.trunkOfLane l with
  | some t => if s.spray.getLsbD k then u.checkGap t k else u
  | none => u

theorem State.onward_of_spread {s u : State} (h : u.spread = s.spread) (l k : Nat) : u.onward u l k = s.onward u l k := by
  obtain ⟨trunks, spray⟩ : u.trunks = s.trunks ∧ u.spray = s.spray := Prod.mk.inj h
  unfold State.onward State.trunkOfLane
  rw [trunks, spray]

/-! ### Judging the head -/

section
variable {s : State} {l k : Nat} {m : Msg} {rest : List Msg}

theorem State.ingress_head (ring : s.ring l k = m :: rest) (fresh : m.ingress = 0) :
    s.ingress l k = if ((s.judge l k 0 m).ring l k).length = rest.length + 1 then (s.judge l k 0 m).admitHead l k
      else (s.judge l k 0 m).onward (s.judge l k 0 m) l k := by
  have first : unjudged (m :: rest) = some 0 := by simp [unjudged, List.findIdx?_cons, fresh]
  simp only [State.ingress, ring, first, List.getElem?_cons_zero, List.length_cons, true_and]
  rfl

/-- A head that is dropped makes the trunk look at its gap. -/
theorem State.ingress_dropped (ring : s.ring l k = m :: rest) (fresh : m.ingress = 0) {t : State} (judged : s.judge l k 0 m = t)
    (left : t.ring l k = rest) (same : t.spread = s.spread) : s.ingress l k = s.onward t l k := by
  rw [State.ingress_head ring fresh, judged, left, if_neg (by omega), State.onward_of_spread same]

/-- A head that stays is admitted. -/
theorem State.ingress_kept (ring : s.ring l k = m :: rest) (fresh : m.ingress = 0) {a : Msg} (judged : s.judge l k 0 m = s.setRing l k (a :: rest)) :
    s.ingress l k = (s.setRing l k (a :: rest)).admitHead l k := by
  rw [State.ingress_head ring fresh, judged, State.ring_setRing, if_pos (by simp)]

theorem State.putRing_gone (ring : s.ring l k = m :: rest) : s.putRing l k 0 none = s.setRing l k rest := by simp [State.putRing, ring]
theorem State.putRing_kept (ring : s.ring l k = m :: rest) (a : Msg) : s.putRing l k 0 (some a) = s.setRing l k (a :: rest) := by simp [State.putRing, ring]

/-- How the head is judged in a power state that carries its class. -/
theorem State.judge_head (ring : s.ring l k = m :: rest) (power : s.pw.state ≠ 2) :
    s.judge l k 0 m = if m.verd = 3 then ((s.setRing l k rest).dropLanded m id).staleDrop l m.pkt.seid
      else if m.verd = 4 then (s.setRing l k rest).dropLanded m (fun p => { p with unbound := satAdd p.unbound 1 })
      else if ¬m.pkt.legal ((s.port l).role = 1) then (s.setRing l k rest).dropLanded m (fun p => { p with rsvdEnc := satAdd p.rsvdEnc 1 })
      else if m.pkt.tc = 4 ∧ (s.port l).role = 1 ∧ (s.port l).job ≠ m.pkt.job ∧ m.pkt.deid ≠ s.selfEid then
        ((s.setRing l k rest).dropLanded m id).updBlk (16 * qOfLane l) (fun b => { b with stray := satAdd b.stray 1 })
      else if m.verd = 1 then s.setRing l k ({ m with ingress := 1 } :: rest)
      else match s.policed m with
        | some a => s.setRing l k (a :: rest)
        | none => (s.setRing l k rest).dropLanded m id := by
  unfold State.judge
  extract_lets pk gone
  rw [if_neg fun h => power h.1]
  simp only [gone, pk, State.putRing_gone ring, State.putRing_kept ring] <;> rfl

/-- The oldest landed packet, by its verdict (R80, R132, R135). -/
theorem State.ingress_cases (ring : s.ring l k = m :: rest) (fresh : m.ingress = 0) (power : s.pw.state ≠ 2) :
    (m.verd = 3 → s.ingress l k = s.onward (((s.setRing l k rest).dropLanded m id).staleDrop l m.pkt.seid) l k)
    ∧ (m.verd = 4 → s.ingress l k = s.onward ((s.setRing l k rest).dropLanded m (fun p => { p with unbound := satAdd p.unbound 1 })) l k)
    ∧ (m.verd ≠ 3 → m.verd ≠ 4 → m.pkt.legal ((s.port l).role = 1) = false →
        s.ingress l k = s.onward ((s.setRing l k rest).dropLanded m (fun p => { p with rsvdEnc := satAdd p.rsvdEnc 1 })) l k)
    ∧ (m.pkt.legal ((s.port l).role = 1) = true → ¬(m.pkt.tc = 4 ∧ (s.port l).role = 1 ∧ (s.port l).job ≠ m.pkt.job ∧ m.pkt.deid ≠ s.selfEid) →
        (m.verd = 1 → s.ingress l k = (s.setRing l k ({ m with ingress := 1 } :: rest)).admitHead l k)
        ∧ ∀ a, m.verd = 2 → s.policed m = some a → s.ingress l k = (s.setRing l k (a :: rest)).admitHead l k) := by
  have judged := State.judge_head ring power
  refine ⟨fun stale => ?_, fun unbound => ?_, fun h3 h4 illegal => ?_, fun legal bound => ⟨fun pass => ?_, fun a late answer => ?_⟩⟩
  · refine State.ingress_dropped ring fresh (judged.trans (if_pos stale)) ?_ ?_
    · simp [State.ring_dropLanded]
    · simp
  · refine State.ingress_dropped ring fresh (judged.trans ((if_neg (by simp [unbound])).trans (if_pos unbound))) ?_ ?_
    · simp [State.ring_dropLanded]
    · simp
  · refine State.ingress_dropped ring fresh (judged.trans ((if_neg h3).trans ((if_neg h4).trans (if_pos (by rw [illegal]; exact Bool.false_ne_true))))) ?_ ?_
    · simp [State.ring_dropLanded]
    · simp
  · exact State.ingress_kept ring fresh (judged.trans (by rw [if_neg (by simp [pass]), if_neg (by simp [pass]), if_neg (Classical.not_not.mpr legal), if_neg bound, if_pos pass]))
  · refine State.ingress_kept ring fresh (judged.trans ?_)
    rw [if_neg (by simp [late]), if_neg (by simp [late]), if_neg (Classical.not_not.mpr legal), if_neg bound, if_neg (by simp [late]), answer]

end

/-! ### Gaps (R114) -/

theorem State.gapTimeout_over {s : State} {t k e : Nat} (gap : tfind (s.trunk t).gap k = some e) (late : e ≤ s.now)
    (up : (s.trunk t).members.all (fun j => (s.port j).state ≠ .retrain) = true) :
    s.gapTimeout t k = if (s.sprayHeads t k).any (fun h => h.2 = tget (s.trunk t).exp k 0) then s.checkGap t k else (s.declareGap t k).checkGap t k := by
  simp only [State.gapTimeout, gap]
  exact if_pos ⟨late, up⟩

/-! ### What a link sends -/

theorem packWidth64 {l : List (Nat × Nat)} (h : packWidth l ≤ 64) : (pack64 l).toNat = pack l := by
  rw [pack64, BitVec.toNat_ofNat]
  exact Nat.mod_eq_of_lt (Nat.lt_of_lt_of_le (pack_lt l) (Nat.pow_le_pow_right (by decide) h))

/-- A field of a link header is read back where the widths before it put it. -/
theorem sbits_pack64 {l : List (Nat × Nat)} (a b : List (Nat × Nat)) {lo w v : Nat} (hl : packWidth l ≤ 64) (h : l = a ++ (w, v) :: b)
    (hlo : lo = packWidth a) : sbits (pack64 l) lo w = v % 2 ^ w := by
  rw [sbits, packWidth64 hl, h, hlo, bits_pack]

theorem b1_mod (b : Bool) : decide (b1 b % 2 ^ 1 = 1) = b := by cases b <;> rfl

/-- The link header of a flit (R59): its type and the acknowledgement of what this port has taken; sending it changes the port alone. -/
theorem State.nextHeader_fields (s : State) (l ftype seq map : Nat) (cont : Bool) (small : ftype < 16) :
    let h := (s.nextHeader l ftype seq map cont).1
    sbits h 0 4 = ftype ∧ sbits h 16 12 = ((s.port l).rxSeq - 1).toNat ∧ sbit h 28 = (s.port l).rxAny ∧ sbit h 29 = (s.port l).nak := by
  unfold State.nextHeader
  extract_lets p c
  have field {tc n lo w v : Nat} (a b : List (Nat × Nat))
      (h : [(4, ftype), (12, seq), (12, (p.rxSeq - 1).toNat), (1, b1 p.rxAny), (1, b1 p.nak), (2, 0), (3, tc), (8, n), (5, 0), (15, map), (1, b1 cont)] = a ++ (w, v) :: b)
      (hlo : lo = packWidth a) := sbits_pack64 a b (by simp) h hlo
  refine ⟨?_, ?_, ?_, ?_⟩
  · exact (field [] _ rfl rfl).trans (Nat.mod_eq_of_lt small)
  · exact (field [_, _] _ rfl rfl).trans (Nat.mod_eq_of_lt (BitVec.isLt _))
  · exact (sbit_eq_sbits _ _).trans ((congrArg (fun n => decide (n = 1)) (field [_, _, _] _ rfl rfl)).trans (b1_mod _))
  · exact (sbit_eq_sbits _ _).trans ((congrArg (fun n => decide (n = 1)) (field [_, _, _, _] _ rfl rfl)).trans (b1_mod _))

theorem State.nextHeader_ports (s : State) (l ftype seq map : Nat) (cont : Bool) :
    (s.nextHeader l ftype seq map cont).2 = { s with ports := (s.nextHeader l ftype seq map cont).2.ports } := by
  simp only [State.nextHeader]
  split <;> rfl

theorem State.eligible_empty {s : State} {l k : Nat} (empty : (s.queue (qOfLane l) (nPort l k)).pkts = []) : s.eligible l k = false := by
  simp [State.eligible, Queue.next, empty]

theorem State.eligible_updPort {s : State} {l : Nat} {f : Port → Port} (keeps : ∀ p, (f p).heldCr = p.heldCr) (k : Nat) :
    (s.updPort l f).eligible l k = s.eligible l k := by
  simp only [State.eligible, State.port_updPort, keeps]
  rfl

/-- A link whose queues are empty has no class to send. -/
theorem State.pickClass_empty {s : State} {l : Nat} (empty : ∀ j, (s.queue (qOfLane l) (nPort l j)).pkts = []) : s.pickClass l = (s, none) := by
  have none (k : Nat) : s.eligible l k = false := State.eligible_empty (empty k)
  simp [State.pickClass, none]

section
variable {s : State} {l ns : Nat} (running : s.boot.halted = false) (active : (s.port l).state = .active) (marker : (s.port l).markerDue = false)
  (notice : (s.port l).noticeDue = false)
include running active marker notice

/-- With no marker and no notice due, an ACTIVE port with nothing to send sends an IDLE flit (R67). -/
theorem State.egress_idle (empty : (s.updPort l (fun p => { p with nakAck := none })).pickClass l = (s.updPort l (fun p => { p with nakAck := none }), .none)) :
    let u := s.updPort l (fun p => { p with nakAck := none })
    s.egress l ns = (u.nextHeader l 1 0 0 false).2.send (.flit l (mkFlit (u.nextHeader l 1 0 0 false).1 [])) := by
  simp [State.egress, running, active, marker, notice, empty]

/-- … and one with a packet in its class starts it where the replay buffer has room (R98). -/
theorem State.egress_packet {t : State} {k : Nat} {x : QPkt} (pick : (s.updPort l (fun p => { p with nakAck := none })).pickClass l = (t, some k))
    (head : ((s.updPort l (fun p => { p with nakAck := none })).queue (qOfLane l) (nPort l k)).next = some x)
    (room : (s.port l).unacked.length + x.msg.pkt.cells ≤ 1024) : s.egress l ns = t.startPkt l k ns := by
  simp [State.egress, running, active, marker, notice, pick, head, room]

end

/-- Settles O35: ingress by `State.ingress_cases`, gaps by `State.gapTimeout_over`, egress by `State.egress_idle` and `State.egress_packet`. -/
theorem packetsMove : Obligations.PacketsMove := by
  intro s lane tc l k p onward on
  have sent (ns : Ns) : exec (.packetEgress lane ns) s = .next (s.egress l ns.val) :=
    State.onPort_enabled (c := fun _ => true) on rfl (fun l s => s.egress l ns.val)
  refine ⟨fun x => s.verdict_cases l x, fun m rest ring fresh power => ?_, rfl, fun trunk e gap late up => congrArg _ (State.gapTimeout_over gap late up),
    fun ns active running marker notice empty power => ?_, fun ns x r active running marker notice power head waits fit room => ?_⟩
  · have taken : exec (.packetIngress lane tc) s = .next (s.ingress l k) :=
      State.onPort_enabled (c := fun _ => true) on rfl (fun l s => s.ingress l tc.toNat)
    simp only [taken, Host.Outcome.next.injEq]
    exact State.ingress_cases ring fresh power
  · let u := s.updPort l (fun p => { p with nakAck := none })
    obtain ⟨kind, ack, any, nak⟩ := u.nextHeader_fields l 1 0 0 false (by decide)
    have same : u.port l = { p with nakAck := none } := State.port_updPort ..
    rw [same] at ack any nak
    refine ⟨(u.nextHeader l 1 0 0 false).2, (u.nextHeader l 1 0 0 false).1, ?_, kind, ack, any, nak, u.nextHeader_ports ..⟩
    rw [sent, State.egress_idle running active marker notice (State.pickClass_empty (s := u) empty)]
  · refine (sent ns).trans (congrArg _ (State.egress_packet running active marker notice (x := x) ?_ ?_ room))
    · refine (if_pos power).trans ?_
      rw [State.eligible_updPort, if_pos fit]
      exact fun _ => rfl
    · rw [Queue.next]
      exact (congrArg _ head).trans (by simp [waits])

end Sys2Proof.Machine
end

section
/-! Training, recovery and the join handshake of a port (R55 to R90, R504, R506). -/

namespace Sys2Proof.Machine

theorem ne_of_same {α : Type} {a b c : α} (same : a = b) (other : b ≠ c) : a ≠ c := same ▸ other

/-! ### Changes of a port's state -/

/-- A port that changes state: its trunk and its gaps take note. -/
theorem State.toState_eq (s : State) (l : Nat) (st : PortState) :
    s.toState l st = ((s.updPort l (fun p => { p with state := st, since := s.now })).noteTrunk l).noteGaps l := rfl

theorem State.updPort_toState (s : State) (l : Nat) (f : Port → Port) (st : PortState) :
    (s.updPort l f).toState l st = ((s.updPort l (fun p => { f p with state := st, since := s.now })).noteTrunk l).noteGaps l := by
  rw [State.toState_eq, State.updPort_updPort]
  rfl

/-- A port returns to HELLO with its probes, its JREQ and its grant afresh. -/
def Port.atHello (p : Port) (nonce now : Nat) : Port :=
  { p with nonce := BitVec.ofNat 32 nonce, probes := [], probeAt := none, probeQ := [], jreqAt := none, replied := false, jreq := none, grant := none,
           tries := 0, state := .hello, since := now }

theorem State.toHello_eq (s : State) (l : Nat) :
    s.toHello l = ((s.free.2.updPort l (·.atHello s.free.1 s.now)).noteTrunk l).noteGaps l := State.updPort_toState ..

theorem State.goDown_eq {s : State} {l : Nat} (down : (s.port l).state ≠ .down) (disabled : (s.port l).state ≠ .disabled) :
    s.goDown l = (((s.flush l).updPort l (fun p => { p with jreq := none, grant := none })).toState l .down).raise
      { code := 0x06, unit := uPort l, d0 := BitVec.ofNat 64 (s.port l).state.code } := if_neg (not_or.mpr ⟨down, disabled⟩)

/-- A port that needs a retrain enters RETRAIN, but for the third time within 1,000 ticks (R71, R90). -/
theorem State.toRetrain_cases (s : State) (l : Nat) :
    let p := s.port l
    let near := p.retrains.filter (fun t => s.now < endOf t 1000)
    (near.length < 2 → ∃ u : State, s.toRetrain l = (u.noteTrunk l).noteGaps l ∧ (u.port l).state = .retrain ∧ (u.port l).retrainCnt = satAdd p.retrainCnt 1
      ∧ (u.port l).unacked = p.unacked ∧ u = { s with ports := u.ports })
    ∧ (2 ≤ near.length → p.state = .active →
      ∃ u : State, s.toRetrain l = u.goDown l ∧ (u.port l).retrainCnt = p.retrainCnt ∧ (u.port l).state = .active ∧ u = { s with ports := u.ports }) := by
  intro p near
  have count : ((s.updPort l (fun p => { p with retrains := (p.retrains.filter (fun t => s.now < endOf t 1000)) ++ [s.now] })).port l).retrains.length = near.length + 1 := by
    simp [near, p]
  refine ⟨fun few => ?_, fun many active => ?_⟩
  · refine ⟨_, (if_neg (by rw [count]; omega)).trans (State.updPort_toState ..), ?_, ?_, ?_, rfl⟩ <;> simp [p]
  · refine ⟨_, if_pos (by rw [count]; omega), ?_, ?_, rfl⟩ <;> simp [p, active]

theorem State.replay_cases (s : State) (l : Nat) :
    let p := s.port l
    (p.unacked.any (fun f => 5 ≤ f.sends) = true → s.replay l = s.toRetrain l)
    ∧ (p.unacked.any (fun f => 5 ≤ f.sends) = false →
      ∃ u : State, s.replay l = p.unacked.foldl (fun s f => s.send (.flit l f.flit)) u ∧ (u.port l).replayCnt = satAdd p.replayCnt 1
        ∧ (u.port l).unacked = p.unacked.map (fun f => { f with sends := f.sends + 1 }) ∧ u = { s with ports := u.ports }) := by
  intro p
  refine ⟨fun old => if_pos old, fun young => ?_⟩
  let v := s.updPort l (fun p => { p with replayCnt := satAdd p.replayCnt 1, health := p.health.add 16 })
  have same : (v.port l).unacked = p.unacked := by simp [v, p]
  have sent : s.replay l = v.resendFlits l := if_neg (by rw [young]; exact Bool.false_ne_true)
  rw [sent, State.resendFlits, same]
  exact ⟨_, rfl, by simp [v, p], by simp [v, p], rfl⟩

section
variable {s : State} {lane : Lane} (on : (s.port lane.toNat).enabled = true)
include on

/-- A command at an enabled port whose state it asks for. -/
theorem State.onPort_state {st : PortState} (state : (s.port lane.toNat).state = st) (f : Nat → State → State) :
    s.onPort lane (fun p => p.state = st) f = .next (f lane.toNat s) := State.onPort_enabled on (decide_eq_true state) f

/-- A port in a state other than DOWN goes DOWN. -/
theorem State.goDown_enabled (up : (s.port lane.toNat).state ≠ .down) :
    s.goDown lane.toNat = (((s.flush lane.toNat).updPort lane.toNat (fun p => { p with jreq := none, grant := none })).toState lane.toNat .down).raise
      { code := 0x06, unit := uPort lane.toNat, d0 := BitVec.ofNat 64 (s.port lane.toNat).state.code } := by
  simp only [Port.enabled, Bool.and_eq_true, decide_eq_true_eq] at on
  exact State.goDown_eq up on.2

theorem exec_alignDone (align : (s.port lane.toNat).state = .align) : exec (.alignDone lane) s = .next (s.toHello lane.toNat) :=
  State.onPort_state on align (fun l s => s.toHello l)

theorem exec_trainTimeout (train : (s.port lane.toNat).state = .train) : exec (.trainTimeout lane) s = .next (s.goDown lane.toNat) :=
  State.onPort_state on train (fun l s => s.goDown l)

theorem exec_retrainTimeout (retrain : (s.port lane.toNat).state = .retrain) : exec (.retrainTimeout lane) s = .next (s.goDown lane.toNat) :=
  State.onPort_state on retrain (fun l s => s.goDown l)

theorem exec_lossOfSignal (active : (s.port lane.toNat).state = .active) (cable : s.cage.getLsbD (lane.toNat / 8) = true) :
    exec (.lossOfSignal lane) s = .next (s.toRetrain lane.toNat) :=
  State.onPort_enabled (c := fun p => p.state = .active && s.cage.getLsbD (lane.toNat / 8)) on (by simp only [active, cable]; rfl) (fun l s => s.toRetrain l)

theorem exec_replayTimeout (active : (s.port lane.toNat).state = .active) (waiting : (s.port lane.toNat).unacked ≠ []) :
    exec (.replayTimeout lane) s = .next (s.replay lane.toNat) :=
  State.onPort_enabled (c := fun p => p.state = .active && p.unacked ≠ []) on (by simp [active, waiting]) (fun l s => s.replay l)

/-- All lanes locked lead to ALIGN; one half of them, with a downshift, to ALIGN at half the width (R69, R86). -/
theorem exec_lanesLocked (m : BitVec 8) (train : (s.port lane.toNat).state = .train) :
    let l := lane.toNat
    let p := s.port l
    let n := p.lanes
    let k := m.toNat % 2 ^ n
    let half := 2 ^ (n / 2) - 1
    (k = 2 ^ n - 1 → ∃ u : State, exec (.lanesLocked lane m) s = .next ((u.noteTrunk l).noteGaps l) ∧ (u.port l).state = .align ∧ (u.port l).width = p.width)
    ∧ (k ≠ 2 ^ n - 1 → p.dshen = true → 2 ≤ n → k % 2 ^ (n / 2) = half ∨ k / 2 ^ (n / 2) = half →
      ∃ u : State, exec (.lanesLocked lane m) s = .next (((u.noteTrunk l).noteGaps l).raise { code := 0x02, unit := uPort l, d0 := BitVec.ofNat 64 k })
        ∧ (u.port l).state = .align ∧ (u.port l).width = p.width - 1 ∧ (u.port l).downsh = true) := by
  intro l p n k half
  dsimp only [exec, execLanesLocked]
  rw [State.onPort_state on train]
  refine ⟨fun all => ?_, fun partly shift two locked => ?_⟩
  · refine ⟨_, congrArg _ ((if_pos all).trans (s.toState_eq l .align)), ?_, ?_⟩ <;> simp [p]
  · refine ⟨_, congrArg _ ((if_neg partly).trans ((if_pos ⟨shift, two, locked⟩).trans (congrArg (State.raise · _) (State.updPort_toState ..)))), ?_, ?_, ?_⟩ <;> simp [p, l]

/-- A port that fails to align trains again, three times at most (R69, R70). -/
theorem exec_alignTimeout (align : (s.port lane.toNat).state = .align) :
    let l := lane.toNat
    ((s.port l).tries < 3 →
      ∃ u : State, exec (.alignTimeout lane) s = .next ((u.noteTrunk l).noteGaps l) ∧ (u.port l).state = .train ∧ (u.port l).tries = (s.port l).tries + 1)
    ∧ (3 ≤ (s.port l).tries → exec (.alignTimeout lane) s = .next (s.goDown l)) := by
  intro l
  dsimp only [exec, execAlignTimeout]
  rw [State.onPort_state on align]
  refine ⟨fun few => ?_, fun many => congrArg _ (if_neg (Nat.not_lt.mpr many))⟩
  refine ⟨_, congrArg _ ((if_pos few).trans ((congrArg (State.toState · l .train) (State.updPort_updPort ..)).trans (State.updPort_toState ..))), ?_, ?_⟩ <;> simp [l]

end

/-- Settles O31: each command by the transition it asks of the port. -/
theorem portsTrain : Obligations.PortsTrain := by
  refine ⟨?_, fun s l => s.toRetrain_cases l⟩
  intro s lane l p down on
  refine ⟨fun align => ?_, fun active waiting => ?_, fun m train => exec_lanesLocked on m train, fun train => ?_,
    fun align few => (exec_alignTimeout on align).1 few, fun align many => ?_, fun retrain => ?_, fun retrain => ?_, fun active cable => ?_⟩
  · refine ⟨_, (exec_alignDone on align).trans (congrArg _ (s.toHello_eq l)), ?_, ?_, ?_, ?_, ?_, ?_, rfl⟩ <;> simp [Port.atHello]
  · rw [exec_replayTimeout on active waiting]
    simp only [Host.Outcome.next.injEq]
    exact s.replay_cases l
  · exact (exec_trainTimeout on train).trans (congrArg _ (State.goDown_enabled on (ne_of_same train (by decide))))
  · exact ((exec_alignTimeout on align).2 many).trans (congrArg _ (State.goDown_enabled on (ne_of_same align (by decide))))
  · intro u
    dsimp only [exec, execRetrainSuccess]
    exact State.onPort_state on retrain _
  · exact (exec_retrainTimeout on retrain).trans (congrArg _ (State.goDown_enabled on (ne_of_same retrain (by decide))))
  · exact exec_lossOfSignal on active cable

end Sys2Proof.Machine
end

section
/-! The join handshake of a port (R59 to R61, R72 to R83, R506). -/

namespace Sys2Proof.Machine

/-! ### Join messages -/

/-- Nothing lies above the fields of a slot. -/
theorem sbits_packSlot_above {l : List (Nat × Nat)} {lo n : Nat} (fits : packWidth l ≤ 128) (above : packWidth l ≤ lo) : sbits (packSlot l) lo n = 0 := by
  rw [sbits, packSlot_toNat fits, bits, Nat.div_eq_of_lt (Nat.lt_of_lt_of_le (pack_lt l) (Nat.pow_le_pow_right (by decide) above)), Nat.zero_mod]

section
variable (s : State) (l jtype : Nat) (eid : Eid) (inc : Inc) (reason nonce ns turn : Nat)

/-- A message of this port spells its fields (R73). -/
theorem State.joinMsg_fields (small : jtype < 16) (hns : turn < 2 ^ 16) :
    let m := s.joinMsg l jtype eid inc reason nonce ns turn
    m.jtype = jtype ∧ m.role = 1 ∧ m.eid = eid ∧ m.inc = inc ∧ m.nonce = BitVec.ofNat 32 nonce ∧ sbits m.s1 74 16 = turn := by
  intro m
  have field {lo w v : Nat} (a b : List (Nat × Nat))
      (h : [(4, jtype), (2, 1), (2, 0), (12, eid.toNat), (8, inc.toNat), (4, reason), (32, nonce)] = a ++ (w, v) :: b) (hlo : lo = packWidth a) :
      sbits m.s0 lo w = v % 2 ^ w := sbits_packSlot a b (by simp) h hlo
  have turned : sbits m.s1 74 16 = turn % 2 ^ 16 := sbits_packSlot [_, _] _ (by simp) rfl rfl
  refine ⟨?_, field [_] _ rfl rfl, ?_, ?_, ?_, turned.trans (Nat.mod_eq_of_lt hns)⟩
  · exact (field [] _ rfl rfl).trans (Nat.mod_eq_of_lt small)
  · exact (congrArg _ (field [_, _, _] _ rfl rfl)).trans (by rw [Nat.mod_eq_of_lt eid.isLt, BitVec.ofNat_toNat, BitVec.setWidth_eq])
  · exact (congrArg _ (field [_, _, _, _] _ rfl rfl)).trans (by rw [Nat.mod_eq_of_lt inc.isLt, BitVec.ofNat_toNat, BitVec.setWidth_eq])
  · exact (congrArg _ (field [_, _, _, _, _, _] _ rfl rfl)).trans (BitVec.eq_of_toNat_eq (by simp))

/-- … and has a legal encoding. -/
theorem State.joinMsg_legal (known : jtype ≤ 6) (hturn : turn < 2 ^ 16) : (s.joinMsg l jtype eid inc reason nonce ns turn).legal = true := by
  obtain ⟨kind, role, -⟩ := s.joinMsg_fields l jtype eid inc reason nonce ns turn (by omega) hturn
  have reserved : sbits (s.joinMsg l jtype eid inc reason nonce ns turn).s0 6 2 = 0 := sbits_packSlot [_, _] _ (by simp) rfl rfl
  have top0 : sbits (s.joinMsg l jtype eid inc reason nonce ns turn).s0 64 64 = 0 := sbits_packSlot_above (by simp) (by simp)
  have top1 : sbits (s.joinMsg l jtype eid inc reason nonce ns turn).s1 93 35 = 0 := sbits_packSlot_above (by simp) (by simp)
  simp [JoinMsg.legal, kind, role, reserved, top0, top1, known]

end

/-- A JOIN flit leaves by itself; from an ACTIVE port it carries the acknowledgements too (R59, R73). -/
theorem State.sendJoinFlit_effect {s : State} {l : Nat} (running : s.boot.halted = false) (m : JoinMsg) :
    ∃ h : BitVec 64, (s.sendJoinFlit l m).out = s.out ++ [.flit l (joinFlitOf h m)] ∧ sbits h 0 4 = 2
      ∧ ((s.port l).state ≠ .active → h = 2 ∧ s.sendJoinFlit l m = s.emit (.flit l (joinFlitOf 2 m))) := by
  unfold State.sendJoinFlit
  by_cases active : (s.port l).state = .active
  · have rest := s.nextHeader_ports l 2 0 0 false
    have halted : (s.nextHeader l 2 0 0 false).2.boot.halted = false := (congrArg (·.boot.halted) rest :).trans running
    refine ⟨(s.nextHeader l 2 0 0 false).1, ?_, (s.nextHeader_fields l 2 0 0 false (by decide)).1, fun idle => absurd active idle⟩
    rw [if_pos active]
    refine (congrArg State.out (if_neg (by simp [halted]) : (s.nextHeader l 2 0 0 false).2.send _ = _)).trans ?_
    exact congrArg (· ++ _) (congrArg State.out rest :)
  · rw [if_neg active]
    have sent : s.send (.flit l (mkFlit (pack64 [(4, 2)]) [m.s0, m.s1, m.s2])) = s.emit (.flit l (joinFlitOf 2 m)) := if_neg (by simp [running])
    exact ⟨2, congrArg State.out sent, rfl, fun _ => ⟨rfl, sent⟩⟩

/-! ### JREQ -/

theorem tget_foldl_tset {α : Type} [DecidableEq α] (f : Nat → α) (d : α) (k : Nat) (l : List Nat) (t : Tbl α) :
    tget (l.foldl (fun t k => tset t k (f k) d) t) k d = if k ∈ l then f k else tget t k d := by
  induction l generalizing t with
  | nil => rfl
  | cons a l ih =>
    rw [List.foldl_cons, ih]
    by_cases h : k = a
    · subst h
      simp
    · simp [h, tget_tset_other _ _ _ h]

/-- The credits that a peer advertises (R73, R77). -/
def joinCredits (m : JoinMsg) : Tbl (BitVec 16) := (List.range 8).foldl (fun t k => tset t k (BitVec.ofNat 16 (sbits m.s2 (16 * k) 16)) 0) []

theorem joinCredits_get (m : JoinMsg) {k : Nat} (hk : k < 8) : (tget (joinCredits m) k 0).toNat = sbits m.s2 (16 * k) 16 := by
  rw [joinCredits, tget_foldl_tset, if_pos (List.mem_range.mpr hk), BitVec.toNat_ofNat]
  exact Nat.mod_eq_of_lt (Nat.mod_lt _ (Nat.two_pow_pos _))

/-- A port in which a JREQ is looked at: it has returned to HELLO when it was ACTIVE. -/
def State.heard (b : State) (l : Nat) : State := if (b.port l).state = .active then (b.flush l).toHello l else b

/-- How a port answers a JREQ that is new to it (R74, R75, R83). -/
theorem State.rxJreq_cases {b : State} {l : Nat} {m : JoinMsg}
    (hears : (b.port l).state = .hello ∨ (b.port l).state = .joining ∨ (b.port l).state = .active ∨ (b.port l).state = .fenced) (kind : m.jtype = 0)
    (new : ∀ j, ((b.heard l).port l).jreq = some j → j.nonce ≠ m.nonce) :
    let w := b.heard l
    let u := w.updPort l (fun p => { p with
      jreq := some { eid := m.eid, inc := m.inc, role := BitVec.ofNat 2 m.role, nonce := m.nonce, pending := false, decided := false, since := w.now }
      grant := none, peerCr := joinCredits m })
    (w.joinReason l m = none → b.rxJreq l m = if (w.port l).state = .hello then (if 8 ≤ (w.port l).probes.length then u.toAdmit l else u) else u.toAdmit l)
    ∧ (∀ r, w.joinReason l m = some r → b.rxJreq l m = if (w.port l).state = .joining then (w.sendJoin l 2 m.eid m.inc r m.nonce).toHello l
        else w.sendJoin l 2 m.eid m.inc r m.nonce) := by
  intro w u
  have fresh : ((match (w.port l).jreq with | some j => decide (j.nonce = m.nonce) | none => false) = true) = False := by
    cases h : (w.port l).jreq with
    | none => simp
    | some j => simpa using new j h
  have looked : b.rxJreq l m = _ := (if_neg (by exact fun h => h.elim (· hears) (· kind))).trans (if_neg fresh.mp)
  refine ⟨fun ok => ?_, fun r no => ?_⟩
  · rw [looked]
    change (match w.joinReason l m with | some r => _ | none => _) = _
    rw [ok]
    rfl
  · rw [looked]
    change (match w.joinReason l m with | some r => _ | none => _) = _
    rw [no]
    rfl

/-! ### Grants and answers -/

/-- A port that becomes ACTIVE takes on its peer, with its counters at zero (R77). -/
theorem State.toActive_effect (s : State) (l : Nat) (e : Eid) (i : Inc) (role : BitVec 2) :
    ∃ u : State, s.toActive l e i role = ((u.noteTrunk l).noteGaps l).settleAll ∧ (u.port l).state = .active ∧ (u.port l).peerEid = e ∧ (u.port l).peerInc = i
      ∧ (u.port l).role = role ∧ (u.port l).txSeq = 0 ∧ (u.port l).rxSeq = 0 ∧ (u.port l).heldCr = (s.port l).peerCr ∧ (u.port l).unacked = [] ∧ u.incOf e = i := by
  refine ⟨_, rfl, ?_⟩
  simp only [State.port_updPort, State.port_setInc, State.incOf_updPort]
  exact ⟨trivial, trivial, trivial, trivial, trivial, trivial, trivial, trivial, tget_tset_same ..⟩

theorem State.joinBase_idle {s : State} {l : Nat} (idle : (s.port l).state ≠ .active) (f : Flit) : s.joinBase l f = s := if_neg idle

section
variable {s : State} {lane : Lane} (on : (s.port lane.toNat).enabled = true)
include on

theorem exec_jconfirm {f : Flit} {e : Eid} {i : Inc} {d : JobId} {j : JoinReq} (grant : (s.port lane.toNat).grant = some (e, i, d))
    (req : (s.port lane.toNat).jreq = some j) (joining : (s.port lane.toNat).state = .joining) (flit : JoinFlit f) (kind : f.join.jtype = 3)
    (eid : f.join.eid = e) (inc : f.join.inc = i) (nonce : f.join.nonce = j.nonce) (soon : s.now < endOf (s.port lane.toNat).grantAt 10) :
    exec (.jconfirm lane f) s = .next (s.toActive lane.toNat e i (j.role + 1)) := by
  dsimp only [exec, execJconfirm]
  rw [State.onJoin_legal on flit, State.joinBase_idle (ne_of_same joining (by decide))]
  simp only [State.rxConfirm, grant, req]
  exact congrArg _ (if_pos ⟨joining, kind, eid, inc, nonce, soon⟩)

theorem exec_jconfirmTimeout (joining : (s.port lane.toNat).state = .joining) (grant : (s.port lane.toNat).grant.isSome = true)
    (late : endOf (s.port lane.toNat).grantAt 10 ≤ s.now) : exec (.jconfirmTimeout lane) s = .next (s.toHello lane.toNat) :=
  State.onPort_enabled (c := fun p => p.state = .joining && p.grant.isSome && endOf p.grantAt 10 ≤ s.now) on (by simp [joining, grant, late]) (fun l s => s.toHello l)

theorem exec_joinDecisionTimeout {j : JoinReq} (joining : (s.port lane.toNat).state = .joining) (req : (s.port lane.toNat).jreq = some j)
    (pending : j.pending = true) (open_ : j.decided = false) (late : endOf j.since 100000 ≤ s.now) :
    exec (.joinDecisionTimeout lane) s = .next ((s.sendJoin lane.toNat 2 j.eid j.inc 4 j.nonce).toHello lane.toNat) := by
  dsimp only [exec, execJoinDecisionTimeout]
  rw [State.onPort_state on joining]
  simp only [req]
  exact congrArg _ (if_pos ⟨pending, by simp [open_], late⟩)

/-! ### What a port in HELLO sends -/

theorem exec_jreqResend (ns : Ns) (hello : (s.port lane.toNat).state = .hello) (open_ : (s.port lane.toNat).replied = false)
    (due : ∀ t, (s.port lane.toNat).jreqAt = some t → t + 10 ≤ s.now) (running : s.boot.halted = false) :
    let l := lane.toNat
    ∃ t : State, exec (.jreqResend lane ns) s = .next t ∧ (t.port l).jreqAt = some s.now
      ∧ ∃ k : JoinMsg, t.out = s.out ++ [.flit l (joinFlitOf 2 k)] ∧ k.jtype = 0 ∧ k.role = 1 ∧ k.eid = s.selfEid ∧ k.inc = s.selfInc
        ∧ k.nonce = (s.port l).nonce ∧ k.legal = true := by
  intro l
  have asked : (match (s.port l).jreqAt with | some t => decide (t + 10 ≤ s.now) | none => true) = true := by
    cases h : (s.port l).jreqAt with
    | none => rfl
    | some t => exact decide_eq_true (due t h)
  let u := s.updPort l (fun p => { p with jreqAt := some s.now })
  have port : u.port l = _ := State.port_updPort ..
  have idle : (u.port l).state ≠ .active := by rw [port]; exact ne_of_same hello (by decide)
  let k := u.joinMsg l 0 s.selfEid s.selfInc 0 (u.port l).nonce.toNat ns.val 0
  have sent : u.sendJoinFlit l k = u.emit (.flit l (joinFlitOf 2 k)) := by
    obtain ⟨h, _, _, plain⟩ := State.sendJoinFlit_effect (s := u) (l := l) running k
    exact (plain idle).2
  obtain ⟨kind, role, eid, inc, nonce, -⟩ := u.joinMsg_fields l 0 s.selfEid s.selfInc 0 (u.port l).nonce.toNat ns.val 0 (by decide) (by decide)
  refine ⟨u.emit (.flit l (joinFlitOf 2 k)), ?_, ?_, k, rfl, kind, role, eid, inc, ?_, u.joinMsg_legal _ _ _ _ _ _ _ _ (by decide) (by decide)⟩
  · dsimp only [exec, execJreqResend]
    rw [State.onPort_enabled on (by rw [hello, open_]; exact asked)]
    exact congrArg _ sent
  · exact congrArg Port.jreqAt port
  · rw [nonce]
    simp [u]

theorem exec_probeSend (ns : Ns) (hello : (s.port lane.toNat).state = .hello) (due : (s.port lane.toNat).probeAt ≠ some s.now) (running : s.boot.halted = false) :
    let l := lane.toNat
    ∃ t : State, exec (.probeSend lane ns) s = .next t ∧ (t.port l).probeAt = some s.now ∧ (t.port l).probeQ = (s.port l).probeQ ++ [(s.now, ns.val)]
      ∧ ∃ k : JoinMsg, t.out = s.out ++ [.flit l (joinFlitOf 2 k)] ∧ k.jtype = 4 ∧ k.legal = true := by
  intro l
  let u := s.updPort l (fun p => { p with probeAt := some s.now, probeQ := p.probeQ ++ [(s.now, ns.val)] })
  have port : u.port l = _ := State.port_updPort ..
  have idle : (u.port l).state ≠ .active := by rw [port]; exact ne_of_same hello (by decide)
  let k := u.joinMsg l 4 0 0 0 0 ns.val 0
  have sent : u.sendJoinFlit l k = u.emit (.flit l (joinFlitOf 2 k)) := by
    obtain ⟨h, _, _, plain⟩ := State.sendJoinFlit_effect (s := u) (l := l) running k
    exact (plain idle).2
  refine ⟨u.emit (.flit l (joinFlitOf 2 k)), ?_, ?_, ?_, k, rfl, (u.joinMsg_fields _ _ _ _ _ _ _ _ (by decide) (by decide)).1,
    u.joinMsg_legal _ _ _ _ _ _ _ _ (by decide) (by decide)⟩
  · dsimp only [exec, execProbeSend]
    rw [State.onPort_enabled on (by simp [hello, due])]
    exact congrArg _ sent
  · exact congrArg Port.probeAt port
  · exact congrArg Port.probeQ port

/-! ### PROBE, ECHO and the answers to a JREQ -/

theorem exec_probe {f : Flit} (ns turn : Ns) (flit : JoinFlit f) (kind : f.join.jtype = 4) :
    let l := lane.toNat
    let b := s.joinBase l f
    (b.port l).state = .hello ∨ (b.port l).state = .joining ∨ (b.port l).state = .fenced ∨ (b.port l).state = .active → b.boot.halted = false →
    ∃ t : State, ∃ h : BitVec 64, ∃ k : JoinMsg, exec (.probe lane f ns turn) s = .next t ∧ t.out = b.out ++ [.flit l (joinFlitOf h k)] ∧ sbits h 0 4 = 2
      ∧ k.jtype = 5 ∧ k.nonce = f.join.nonce ∧ sbits k.s1 74 16 = turn.val ∧ k.legal = true ∧ ((b.port l).state ≠ .active → h = 2 ∧ t.ports = b.ports) := by
  intro l b hears running
  have wide : turn.val < 2 ^ 16 := Nat.lt_trans turn.isLt (by decide)
  let k := b.joinMsg l 5 0 0 0 f.join.nonce.toNat ns.val turn.val
  obtain ⟨h, out, join, plain⟩ := State.sendJoinFlit_effect (l := l) running k
  obtain ⟨five, -, -, -, nonce, turned⟩ := b.joinMsg_fields l 5 0 0 0 f.join.nonce.toNat ns.val turn.val (by decide) wide
  refine ⟨b.sendJoinFlit l k, h, k, ?_, out, join, five, nonce.trans (by simp), turned, b.joinMsg_legal _ _ _ _ _ _ _ _ (by decide) wide,
    fun idle => ⟨(plain idle).1, (congrArg State.ports (plain idle).2).trans rfl⟩⟩
  dsimp only [exec, execProbe]
  rw [State.onJoin_legal on flit]
  exact congrArg _ (if_pos ⟨kind, hears⟩)

theorem exec_echo {f : Flit} (ns : Ns) {t n : Nat} {rest : List (Nat × Nat)} (hello : (s.port lane.toNat).state = .hello) (flit : JoinFlit f)
    (kind : f.join.jtype = 5) (asked : (s.port lane.toNat).probeQ = (t, n) :: rest) :
    let l := lane.toNat
    let p := s.port l
    let ds := p.probes ++ [((s.now * 1000 + ns.val) - (t * 1000 + n) - sbits f.join.s1 74 16) / 2]
    ∃ u : State, exec (.echo lane f ns) s = .next (if ds.length = 8 ∧ p.jreq.isSome = true then u.toAdmit l else u) ∧ (u.port l).probes = ds
      ∧ (u.port l).probeQ = rest ∧ (ds.length = 8 → (u.port l).delay = BitVec.ofNat 16 (ds.foldl min (ds.getLastD 0))) ∧ u = { s with ports := u.ports } := by
  intro l p ds
  dsimp only [exec, execEcho]
  rw [State.onJoin_legal on flit, State.joinBase_idle (ne_of_same hello (by decide))]
  simp only [asked]
  rw [if_neg (by simp [hello, kind])]
  simp only [State.port_updPort]
  have last : ds.getLastD 0 = ((s.now * 1000 + ns.val) - (t * 1000 + n) - sbits f.join.s1 74 16) / 2 := by simp [ds]
  by_cases full : ds.length = 8
  · refine ⟨_, congrArg _ ((if_pos full).trans (ite_congr (propext (and_iff_right full).symm) (fun _ => rfl) fun _ => rfl)), ?_, ?_, fun _ => ?_, rfl⟩
    · simp [ds, p, l]
    · simp [l]
    · rw [last]
      simp [ds, p, l]
  · refine ⟨_, congrArg _ ((if_neg full).trans (if_neg fun h => full h.1).symm), ?_, ?_, fun h => absurd h full, rfl⟩
    · simp [ds, p, l]
    · simp [l]

theorem exec_joinReply {f : Flit} (waits : (s.port lane.toNat).state = .hello ∨ (s.port lane.toNat).state = .joining) (flit : JoinFlit f)
    (own : f.join.nonce = (s.port lane.toNat).nonce) :
    let l := lane.toNat
    let m := f.join
    (m.jtype = 1 → ∃ u : State, exec (.joinReply lane f) s = .next (u.sendJoin l 3 m.eid m.inc 0 m.nonce) ∧ (u.port l).replied = true ∧ u = { s with ports := u.ports })
    ∧ (m.jtype = 2 → (s.port l).state = .hello → ∃ t : State, exec (.joinReply lane f) s = .next t ∧ (t.port l).replied = true ∧ t = { s with ports := t.ports })
    ∧ (m.jtype = 2 → (s.port l).state = .joining →
        ∃ u : State, exec (.joinReply lane f) s = .next ((u.noteTrunk l).noteGaps l) ∧ (u.port l).state = .hello ∧ (u.port l).jreq = none) := by
  intro l m
  have idle : (s.port lane.toNat).state ≠ .active := by rcases waits with h | h <;> rw [h] <;> decide
  dsimp only [exec, execJoinReply]
  rw [State.onJoin_legal on flit, State.joinBase_idle idle]
  rw [if_neg (by exact fun h => h.elim (· waits) (· own))]
  refine ⟨fun grant => ⟨_, congrArg _ (if_pos grant), by simp [l], rfl⟩, fun deny hello => ?_, fun deny joining => ?_⟩
  · exact ⟨_, congrArg _ ((if_neg (ne_of_same deny (by decide))).trans ((if_pos deny).trans (if_neg (ne_of_same hello (by decide))))), by simp [l], rfl⟩
  · refine ⟨_, congrArg _ ((if_neg (ne_of_same deny (by decide))).trans ((if_pos deny).trans ((if_pos joining).trans (s.toHello_eq l)))), ?_, ?_⟩ <;> simp [Port.atHello]

end

/-- Settles O32: each command of the handshake by its own lemma. -/
theorem portsJoin : Obligations.PortsJoin := by
  intro s lane f ns turn l p m b on
  refine ⟨fun w hw flit kind new => ?_, fun e i d j grant req joining flit kind eid inc nonce soon => ?_, fun joining grant late => ?_,
    fun j joining req pending open_ late => exec_joinDecisionTimeout on joining req pending open_ late,
    fun hello open_ due running => exec_jreqResend on ns hello open_ due running, fun hello due running => exec_probeSend on ns hello due running,
    fun hears flit kind running => exec_probe on ns turn flit kind hears running, fun t n rest hello flit kind asked => exec_echo on ns hello flit kind asked,
    fun waits flit own => exec_joinReply on waits flit own⟩
  · have heard : w = b.heard l ∧ ((b.port l).state = .hello ∨ (b.port l).state = .joining ∨ (b.port l).state = .active ∨ (b.port l).state = .fenced) := by
      unfold State.heard
      split at hw
      next active => exact ⟨by rw [if_pos active, hw], .inr (.inr (.inl active))⟩
      next idle => exact ⟨by rw [if_neg idle, hw.1], hw.2.imp_right (Or.imp_right .inr)⟩
    obtain ⟨rfl, hears⟩ := heard
    have taken : exec (.jreq lane f) s = .next (b.rxJreq l m) := State.onJoin_legal on flit (fun l m s => s.rxJreq l m)
    obtain ⟨ok, no⟩ := State.rxJreq_cases hears kind new
    rw [taken]
    refine ⟨fun none => ⟨_, congrArg _ (ok none), by simp, fun k hk => ?_, rfl⟩, fun r deny other => congrArg _ ((no r deny).trans (if_neg other)),
      fun r deny joining => congrArg _ ((no r deny).trans (if_pos joining))⟩
    rw [State.port_updPort]
    exact joinCredits_get m hk
  · rw [exec_jconfirm on grant req joining flit kind eid inc nonce soon]
    simp only [Host.Outcome.next.injEq]
    exact s.toActive_effect l e i (j.role + 1)
  · refine ⟨_, (exec_jconfirmTimeout on joining grant late).trans (congrArg _ (s.toHello_eq l)), ?_, ?_, ?_⟩ <;> simp [Port.atHello]

end Sys2Proof.Machine
end

section
/-! What the work of a home leaves alone: ports, trunks and every table but its own, and the canonical form of memory. -/

namespace Sys2Proof.Machine

/-- The state without what a home works on: memory and its poison and LOST bits, contexts that wait for it, split requests. -/
def State.offHome (s : State) : State := { s.still with mem := [], poison := [], lost := [], ctxs := [], joins := [] }

/-- A home has gone from `s` to `t`: all else is as it was, ports and trunks but for their counts of traffic, and memory keeps its canonical form. -/
structure Tended (s t : State) : Prop where
  rest : t.offHome = s.offHome
  port (l : Nat) : (t.port l).offOwed = (s.port l).offOwed
  trunk (k : Nat) : (t.trunk k).offPseq = (s.trunk k).offPseq
  sound : Memory.wf s.mem = true → Memory.wf t.mem = true

/-- The equation of `State.snoops` at a further agent, by its recursor: to unfold it by `rfl` would unfold the search for a free tag too. -/
theorem State.snoops_cons (s : State) (g p l mt : Nat) (own : Bool) (fwd : Option Pkt) (e : Nat) (r : List Nat) :
    s.snoops g p l mt own fwd (e :: r) = match s.snoop g p l mt e own fwd with
      | none => none
      | some (n, s) => match s.snoops g p l mt own fwd r with
        | none => none
        | some (ns, s) => some (n :: ns, s) := by
  conv =>
    lhs
    delta State.snoops State.snoops._f
    dsimp only
  generalize s.snoop g p l mt e own fwd = o
  rcases o with _ | ⟨n, u⟩
  · rfl
  · dsimp only
    (conv =>
      rhs
      delta State.snoops State.snoops._f
      dsimp only) <;> delta List.brecOn.go <;> dsimp only <;> rfl

theorem State.snoops_nil (s : State) (g p l mt : Nat) (own : Bool) (fwd : Option Pkt) : s.snoops g p l mt own fwd [] = some ([], s) := by exact rfl

namespace Tended

theorem refl (s : State) : Tended s s := ⟨rfl, fun _ => rfl, fun _ => rfl, id⟩

theorem trans {s t u : State} (h : Tended s t) (g : Tended t u) : Tended s u :=
  ⟨g.rest.trans h.rest, fun l => (g.port l).trans (h.port l), fun k => (g.trunk k).trans (h.trunk k), fun w => g.sound (h.sound w)⟩

theorem of_traffic {s t : State} (h : t.offTraffic = s.offTraffic) : Tended s t :=
  have still := State.still_of_offTraffic h
  ⟨congrArg (fun x : State => { x with mem := [], poison := [], lost := [], ctxs := [], joins := [] }) still, State.port_of_offTraffic h, State.trunk_of_offTraffic h,
    fun w => (congrArg State.mem still :).symm ▸ w⟩

theorem foldl {α : Type} {f : State → α → State} (h : ∀ s x, Tended s (f s x)) (l : List α) (s : State) : Tended s (l.foldl f s) := by
  induction l generalizing s with
  | nil => exact refl s
  | cons x l ih => exact (h s x).trans (ih _)

theorem updBlk (s : State) (g : Nat) (f : Block → Block) : Tended s (s.updBlk g f) := ⟨rfl, fun _ => rfl, fun _ => rfl, id⟩
theorem updQtr (s : State) (q : Nat) (f : Quarter → Quarter) : Tended s (s.updQtr q f) := ⟨rfl, fun _ => rfl, fun _ => rfl, id⟩
theorem setPoison (s : State) (p l : Nat) (on : Bool) : Tended s (s.setPoison p l on) := ⟨rfl, fun _ => rfl, fun _ => rfl, id⟩
theorem setLost (s : State) (p l : Nat) (on : Bool) : Tended s (s.setLost p l on) := ⟨rfl, fun _ => rfl, fun _ => rfl, id⟩
theorem setJoin (s : State) (j : Tbl (Option Join)) : Tended s { s with joins := j } := ⟨rfl, fun _ => rfl, fun _ => rfl, id⟩

theorem poke (s : State) (p a : Nat) (v : Byte) : Tended s (s.poke p a v) := ⟨rfl, fun _ => rfl, fun _ => rfl, s.poke_wf p a v⟩

theorem pokes (s : State) (p a : Nat) (l : List Byte) : Tended s (s.pokes p a l) := by
  induction l generalizing s a with
  | nil => exact refl s
  | cons v l ih => exact (poke s p a v).trans (ih ..)

theorem raise (s : State) (e : Event) : Tended s (s.raise e) := .of_traffic (s.raise_offTraffic e)
theorem sendBlk (s : State) (g : Nat) (m : Msg) : Tended s (s.sendBlk g m) := .of_traffic (s.sendBlk_offTraffic g m)

/-! ### The directory and its hot lines -/

theorem setEnt (s : State) (g l : Nat) (e : DirEnt) : Tended s (s.setEnt g l e) := updBlk ..
theorem updEnt (s : State) (g l : Nat) (f : DirEnt → DirEnt) : Tended s (s.updEnt g l f) := setEnt ..

theorem setMode (s : State) (g l : Nat) (m : DirMode) : Tended s (s.setMode g l m) := by
  unfold State.setMode
  extract_lets e n
  split
  · exact (updBlk ..).trans (setEnt ..)
  · exact setEnt ..

theorem setHot (s : State) (g k : Nat) (h : Option Hot) : Tended s (s.setHot g k h) := updBlk ..

theorem linePut (s : State) (g p l o : Nat) (v : List Byte) (pois clears : Bool) : Tended s (s.linePut g p l o v pois clears) := by
  have written := pokes s p (128 * l + o) v
  unfold State.linePut
  split
  · exact setHot ..
  · dsimp only
    split
    · exact written.trans (setPoison ..)
    · split
      · exact written.trans ((setPoison ..).trans (setLost ..))
      · exact written

theorem lineWrite (s : State) (g p l o : Nat) (v : List Byte) (pois : Bool) : Tended s (s.lineWrite g p l o v pois) := linePut ..
theorem lineReturn (s : State) (g p l : Nat) (v : List Byte) (pois : Bool) : Tended s (s.lineReturn g p l v pois) := linePut ..

theorem lineUnlost (s : State) (g p l : Nat) : Tended s (s.lineUnlost g p l) := by
  unfold State.lineUnlost
  split
  · exact setHot ..
  · exact setLost ..

theorem markLost (s : State) (g p l : Nat) (e : Eid) (i : Inc) : Tended s (s.markLost g p l e i) := by
  unfold State.markLost
  exact (setLost ..).trans (updBlk ..)

theorem settleOwner (s : State) (g p l : Nat) : Tended s (s.settleOwner g p l) := by
  unfold State.settleOwner
  split
  · split
    · exact refl s
    · exact (markLost ..).trans (updEnt ..)
  · exact refl s

theorem countServed (s : State) (g l : Nat) : Tended s (s.countServed g l) := by
  unfold State.countServed
  split
  · exact setHot ..
  · exact refl s

theorem enterHot (s : State) (g p l k : Nat) : Tended s (s.enterHot g p l k) := by
  unfold State.enterHot
  extract_lets h u
  exact ((setHot ..).trans (updBlk ..)).trans (updEnt ..)

/-! ### Answers -/

theorem reply (s : State) (g : Nat) (m : Msg) (mt : Nat) (st : Status) (x data : List Slot) : Tended s (s.reply g m mt st x data) := sendBlk ..
theorem grant (s : State) (g p : Nat) (m : Msg) (mt l : Nat) : Tended s (s.grant g p m mt l) := reply ..

theorem answer (s : State) (g : Nat) (m : Msg) (order : List Nat) (got : Tbl (List Byte)) (pois : List Nat) (fails : Tbl Status) (bad : Option Status) :
    Tended s (s.answer g m order got pois fails bad) := by
  unfold State.answer
  dsimp only
  repeat' split
  all_goals exact reply ..

theorem joinPart (s : State) (g j first : Nat) (st : Status) (got : Tbl (List Byte)) (pois : List Nat) (fails : Tbl Status) :
    Tended s (s.joinPart g j first st got pois fails) := by
  unfold State.joinPart
  split
  · exact refl s
  · dsimp only
    split
    · exact (setJoin ..).trans (answer ..)
    · exact setJoin ..

theorem refuse (s : State) (g : Nat) (m : Msg) (st : Status) : Tended s (s.refuse g m st) := by
  unfold State.refuse
  split
  · exact joinPart ..
  · exact reply ..

theorem finish (s : State) (g : Nat) (w : Work) : Tended s (s.finish g w) := by
  unfold State.finish
  dsimp only
  split
  · exact joinPart ..
  · exact answer ..

theorem atDone (s : State) (g : Nat) (m : Msg) (v : BitVec 128) : Tended s (s.atDone g m v) := reply ..

theorem atEarly {s t : State} {g : Nat} {m : Msg} {tn : Nat} (h : s.atEarly g m tn = some t) : Tended s t := by
  unfold State.atEarly at h
  split at h
  case h_4 => cases h
  all_goals
    obtain rfl := Option.some.inj h
    exact (updBlk ..).trans (reply ..)

theorem atPerform (s : State) (g p : Nat) (m : Msg) (tn : Nat) : Tended s (s.atPerform g p m tn) := by
  unfold State.atPerform
  split
  next h => exact atEarly h
  next =>
    dsimp only
    split
    · exact reply ..
    · split
      · exact (updBlk ..).trans (reply ..)
      · refine .trans ?_ (atDone ..)
        split
        · exact (updBlk ..).trans (lineWrite ..)
        · exact updBlk ..

/-! ### Snoops -/

theorem tagTake {s t : State} {g : Nat} {deid : Eid} {h : Holder} {atom : Bool} {tag : Tag} (ht : s.tagTake g deid h atom = some (tag, t)) : Tended s t := by
  unfold State.tagTake at ht
  extract_lets q at ht
  split at ht
  · cases ht
  · rw [Option.some.injEq, Prod.mk.injEq] at ht
    exact ht.2 ▸ updQtr ..

theorem tagFreed (s : State) (q : Nat) (deid : Eid) : Tended s (s.tagFreed q deid) := ⟨rfl, fun _ => rfl, fun _ => rfl, id⟩

theorem tagDrop (s : State) (tag : Tag) (deid : Eid) : Tended s (s.tagDrop tag deid) := (updQtr ..).trans (tagFreed ..)

theorem snoop {s t : State} {g p l mt e : Nat} {own : Bool} {fwd : Option Pkt} {n : Snoop} (h : s.snoop g p l mt e own fwd = some (n, t)) : Tended s t := by
  unfold State.snoop at h
  extract_lets eid at h
  split at h
  · cases h
  next ht =>
    obtain ⟨-, rfl⟩ := Prod.mk.inj (Option.some.inj h)
    exact (tagTake ht).trans (sendBlk ..)

theorem snoops {s t : State} {g p l mt : Nat} {own : Bool} {fwd : Option Pkt} {es : List Nat} {ns : List Snoop} (h : s.snoops g p l mt own fwd es = some (ns, t)) :
    Tended s t := by
  induction es generalizing s ns with
  | nil =>
    rw [State.snoops_nil] at h
    obtain ⟨-, rfl⟩ := Prod.mk.inj (Option.some.inj h)
    exact refl s
  | cons e r ih =>
    rw [State.snoops_cons] at h
    split at h
    · cases h
    next first =>
      split at h
      · cases h
      next others =>
        obtain ⟨-, rfl⟩ := Prod.mk.inj (Option.some.inj h)
        exact (snoop first).trans (ih others)

theorem recallLine {s t : State} {g p l : Nat} {k : TxnKind} (h : s.recallLine g p l k = some t) : Tended s t := by
  unfold State.recallLine at h
  split at h
  · obtain rfl := Option.some.inj h
    exact refl s
  · have owner := settleOwner s g p l
    dsimp only at h
    split at h
    · obtain rfl := Option.some.inj h
      exact owner.trans (setMode ..)
    · split at h
      · cases h
      · split at h
        · cases h
        next asked =>
          obtain rfl := Option.some.inj h
          exact owner.trans ((snoops asked).trans (updEnt ..))

theorem evictWay {s t : State} {g p l : Nat} (h : s.evictWay g p l = some t) : Tended s t := by
  unfold State.evictWay at h
  dsimp only at h
  split at h
  · cases h
  · split at h
    · cases h
    · rw [Option.map_eq_some_iff] at h
      obtain ⟨u, hu, rfl⟩ := h
      exact (recallLine hu).trans (updBlk ..)

theorem startHot (s : State) (g p l : Nat) : Tended s (s.startHot g p l) := by
  unfold State.startHot
  dsimp only
  split
  · have owner := settleOwner s g p l
    refine owner.trans ?_
    split
    · cases h : (s.settleOwner g p l).evictWay g p l with
      | none => exact refl _
      | some t => exact evictWay h
    · split
      · exact enterHot ..
      · split
        · exact refl _
        · split
          · exact refl _
          next asked => exact (snoops asked).trans (updEnt ..)
  · exact refl s

/-! ### A line's transaction -/

theorem performLine (s : State) (g p : Nat) (w : Work) (l : Nat) : Tended s (s.performLine g p w l).1 := by
  unfold State.performLine
  dsimp only
  split
  · exact lineWrite ..
  · exact lineWrite ..
  · exact lineUnlost ..
  · split <;> exact refl s

theorem setWork (s : State) (g i : Nat) (w : Option Work) : Tended s (s.setWork g i w) := updBlk ..

theorem lineDone (s : State) (g p i l : Nat) (t : Option Txn) : Tended s (s.lineDone g p i l t) := by
  have modeGrant (s : State) (d : DirMode) (m : Msg) (mt : Nat) : Tended s ((s.setMode g l d).grant g p m mt l) := (setMode ..).trans (grant ..)
  have moded (u : State) (a b : Prop) [Decidable a] [Decidable b] (d : DirMode) :
      Tended u (if a then (if b then u.setMode g l d else u) else u.setMode g l .none) := by
    split
    · split
      · exact setMode ..
      · exact refl u
    · exact setMode ..
  unfold State.lineDone
  dsimp only
  split
  next =>
    split
    · exact setMode ..
    · exact refl s
  next w _ =>
    refine (countServed s g l).trans ?_
    split
    · exact ((setWork ..).trans (setMode ..)).trans (refuse ..)
    split
    · exact ((setWork ..).trans (setMode ..)).trans (atPerform ..)
    split
    · refine (setWork (s.countServed g l) g i none).trans ?_
      split
      · exact grant ..
      · split
        · exact grant ..
        · split
          · exact setMode ..
          · exact modeGrant ..
        · repeat' split
          all_goals exact modeGrant ..
        · exact modeGrant ..
    split
    · refine (setWork (s.countServed g l) g i none).trans ?_
      split
      · exact reply ..
      · cases t with
        | none => exact modeGrant ..
        | some x =>
          dsimp only
          split
          · exact setMode ..
          · exact modeGrant ..
    · refine (performLine _ g p w l).trans ?_
      generalize (s.countServed g l).performLine g p w l = r
      obtain ⟨u, v⟩ := r
      dsimp only
      split
      · exact (moded ..).trans (setWork ..)
      · split
        · exact ((moded ..).trans (setWork ..)).trans (reply ..)
        · exact ((moded ..).trans (setWork ..)).trans (finish ..)

theorem settle (s : State) (g p l : Nat) : Tended s (s.settle g p l) := by
  unfold State.settle
  split
  · exact refl s
  · split
    · exact refl s
    · refine .trans ?_ (startHot ..)
      split
      · exact (lineDone ..).trans (updEnt ..)
      · exact setMode ..
      · exact setMode ..
      · split
        · exact enterHot ..
        · exact setMode ..
      · exact updEnt ..

theorem snoopDone (s : State) (g p l : Nat) (tag : Tag) (x : Eid) (fwd keepS : Bool) (data : Option (List Byte × Bool)) :
    Tended s (s.snoopDone g p l tag x fwd keepS data) := by
  unfold State.snoopDone
  split
  · exact refl s
  · refine .trans ?_ ((updEnt ..).trans (settle ..))
    split
    · split
      · exact lineReturn ..
      · exact refl s
    · exact refl s

theorem settleSnoops (s : State) (g p : Nat) : Tended s (s.settleSnoops g p) := by
  refine foldl (fun s e => ?_) _ s
  split
  · exact refl s
  · refine foldl (fun s w => ?_) _ s
    dsimp only
    split
    · exact refl s
    · refine .trans ?_ (snoopDone ..)
      split
      · exact (tagDrop s w.tag w.eid).trans (markLost ..)
      · exact tagDrop ..

theorem settleAll (s : State) : Tended s s.settleAll := by
  refine foldl (fun s e => ?_) _ s
  split
  · exact settleSnoops ..
  · exact refl s

end Tended

end Sys2Proof.Machine
end

section
/-! LINKCTL over ports, joins, trunks and incarnations (R55 to R83, R109, R506). -/

namespace Sys2Proof.Machine

/-! ### What a port's traffic and its changes of state leave of every port and of the incarnations -/

/-- A port without what its traffic moves: landed packets, credits, unacknowledged flits and their counts. -/
def Port.offLink (p : Port) : Port := { p with landing := [], owed := [], crRot := 0, downDisc := 0, unacked := [], nakAck := none, drr := [] }

theorem Port.of_offLink {p q : Port} (h : p.offLink = q.offLink) :
    p.state = q.state ∧ p.off = q.off ∧ p.width = q.width ∧ p.rate = q.rate ∧ p.dshen = q.dshen ∧ p.downsh = q.downsh :=
  ⟨(congrArg Port.state h :), (congrArg Port.off h :), (congrArg Port.width h :), (congrArg Port.rate h :), (congrArg Port.dshen h :), (congrArg Port.downsh h :)⟩

/-- Each port without its traffic, and the current incarnations. -/
def State.linked (s : State) : (Nat → Port) × Tbl Inc := (fun l => (s.port l).offLink, s.eidInc)

theorem State.port_of_linked {s t : State} (h : t.linked = s.linked) (l : Nat) : (t.port l).offLink = (s.port l).offLink := congrFun (congrArg Prod.fst h) l
theorem State.eidInc_of_linked {s t : State} (h : t.linked = s.linked) : t.eidInc = s.eidInc := congrArg Prod.snd h
theorem State.incOf_of_linked {s t : State} (h : t.linked = s.linked) (e : Eid) : t.incOf e = s.incOf e :=
  congrArg (fun x : Tbl Inc => tget x e.toNat 0) (congrArg Prod.snd h)
theorem State.portState_of_linked {s t : State} (h : t.linked = s.linked) (l : Nat) : (t.port l).state = (s.port l).state :=
  (congrArg Port.state (State.port_of_linked h l) :)

theorem Tended.linked {s t : State} (h : Tended s t) : t.linked = s.linked :=
  Prod.ext (funext fun l => (congrArg Port.offLink (h.port l) :)) (congrArg State.eidInc h.rest :)

theorem State.updPort_linked {s : State} {l : Nat} {f : Port → Port} (keeps : ∀ p, (f p).offLink = p.offLink) : (s.updPort l f).linked = s.linked := by
  refine Prod.ext (funext fun k => ?_) rfl
  by_cases h : k = l
  · simp [State.linked, h, keeps]
  · simp [State.linked, State.port_updPort_other _ _ h]

@[simp] theorem State.raise_linked (s : State) (e : Event) : (s.raise e).linked = s.linked := (Tended.raise s e).linked
@[simp] theorem State.updTrunk_linked (s : State) (t : Nat) (f : Trunk → Trunk) : (s.updTrunk t f).linked = s.linked := rfl
@[simp] theorem State.updQtr_linked (s : State) (q : Nat) (f : Quarter → Quarter) : (s.updQtr q f).linked = s.linked := rfl
@[simp] theorem State.updQueue_linked (s : State) (q n : Nat) (f : Queue → Queue) : (s.updQueue q n f).linked = s.linked := rfl
@[simp] theorem State.updBlk_linked (s : State) (g : Nat) (f : Block → Block) : (s.updBlk g f).linked = s.linked := rfl
@[simp] theorem State.releaseMc_linked (s : State) (q : Nat) (p : QPkt) : (s.releaseMc q p).linked = s.linked := (Tended.of_traffic (s.releaseMc_offTraffic q p)).linked
@[simp] theorem State.creditBack_linked (s : State) (m : Msg) : (s.creditBack m).linked = s.linked := (Tended.of_traffic (s.creditBack_offTraffic m)).linked
@[simp] theorem State.nsFree_linked (s : State) : s.nsFree.2.linked = s.linked := rfl

@[simp] theorem State.noteTrunk_linked (s : State) (l : Nat) : (s.noteTrunk l).linked = s.linked := by
  unfold State.noteTrunk
  split
  · rfl
  · dsimp only
    split
    · rfl
    · simp

@[simp] theorem State.declareGap_linked (s : State) (t k : Nat) : (s.declareGap t k).linked = s.linked := by
  unfold State.declareGap
  dsimp only
  split
  · rfl
  · split <;> simp

@[simp] theorem State.checkGap_linked (s : State) (t k : Nat) : (s.checkGap t k).linked = s.linked := by
  unfold State.checkGap
  dsimp only
  repeat' split
  all_goals simp

@[simp] theorem State.noteGaps_linked (s : State) (l : Nat) : (s.noteGaps l).linked = s.linked := by
  unfold State.noteGaps State.checkGaps
  split
  · rfl
  · refine foldl_same (g := State.linked) (fun s k => ?_) _ s
    split <;> simp

/-- A change of state touches that port alone. -/
theorem State.toState_linked (s : State) (l : Nat) (st : PortState) : (s.toState l st).linked = (s.updPort l (fun p => { p with state := st, since := s.now })).linked := by
  rw [State.toState_eq, State.noteGaps_linked, State.noteTrunk_linked]

/-- A port in a new state. -/
def Port.entering (p : Port) (st : PortState) (now : Nat) : Port := { p with state := st, since := now }

theorem Port.entering_fields (p : Port) (st : PortState) (now : Nat) :
    (p.entering st now).state = st ∧ (p.entering st now).off = p.off ∧ (p.entering st now).width = p.width ∧ (p.entering st now).rate = p.rate
      ∧ (p.entering st now).dshen = p.dshen ∧ (p.entering st now).downsh = p.downsh := ⟨rfl, rfl, rfl, rfl, rfl, rfl⟩

theorem State.port_toState (s : State) (l : Nat) (st : PortState) : ((s.toState l st).port l).offLink = ((s.port l).entering st s.now).offLink :=
  (State.port_of_linked (s.toState_linked l st) l).trans (congrArg Port.offLink (State.port_updPort ..))

@[simp] theorem State.dropQueues_linked (s : State) (l : Nat) : (s.dropQueues l).linked = s.linked := by
  refine foldl_same (g := State.linked) (fun s k => ?_) _ s
  refine (State.updPort_linked (by exact fun _ => rfl)).trans ?_
  have released (ps : List QPkt) (s : State) : (ps.foldl (fun s p => s.releaseMc (qOfLane l) p) s).linked = s.linked := foldl_same (fun s p => by simp) ps s
  split
  · exact released ..
  · exact (State.updQueue_linked ..).trans (released ..)

@[simp] theorem State.dropPoliced_linked (s : State) (l : Nat) : (s.dropPoliced l).linked = s.linked := by
  refine foldl_same (g := State.linked) (fun s k => ?_) _ s
  dsimp only
  split
  · rfl
  · refine (State.updPort_linked (by exact fun _ => rfl)).trans ((foldl_same (fun s m => by simp) _ _).trans ?_)
    exact State.updPort_linked (by exact fun _ => rfl)

@[simp] theorem State.flush_linked (s : State) (l : Nat) : (s.flush l).linked = s.linked := by
  unfold State.flush
  exact (State.updPort_linked (by exact fun _ => rfl)).trans ((State.dropPoliced_linked ..).trans (State.dropQueues_linked ..))

@[simp] theorem State.nextHeader_linked (s : State) (l ftype seq map : Nat) (cont : Bool) : (s.nextHeader l ftype seq map cont).2.linked = s.linked := by
  unfold State.nextHeader
  dsimp only
  split
  · exact State.updPort_linked (by exact fun _ => rfl)
  · rfl

@[simp] theorem State.sendJoinFlit_linked (s : State) (l : Nat) (m : JoinMsg) : (s.sendJoinFlit l m).linked = s.linked := by
  unfold State.sendJoinFlit
  by_cases active : (s.port l).state = .active
  · rw [if_pos active]
    exact (Tended.of_traffic (State.send_offTraffic ..)).linked.trans (s.nextHeader_linked l 2 0 0 false)
  · rw [if_neg active]
    exact (Tended.of_traffic (State.send_offTraffic ..)).linked

@[simp] theorem State.sendJoin_linked (s : State) (l jtype : Nat) (eid : Eid) (inc : Inc) (reason : Nat) (nonce : BitVec 32) :
    (s.sendJoin l jtype eid inc reason nonce).linked = s.linked := (State.sendJoinFlit_linked ..).trans (s.nsFree_linked)

/-! ### Folds that reach an element -/

/-- What each step keeps and the step of `a` brings about holds after a fold over a list with `a`. -/
theorem foldl_reaches {α β : Type} {f : β → α → β} {P : β → Prop} (keeps : ∀ s x, P s → P (f s x)) {a : α} (hit : ∀ s, P (f s a)) {l : List α} {s : β}
    (h : a ∈ l ∨ P s) : P (l.foldl f s) := by
  induction l generalizing s with
  | nil => simpa using h
  | cons x l ih =>
    refine ih ?_
    rcases h with mem | holds
    · rcases List.mem_cons.mp mem with rfl | later
      · exact .inr (hit s)
      · exact .inl later
    · exact .inr (keeps s x holds)

/-! ### RESTART, ADMIT, TRUNKENT -/

/-- A port that begins to train, at its full width. -/
def Port.atTrain (p : Port) (fresh : Bool) (now : Nat) : Port :=
  { p with width := if p.downsh then p.width + 1 else p.width, downsh := false, tries := if fresh then 0 else p.tries, state := .train, since := now }

theorem State.port_toTrain (s : State) (l : Nat) (fresh : Bool) : ((s.toTrain l fresh).port l).offLink = ((s.port l).atTrain fresh s.now).offLink := by
  rw [State.toTrain, State.port_of_linked (State.toState_linked ..), State.port_updPort, State.port_updPort]
  rfl

theorem restartDo_port (l : Nat) (s : State) :
    ((restartDo l s).port l).state = .train ∧ ((restartDo l s).port l).jreq = none ∧ ((restartDo l s).port l).grant = none := by
  unfold restartDo
  extract_lets st u
  have trained := State.port_toTrain (u.updPort l (fun p => { p with jreq := none, grant := none })) l true
  rw [State.port_updPort] at trained
  exact ⟨(congrArg Port.state trained).trans rfl, (congrArg Port.jreq trained).trans rfl, (congrArg Port.grant trained).trans rfl⟩

theorem State.grantJoin_port {s : State} {l : Nat} {j : JoinReq} (req : (s.port l).jreq = some j) (e : Eid) (i : Inc) (job : JobId) :
    ((s.grantJoin l e i job).port l).offLink = { (s.port l).offLink with grant := some (e, i, job), grantAt := s.now, jreq := some { j with decided := true } } := by
  simp only [State.grantJoin, req]
  rw [State.port_of_linked (State.sendJoin_linked ..), State.port_updPort]
  rfl

theorem admitDo_deny {ci : CtlInsn} {s : State} {j : JoinReq} (req : (s.port (ci.f 0 9)).jreq = some j) (deny : ci.f 45 1 = 0) :
    ((admitDo ci s).port (ci.f 0 9)).state = .hello ∧ ((admitDo ci s).port (ci.f 0 9)).jreq = none ∧ ((admitDo ci s).port (ci.f 0 9)).grant = none := by
  have back (t : State) (l : Nat) : ((t.toHello l).port l).offLink = ((t.port l).atHello t.free.1 t.now).offLink := by
    rw [State.toHello_eq, State.port_of_linked ((State.noteGaps_linked ..).trans (State.noteTrunk_linked ..)), State.port_updPort]
    rfl
  simp only [admitDo, req, deny, if_true]
  exact ⟨(congrArg Port.state (back ..) :), (congrArg Port.jreq (back ..) :), (congrArg Port.grant (back ..) :)⟩

theorem admitDo_grant {ci : CtlInsn} {s : State} {j : JoinReq} (req : (s.port (ci.f 0 9)).jreq = some j) (grant : ci.f 45 1 ≠ 0) :
    let p := (admitDo ci s).port (ci.f 0 9)
    p.job = BitVec.ofNat 16 (ci.f 29 16) ∧ p.segs = segsOf (CtlInsn.descs ci)
      ∧ p.grant = some (BitVec.ofNat 12 (ci.f 9 12), BitVec.ofNat 8 (ci.f 21 8), BitVec.ofNat 16 (ci.f 29 16)) := by
  simp only [admitDo, req, grant, if_false]
  have granted (t : State) (h : (t.port (ci.f 0 9)).jreq = some j) := State.grantJoin_port h (BitVec.ofNat 12 (ci.f 9 12)) (BitVec.ofNat 8 (ci.f 21 8)) (BitVec.ofNat 16 (ci.f 29 16))
  have kept (t : State) (h : (t.port (ci.f 0 9)).jreq = some j) : _ ∧ _ ∧ _ :=
    ⟨(congrArg Port.job (granted t h) :), (congrArg Port.segs (granted t h) :), (congrArg Port.grant (granted t h) :)⟩
  obtain ⟨job, segs, grant⟩ := kept (s.updPort (ci.f 0 9) (fun p => { p with
      job := BitVec.ofNat 16 (ci.f 29 16)
      killed := match s.partOfJob (BitVec.ofNat 16 (ci.f 29 16)) with | some p => (s.part p).killed | none => false
      segs := segsOf (CtlInsn.descs ci) })) (by simp [req])
  refine ⟨job.trans ?_, segs.trans ?_, grant⟩ <;> simp [Port.offLink]

theorem trunkentDo_port (l : Nat) (e : Eid) (i : Inc) (s : State) : ((trunkentDo l e i s).port l).teid = e ∧ ((trunkentDo l e i s).port l).tinc = i := by
  unfold trunkentDo
  extract_lets t
  have set : t.port l = { s.port l with teid := e, tinc := i } := State.port_updPort ..
  split
  next j req =>
    split
    · have granted := State.grantJoin_port req e i 0
      exact ⟨(congrArg Port.teid granted :).trans (congrArg Port.teid set), (congrArg Port.tinc granted :).trans (congrArg Port.tinc set)⟩
    · rw [set]
      exact ⟨rfl, rfl⟩
  · rw [set]
    exact ⟨rfl, rfl⟩

/-! ### DEAD and REMOTE -/

theorem mem_of_tget {α : Type} {t : Tbl α} {k : Nat} {d : α} (h : tget t k d ≠ d) : (k, tget t k d) ∈ t := by
  induction t with
  | nil => exact absurd rfl h
  | cons e r ih =>
    obtain ⟨j, v⟩ := e
    simp only [tget] at h ⊢
    split
    next hk => rw [hk]; exact List.mem_cons_self
    next hk => exact List.mem_cons_of_mem _ (ih (by rwa [if_neg hk] at h))

/-- A port is fenced: its own state, and no other port's. -/
theorem State.fence_state (s : State) (l k : Nat) :
    ((((s.flush l).updPort l (fun p => { p with jreq := none, grant := none })).toState l .fenced).port k).state = if k = l then .fenced else (s.port k).state := by
  rw [State.portState_of_linked (State.toState_linked ..)]
  split
  next h => rw [h, State.port_updPort]
  next h =>
    rw [State.port_updPort_other _ _ h, State.port_updPort_other _ _ h]
    exact State.portState_of_linked (s.flush_linked l) k

theorem State.fence_incs (s : State) (l : Nat) :
    (((s.flush l).updPort l (fun p => { p with jreq := none, grant := none })).toState l .fenced).eidInc = s.eidInc := by
  rw [State.eidInc_of_linked (State.toState_linked ..), State.updPort_eidInc, State.updPort_eidInc, State.eidInc_of_linked (s.flush_linked l)]

/-- An incarnation that is declared dead is none, and the ports that hold it are fenced (R83). -/
theorem declareDead_effect (s : State) (e : Eid) (i : Inc) :
    (s.declareDead e i).incOf e = 0
    ∧ ∀ k, (s.port k).enabled = true → (s.port k).role ≠ 0 → (s.port k).peerEid = e → ((s.declareDead e i).port k).state = .fenced := by
  unfold State.declareDead
  extract_lets u ls v w
  have walked (l : List Nat) (t : State) : (l.foldl (fun s g => s.updBlk g (fun b => { b with walks := b.walks ++ [.death e i] })) t).linked = t.linked :=
    foldl_same (fun s g => by simp) l t
  have last : _ = v.linked := (walked ((w.blks.filter (fun b => (w.partOfBlk b.1).isSome)).map (·.1)) w).trans (Tended.settleAll v).linked
  have incs : v.eidInc = u.eidInc := foldl_same (g := State.eidInc) (fun s l => s.fence_incs l) ls u
  refine ⟨(State.incOf_of_linked last e).trans ?_, fun k on linked holds => (State.portState_of_linked last k).trans ?_⟩
  · exact (congrArg (fun x : Tbl Inc => tget x e.toNat 0) incs).trans (tget_tset_same s.eidInc e.toNat 0 0)
  · refine foldl_reaches (P := fun t : State => (t.port k).state = .fenced) (a := k) (fun t l h => ?_) (fun t => ?_) ?_
    · rw [State.fence_state, h, ite_self]
    · rw [State.fence_state, if_pos rfl]
    · by_cases fenced : (s.port k).state = .fenced
      · exact .inr fenced
      · have known : (k, s.port k) ∈ s.ports := mem_of_tget fun h => by
          rw [State.port, h] at on
          exact absurd on (by decide)
        refine .inl (List.mem_map.mpr ⟨(k, s.port k), List.mem_filter.mpr ⟨known, ?_⟩, rfl⟩)
        simp only [on, holds]
        simpa using ⟨linked, fenced⟩

/-! ### PORTCFG -/

theorem mem_foldl_setIns {l : List Nat} {a : List Nat} {k : Nat} (h : k ∈ l ∨ k ∈ a) : k ∈ l.foldl setIns a :=
  foldl_reaches (f := setIns) (P := fun a : List Nat => k ∈ a) (fun _ _ h => mem_setIns.mpr (.inr h)) (fun _ => mem_setIns.mpr (.inl rfl)) h

/-- A port has the lanes that PORTCFG asks for. -/
def Port.laned (p : Port) (c : PortCfg) : Prop := p.off = 0 ∧ p.width = BitVec.ofNat 2 c.width ∧ p.rate = c.rate ∧ p.dshen = c.down ∧ p.downsh = false

theorem State.setLanes_laned {s : State} {c : PortCfg} (changes : s.cfgChanges c = true) : ((s.setLanes c).port c.lane).laned c := by
  unfold State.setLanes
  rw [if_neg (Classical.not_not.mpr changes)]
  have pos : 0 < 2 ^ c.width := Nat.two_pow_pos _
  refine foldl_reaches (P := fun t : State => (t.port c.lane).laned c) (a := c.lane) (fun t j h => ?_) (fun t => ?_) (.inl ?_)
  · by_cases same : c.lane = j
    · rw [← same, State.port_updPort, if_pos (by omega)]
      simp [Port.laned]
    · rwa [State.port_updPort_other _ _ same]
  · rw [State.port_updPort, if_pos (by omega)]
    simp [Port.laned]
  · exact mem_foldl_setIns (.inl (List.mem_append_right _ (List.mem_map.mpr ⟨0, List.mem_range.mpr pos, by omega⟩)))

theorem State.setLanes_state (s : State) (c : PortCfg) (k : Nat) : ((s.setLanes c).port k).state = (s.port k).state := by
  unfold State.setLanes
  split
  · rfl
  · refine foldl_same (g := fun t : State => (t.port k).state) (fun t j => ?_) _ s
    by_cases same : k = j
    · rw [same, State.port_updPort]
      split <;> rfl
    · rw [State.port_updPort_other _ _ same]

theorem Port.laned_of_offLink {p q : Port} (h : q.offLink = p.offLink) {c : PortCfg} (laned : p.laned c) : q.laned c := by
  obtain ⟨-, off, width, rate, dshen, downsh⟩ := Port.of_offLink h
  obtain ⟨hoff, hwidth, hrate, hdshen, hdownsh⟩ := laned
  exact ⟨off.trans hoff, width.trans hwidth, rate.trans hrate, dshen.trans hdshen, downsh.trans hdownsh⟩

/-- A port without its JREQ and its grant. -/
def Port.quit (p : Port) : Port := { p with jreq := none, grant := none }

theorem Port.closed_of_offLink {p q : Port} {st : PortState} {now : Nat} (h : q.offLink = (p.quit.entering st now).offLink) :
    q.state = st ∧ ∀ c, p.laned c → q.laned c :=
  ⟨(Port.of_offLink h).1, fun _ laned => Port.laned_of_offLink h laned⟩

/-- A port that is closed to a state is in it, with the lanes it had. -/
theorem State.port_closed (s : State) (l : Nat) (st : PortState) :
    ((((s.flush l).updPort l Port.quit).toState l st).port l).state = st
      ∧ ∀ c, (s.port l).laned c → ((((s.flush l).updPort l Port.quit).toState l st).port l).laned c := by
  have entered := State.port_toState ((s.flush l).updPort l Port.quit) l st
  rw [State.port_updPort] at entered
  obtain ⟨state, laned⟩ := Port.closed_of_offLink entered
  exact ⟨state, fun c h => laned c (Port.laned_of_offLink (State.port_of_linked (s.flush_linked l) l) h)⟩

theorem State.switchPort_port (s : State) (c : PortCfg) :
    (c.on = false → ((s.switchPort c).port c.lane).state = .disabled) ∧ (c.on = true → (s.port c.lane).state = .disabled → ((s.switchPort c).port c.lane).state = .train)
    ∧ ((s.port c.lane).laned c → ((s.switchPort c).port c.lane).laned c) := by
  unfold State.switchPort
  extract_lets p
  split
  next h =>
    have trained := State.port_toTrain (s.updPort c.lane (fun p => { p with advCur := p.adv })) c.lane true
    rw [State.port_updPort] at trained
    refine ⟨fun off => absurd h.1 (by simp [off]), fun _ _ => (congrArg Port.state trained).trans rfl, fun ⟨off, width, rate, dshen, downsh⟩ => ?_⟩
    refine ⟨(congrArg Port.off trained).trans off, (congrArg Port.width trained).trans ?_, (congrArg Port.rate trained).trans rate,
      (congrArg Port.dshen trained).trans dshen, (congrArg Port.downsh trained).trans rfl⟩
    exact (if_neg (by simp [downsh])).trans width
  next h =>
    split
    next g =>
      obtain ⟨state, laned⟩ := s.port_closed c.lane .disabled
      exact ⟨fun _ => state, fun on => absurd on g.1, laned c⟩
    next g =>
      exact ⟨fun off => Classical.not_not.mp fun on => g ⟨by simp [off], on⟩, fun on off => absurd ⟨on, off⟩ h, id⟩

theorem portcfgDo_port (c : PortCfg) (s : State) (small : c.width < 4) :
    (c.on = false → ((portcfgDo c s).port c.lane).state = .disabled) ∧ (c.on = true → (s.port c.lane).state = .disabled → ((portcfgDo c s).port c.lane).state = .train)
    ∧ (s.cfgChanges c = true → ((portcfgDo c s).port c.lane).off = 0 ∧ ((portcfgDo c s).port c.lane).width.toNat = c.width ∧ ((portcfgDo c s).port c.lane).rate = c.rate
        ∧ ((portcfgDo c s).port c.lane).dshen = c.down) := by
  obtain ⟨off, on, laned⟩ := (s.setLanes c).switchPort_port c
  refine ⟨off, fun h d => on h ((s.setLanes_state ..).trans d), fun changes => ?_⟩
  obtain ⟨own, width, rate, dshen, -⟩ := laned (State.setLanes_laned changes)
  refine ⟨own, (congrArg BitVec.toNat width).trans ?_, rate, dshen⟩
  rw [BitVec.toNat_ofNat]
  exact Nat.mod_eq_of_lt small

/-! ### CREDIT and TRUNK -/

theorem advOf_get (a : Slot) {j : Nat} (hj : j < 8) : (tget (advOf a) j 0).toNat = sbits a (16 * j) 16 := by
  rw [advOf, tget_foldl_tset, if_pos (List.mem_range.mpr hj), BitVec.toNat_ofNat]
  exact Nat.mod_eq_of_lt (Nat.mod_lt _ (Nat.two_pow_pos _))

theorem trunkDo_trunk (t : Nat) (ls : List Nat) (s : State) : ((trunkDo t ls s).trunk t).members = ls ∧ ∀ k, k ≠ t → (trunkDo t ls s).trunk k = s.trunk k := by
  unfold trunkDo
  extract_lets same u v
  have members : (v.trunk t).members = ls := by
    rw [State.trunk_updTrunk, State.trunk_setTrunk]
    split
    next h => exact h.symm
    next => rfl
  have others (k : Nat) (h : k ≠ t) : v.trunk k = s.trunk k := by
    rw [State.trunk_updTrunk_other _ _ h, State.trunk_setTrunk_other _ _ h]
  split
  · exact ⟨members, others⟩
  · simp only [State.trunk_raise]
    exact ⟨members, others⟩

/-- Settles O20: each instruction by what it leaves of its port, trunk or incarnation. -/
theorem linkctlPortsComplete : Obligations.LinkctlPortsComplete := by
  intro s via ci c b l k
  have ported (j : Nat) : (b.dropCtl via).port j = b.port j := State.dropCtl_port ..
  refine ⟨fun h hc => ?_, fun h hc => ?_, fun h hc => ?_, fun j h req hc => ?_, fun h hc => ?_, fun h hc => ?_, fun h hc => ?_, fun h hc => ?_⟩
  · dsimp only [exec, execLinkctlPortcfg]
    refine ⟨_, runCtl_plain _ h rfl hc, ?_⟩
    have cfg := portcfgDo_port k (b.dropCtl via) (ctl_f_lt ci 9 2)
    rw [ported, State.cfgChanges, ported] at cfg
    exact cfg
  · dsimp only [exec, execLinkctlRestart]
    exact ⟨_, runCtl_plain _ h rfl hc, restartDo_port l _⟩
  · dsimp only [exec, execLinkctlCredit]
    have set : (creditDo l (ci.arg 1) (b.dropCtl via)).port l = { b.port l with adv := advOf (ci.arg 1) } := (State.port_updPort ..).trans (by rw [ported])
    refine ⟨_, runCtl_plain _ h rfl hc, fun j hj => ?_, set.trans (congrArg (fun a => { b.port l with adv := a }) (congrArg Port.adv set).symm), fun m hm => ?_⟩
    · rw [set]
      exact advOf_get _ hj
    · exact (State.port_updPort_other _ _ hm).trans (ported m)
  · dsimp only [exec, execLinkctlAdmit]
    refine ⟨_, runCtl_plain _ h rfl hc, ?_⟩
    have req' : ((b.dropCtl via).port (ci.f 0 9)).jreq = some j := (congrArg Port.jreq (ported _)).trans req
    split
    next deny => exact admitDo_deny req' deny
    next grant => exact admitDo_grant req' grant
  · dsimp only [exec, execLinkctlTrunkent]
    refine ⟨_, runCtl_plain _ h rfl hc, ?_⟩
    obtain ⟨teid, tinc⟩ := trunkentDo_port l (BitVec.ofNat 12 (ci.f 9 12)) (BitVec.ofNat 8 (ci.f 21 8)) (b.dropCtl via)
    rw [teid, tinc, toNat_ofNat_f, toNat_ofNat_f]
    exact ⟨rfl, rfl⟩
  · dsimp only [exec, execLinkctlDead]
    refine ⟨_, runCtl_plain _ h rfl hc, ?_⟩
    have dead := declareDead_effect (b.dropCtl via) (BitVec.ofNat 12 (ci.f 0 12)) (BitVec.ofNat 8 (ci.f 12 8))
    simp only [ported] at dead
    exact dead
  · dsimp only [exec, execLinkctlTrunk]
    refine ⟨_, runCtl_plain _ h rfl hc, ?_⟩
    have trunk := trunkDo_trunk (ci.f 0 5) (lanesOf ci.args) (b.dropCtl via)
    simp only [State.dropCtl_trunk] at trunk
    exact trunk
  · dsimp only [exec, execLinkctlRemote]
    refine ⟨_, runCtl_plain _ h rfl hc, ?_⟩
    rw [State.incOf_of_linked (Tended.settleAll _).linked, State.incOf, State.setInc, tget_tset_same]
    split
    · rw [toNat_ofNat_f]
    · rfl

end Sys2Proof.Machine
end

section
/-! The gates of a home, and write-backs and evictions at it (R170, R177, R186, R194, R211, R240, R417). -/

namespace Sys2Proof.Machine

/-! ### A request taken from its queue -/

/-- The commands by which a home takes a request, with the kind that each takes. -/
theorem exec_homeTake {i : BlockId → Instr} {k : Nat}
    (h : (i, k) ∈ [(Instr.ldRequest, tLD), (.stRequest, tST), (.atRequest, tAT), (.pflistRequest, tPF), (.rdshared, tRdShared), (.rdown, tRdOwn), (.wrinv, tWrInv),
      (.wrback, tWrBack), (.evict, tEvict), (.lostclr, tLostClr)]) (g : BlockId) (s : State) : exec (i g) s = .next (s.homeTake g.toNat (· = k)) := by
  simp only [List.mem_cons, Prod.mk.injEq, List.not_mem_nil, or_false] at h
  rcases h with ⟨rfl, rfl⟩ | ⟨rfl, rfl⟩ | ⟨rfl, rfl⟩ | ⟨rfl, rfl⟩ | ⟨rfl, rfl⟩ | ⟨rfl, rfl⟩ | ⟨rfl, rfl⟩ | ⟨rfl, rfl⟩ | ⟨rfl, rfl⟩ | ⟨rfl, rfl⟩ <;> rfl

section
variable {s t : State} {g p k : Nat} {h : QPkt} (taken : s.takeHead (qOfBlk g) (nBlk g 2) = some (h, t)) (part : s.partOfBlk g = some p)
  (kind : h.msg.pkt.mtype.toNat = k)
include taken part kind

theorem State.homeTake_gated {u : State} (gate : t.homeGate g p h.msg = some u) : s.homeTake g (· = k) = u := by
  simp only [State.homeTake, taken, part, kind, gate]
  simp

theorem State.homeTake_writeBack (back : k = tWrBack ∨ k = tEvict) (gate : t.homeGate g p h.msg = none) : s.homeTake g (· = k) = t.writeBack g p h.msg := by
  simp only [State.homeTake, taken, part, kind, gate, back]
  simp

end

/-! ### The gates -/

section
variable {s : State} {g p : Nat} {m : Msg}

theorem State.homeGate_fenced (fenced : (s.part p).state = .fenced) : s.homeGate g p m = some (s.refuse g m stDead) := if_pos fenced

theorem State.homeGate_stale (open_ : (s.part p).state ≠ .fenced) (old : m.pkt.sinc = 0 ∨ s.incOf m.pkt.seid ≠ m.pkt.sinc) :
    ∃ u : State, s.homeGate g p m = some u ∧ (u.blk g).staleReq = satAdd (s.blk g).staleReq 1 ∧ u = { s with blks := u.blks, joins := u.joins } := by
  refine ⟨_, (if_neg open_).trans (if_pos old), ?_⟩
  have counted : ((s.updBlk g (fun b => { b with staleReq := satAdd b.staleReq 1 })).blk g).staleReq = satAdd (s.blk g).staleReq 1 :=
    congrArg Block.staleReq (State.blk_updBlk ..)
  cases m.asker <;> exact ⟨counted, rfl⟩

theorem State.homeGate_killed (open_ : (s.part p).state ≠ .fenced) (current : ¬(m.pkt.sinc = 0 ∨ s.incOf m.pkt.seid ≠ m.pkt.sinc)) (killed : (s.part p).killed = true) :
    s.homeGate g p m = some ((s.updBlk g (fun b => { b with teardown := satAdd b.teardown 1 })).refuse g m stTeardown) :=
  (if_neg open_).trans ((if_neg current).trans (if_pos killed))

theorem State.homeGate_elsewhere (open_ : (s.part p).state ≠ .fenced) (current : ¬(m.pkt.sinc = 0 ∨ s.incOf m.pkt.seid ≠ m.pkt.sinc)) (live : (s.part p).killed = false)
    (other : (m.linesAt g).any (fun r => !(s.part p).isHome s.now g r.line) = true) : s.homeGate g p m = some (s.refuse g m stRetry) := by
  refine (if_neg open_).trans ((if_neg current).trans ((if_neg (by simp [live])).trans (if_pos ?_)))
  obtain ⟨r, mem, away⟩ := List.any_eq_true.mp other
  exact List.any_eq_true.mpr ⟨r, mem, by rw [away, Bool.or_true]⟩

end

/-- Settles O38: each gate by its own lemma. -/
theorem homesTurnRequestsAway : Obligations.HomesTurnRequestsAway := by
  intro s t g p h i k row taken part kind x m
  have gated {u : State} (gate : t.homeGate g.toNat p m = some u) : exec (i g) s = .next u :=
    (exec_homeTake row g s).trans (congrArg _ (State.homeTake_gated taken part kind gate))
  refine ⟨fun fenced => gated (State.homeGate_fenced fenced), fun open_ old => ?_, fun open_ source current killed => ?_, fun open_ source current live other => ?_⟩
  · obtain ⟨u, gate, count, rest⟩ := State.homeGate_stale (g := g.toNat) open_ old
    exact ⟨u, gated gate, count, rest⟩
  · refine ⟨_, gated (State.homeGate_killed open_ (not_or.mpr ⟨source, Classical.not_not.mpr current⟩) killed), ?_, rfl⟩
    exact congrArg Block.teardown (State.blk_updBlk ..)
  · exact gated (State.homeGate_elsewhere open_ (not_or.mpr ⟨source, Classical.not_not.mpr current⟩) live other)

/-! ### What a line's bytes depend on -/

/-- Two states hold the same memory, and this Block holds the line in the same place. -/
structure SameLine (g l : Nat) (s t : State) : Prop where
  hot : s.hotOf g l = t.hotOf g l
  mem : s.mem = t.mem
  poison : s.poison = t.poison
  lost : s.lost = t.lost

theorem SameLine.refl (g l : Nat) (s : State) : SameLine g l s s := ⟨rfl, rfl, rfl, rfl⟩

/-- What depends on the Block, on memory and its bits alone. -/
theorem SameLine.of_eq {g l : Nat} {s t : State} (dir : (s.blk g).dir = (t.blk g).dir) (hot : (s.blk g).hot = (t.blk g).hot) (mem : s.mem = t.mem)
    (poison : s.poison = t.poison) (lost : s.lost = t.lost) : SameLine g l s t := ⟨State.hotOf_congr dir hot l, mem, poison, lost⟩

@[simp] theorem State.pokes_poison (s : State) (p a : Nat) (v : List Byte) : (s.pokes p a v).poison = s.poison := by
  induction v generalizing s a with
  | nil => rfl
  | cons b r ih => exact ih (s.poke p a b) (a + 1)

@[simp] theorem State.pokes_lost (s : State) (p a : Nat) (v : List Byte) : (s.pokes p a v).lost = s.lost := by
  induction v generalizing s a with
  | nil => rfl
  | cons b r ih => exact ih (s.poke p a b) (a + 1)

/-- Bytes put in a line leave the same memory and bits behind. -/
theorem SameLine.linePut {g l : Nat} {s t : State} (h : SameLine g l s t) (p o : Nat) (v : List Byte) (pois clears : Bool) :
    (s.linePut g p l o v pois clears).mem = (t.linePut g p l o v pois clears).mem ∧ (s.linePut g p l o v pois clears).poison = (t.linePut g p l o v pois clears).poison
      ∧ (s.linePut g p l o v pois clears).lost = (t.linePut g p l o v pois clears).lost := by
  obtain ⟨hot, mem, poison, lost⟩ := h
  unfold State.linePut
  rw [hot]
  split
  · exact ⟨mem, poison, lost⟩
  · have poked := State.pokes_mem_congr mem p (128 * l + o) v
    have pois' : (s.pokes p (128 * l + o) v).poison = (t.pokes p (128 * l + o) v).poison := by simp [poison]
    have lost' : (s.pokes p (128 * l + o) v).lost = (t.pokes p (128 * l + o) v).lost := by simp [lost]
    dsimp only
    split
    · exact ⟨poked, congrArg (setPut · (lineKey p l) true) pois', lost'⟩
    · split
      · exact ⟨poked, congrArg (setPut · (lineKey p l) false) pois', congrArg (setPut · (lineKey p l) false) lost'⟩
      · exact ⟨poked, pois', lost'⟩

/-- Bytes put in a line leave its Block's directory alone. -/
@[simp] theorem State.linePut_dir (s : State) (g p l o : Nat) (v : List Byte) (pois clears : Bool) : ((s.linePut g p l o v pois clears).blk g).dir = (s.blk g).dir := by
  unfold State.linePut
  dsimp only
  split
  · rw [State.setHot, State.blk_updBlk]
  · repeat' split
    all_goals exact congrArg Block.dir (State.blk_congr (State.pokes_blks ..) g)

/-- The count of accesses to a page is all that a touch changes. -/
theorem State.touchPage_eq (s : State) (p page n : Nat) : s.touchPage p page n = { s with parts := (s.touchPage p page n).parts } := by
  unfold State.touchPage
  dsimp only
  split <;> rfl

/-! ### Write-backs and evictions -/

section
variable {s t : State} {g p : Nat} {m : Msg} (placed : ((s.part p).page (m.paddr / 128 / 2 ^ 21)).state = .placed)
include placed

theorem State.pageLost_placed : ¬s.pageLost p (m.paddr / 128) := by
  rw [State.pageLost, placed]
  decide

theorem State.writeBack_sealed (wb : m.pkt.mtype.toNat = tWrBack) (shut : ((s.part p).page (m.paddr / 128 / 2 ^ 21)).sealed = true) :
    s.writeBack g p m = s.reply g m rNAK stPerm [] [] :=
  (if_neg (State.pageLost_placed placed)).trans (if_pos ⟨wb, shut⟩)

variable (open_ : ((s.part p).page (m.paddr / 128 / 2 ^ 21)).sealed = false)
include open_

/-- From the recorded owner: a WrBack that is not discarded writes, and an idle line loses its owner (R186, R194). -/
theorem State.writeBack_owner (own : (s.ent g (m.paddr / 128)).mode = .own m.pkt.seid m.pkt.sinc) :
    let l := m.paddr / 128
    let u := s.touchPage p (l / 2 ^ 21) 1
    let w := if m.pkt.mtype.toNat = tWrBack ∧ ¬(s.ent g l).txn.any (fun t => t.kind = .recalling true) then
      u.lineWrite g p l 0 (bytesAt (slotsBytes m.pkt.data) 0 128) m.pkt.pois else u
    s.writeBack g p m = (if (s.ent g l).txn.isSome then w else w.setMode g l .none).reply g m rWrDone stOk [cohx l false] [] := by
  unfold State.writeBack
  dsimp only
  rw [if_neg (State.pageLost_placed placed), if_neg fun h => absurd h.2 (by rw [open_]; decide), own]
  exact if_pos ⟨rfl, rfl⟩

theorem State.writeBack_sharer {sh : List Nat} (ev : m.pkt.mtype.toNat = tEvict) (shared : (s.ent g (m.paddr / 128)).mode = .exact sh) :
    let l := m.paddr / 128
    let rest := sh.filter (· ≠ m.pkt.seid.toNat)
    s.writeBack g p m = ((s.touchPage p (l / 2 ^ 21) 1).updEnt g l (fun e => { e with mode := if rest = [] then .none else .exact rest })).reply g m rWrDone stOk [cohx l false] [] := by
  unfold State.writeBack
  dsimp only
  rw [if_neg (State.pageLost_placed placed), if_neg fun h => absurd h.2 (by rw [open_]; decide), shared]
  exact if_neg (by rw [ev]; decide)

theorem State.writeBack_stale (free : (s.ent g (m.paddr / 128)).mode = .none) :
    s.writeBack g p m = ((s.touchPage p (m.paddr / 128 / 2 ^ 21) 1).updBlk g (fun b => { b with staleWb := satAdd b.staleWb 1 })).reply g m rWrDone stOk [cohx (m.paddr / 128) false] [] := by
  unfold State.writeBack
  dsimp only
  rw [if_neg (State.pageLost_placed placed), if_neg fun h => absurd h.2 (by rw [open_]; decide), free]

end

/-- A home takes a write-back or an eviction. -/
theorem homeTake_of_homeGets {s t : State} {g p k : Nat} {m : Msg} (h : HomeGets s t g p k m) (back : k = tWrBack ∨ k = tEvict) :
    s.homeTake g (· = k) = t.writeBack g p m := by
  obtain ⟨q, taken, rfl, part, kind, gate⟩ := h
  exact State.homeTake_writeBack taken part kind back gate

theorem homeGets_mem {s t : State} {g p k : Nat} {m : Msg} (h : HomeGets s t g p k m) : t.mem = s.mem := by
  obtain ⟨q, taken, -⟩ := h
  exact (congrArg State.mem (State.takeHead_offQueues taken) :)

theorem homeGets_lost {s t : State} {g p k : Nat} {m : Msg} (h : HomeGets s t g p k m) : t.lost = s.lost := by
  obtain ⟨q, taken, -⟩ := h
  exact (congrArg State.lost (State.takeHead_offQueues taken) :)

theorem homeGets_poison {s t : State} {g p k : Nat} {m : Msg} (h : HomeGets s t g p k m) : t.poison = s.poison := by
  obtain ⟨q, taken, -⟩ := h
  exact (congrArg State.poison (State.takeHead_offQueues taken) :)

theorem homeGets_kind {s t : State} {g p k : Nat} {m : Msg} (h : HomeGets s t g p k m) : m.pkt.mtype.toNat = k := by
  obtain ⟨q, -, rfl, -, kind, -⟩ := h
  exact kind

/-- A touched page leaves the Blocks, memory and its bits as they were. -/
theorem State.touchPage_blks (s : State) (p page n : Nat) : (s.touchPage p page n).blks = s.blks := (congrArg State.blks (s.touchPage_eq p page n) :)
theorem State.touchPage_mem (s : State) (p page n : Nat) : (s.touchPage p page n).mem = s.mem := (congrArg State.mem (s.touchPage_eq p page n) :)
theorem State.touchPage_blk (s : State) (p page n g : Nat) : (s.touchPage p page n).blk g = s.blk g := State.blk_congr (s.touchPage_blks p page n) g
theorem State.touchPage_ent (s : State) (p page n g l : Nat) : (s.touchPage p page n).ent g l = s.ent g l := by rw [State.ent, State.touchPage_blk, State.ent]

theorem SameLine.touchPage (g l : Nat) (s : State) (p page n : Nat) : SameLine g l (s.touchPage p page n) s :=
  .of_eq (congrArg Block.dir (s.touchPage_blk p page n g)) (congrArg Block.hot (s.touchPage_blk p page n g)) (s.touchPage_mem p page n)
    (congrArg State.poison (s.touchPage_eq p page n) :) (congrArg State.lost (s.touchPage_eq p page n) :)

@[simp] theorem State.setMode_mem (s : State) (g l : Nat) (m : DirMode) : (s.setMode g l m).mem = s.mem := (congrArg State.mem (s.setMode_eq g l m) :)
@[simp] theorem State.setMode_poison (s : State) (g l : Nat) (m : DirMode) : (s.setMode g l m).poison = s.poison := (congrArg State.poison (s.setMode_eq g l m) :)
@[simp] theorem State.setMode_lost (s : State) (g l : Nat) (m : DirMode) : (s.setMode g l m).lost = s.lost := (congrArg State.lost (s.setMode_eq g l m) :)

theorem State.ent_updEnt_mode (s : State) (g l : Nat) (f : DirEnt → DirEnt) : ((s.updEnt g l f).ent g l).mode = (f (s.ent g l)).mode := by
  rw [State.updEnt, State.ent_setEnt, DirEnt.tidy_mode]

/-- Settles O40: the row of the directory that each message meets. -/
theorem writeBacksAndEvictions : Obligations.WriteBacksAndEvictions := by
  intro s t g p m b l done w placed
  have ready {k : Nat} {u : State} (get : HomeGets s t b p k m) (back : k = tWrBack ∨ k = tEvict) (served : t.writeBack b p m = u) : s.homeTake b (· = k) = u :=
    (homeTake_of_homeGets get back).trans served
  obtain ⟨mem, poison, lost⟩ := (SameLine.touchPage b l t p (l / 2 ^ 21) 1).linePut p 0 (bytesAt (slotsBytes m.pkt.data) 0 128) m.pkt.pois
    ((bytesAt (slotsBytes m.pkt.data) 0 128).length = 128)
  have touched : (t.touchPage p (l / 2 ^ 21) 1).mem = t.mem := t.touchPage_mem ..
  refine ⟨fun get shut => congrArg _ (ready get (.inl rfl) (State.writeBack_sealed placed (homeGets_kind get) shut)), fun x get open_ busy live own => ?_,
    fun idle open_ => ⟨fun get own => ?_, fun get own => ?_, fun sh get shared => ?_, fun get free => ?_⟩⟩
  · have served := State.writeBack_owner placed open_ own
    have busy' : (t.ent b (m.paddr / 128)).txn = some x := busy
    dsimp only at served
    rw [busy'] at served
    simp only [homeGets_kind get, Option.any_some, live, Option.isSome_some, decide_false, Bool.false_eq_true, not_false_eq_true, and_self, if_true] at served
    refine ⟨_, congrArg _ (ready get (.inl rfl) served), ?_, mem, poison, lost⟩
    rw [State.ent, State.lineWrite, State.linePut_dir, State.touchPage_blk]
    exact busy
  · have served := State.writeBack_owner placed open_ own
    have idle' : (t.ent b (m.paddr / 128)).txn = none := idle
    dsimp only at served
    rw [idle'] at served
    simp only [homeGets_kind get, Option.any_none, Option.isSome_none, Bool.false_eq_true, not_false_eq_true, and_self, if_true, if_false] at served
    refine ⟨_, congrArg _ (ready get (.inl rfl) served), State.ent_setMode_mode .., ?_, ?_, ?_⟩
    · exact (State.setMode_mem ..).trans mem
    · exact (State.setMode_poison ..).trans poison
    · exact (State.setMode_lost ..).trans lost
  · have served := State.writeBack_owner placed open_ own
    have idle' : (t.ent b (m.paddr / 128)).txn = none := idle
    dsimp only at served
    rw [idle'] at served
    have other : ¬(m.pkt.mtype.toNat = tWrBack ∧ ¬Option.any (fun t : Txn => t.kind = .recalling true) none = true) := fun h =>
      absurd h.1 (by rw [homeGets_kind get]; decide)
    rw [if_neg other] at served
    refine ⟨_, congrArg _ (ready get (.inr rfl) served), State.ent_setMode_mode .., ?_⟩
    exact (State.setMode_mem ..).trans (touched.trans (homeGets_mem get))
  · refine ⟨_, congrArg _ (ready get (.inr rfl) (State.writeBack_sharer placed open_ (homeGets_kind get) shared)), touched.trans (homeGets_mem get), ?_⟩
    rw [State.ent_updEnt_mode]
  · refine ⟨_, congrArg _ (ready get (.inl rfl) (State.writeBack_stale placed open_ free)), ?_, touched.trans (homeGets_mem get)⟩
    rw [State.blk_updBlk, State.touchPage_blk]

end Sys2Proof.Machine
end

section
/-! Requests for a line that no cache holds (R155, R160, R194, R208). -/

namespace Sys2Proof.Machine

/-! ### A line without a hot slot -/

theorem State.hotOf_cold {s : State} {g l : Nat} (cold : (s.ent g l).hot = none) : s.hotOf g l = none := by simp [State.hotOf, cold]
theorem State.countTaken_cold {s : State} {g l : Nat} (cold : s.hotOf g l = none) : s.countTaken g l = s := by simp [State.countTaken, cold]
theorem State.countServed_cold {s : State} {g l : Nat} (cold : s.hotOf g l = none) : s.countServed g l = s := by simp [State.countServed, cold]

theorem SameLine.lineBytes {g l : Nat} {s t : State} (h : SameLine g l s t) (p : Nat) : s.lineBytes g p l = t.lineBytes g p l := by
  simp only [State.lineBytes, h.hot, State.peeks, State.peek, h.mem]

theorem SameLine.lineBad {g l : Nat} {s t : State} (h : SameLine g l s t) (p : Nat) : s.lineBad g p l = t.lineBad g p l := by
  simp only [State.lineBad, h.hot, State.poisoned, State.isLost, h.poison, h.lost]

theorem SameLine.trans {g l : Nat} {s t u : State} (h : SameLine g l s t) (k : SameLine g l t u) : SameLine g l s u :=
  ⟨h.hot.trans k.hot, h.mem.trans k.mem, h.poison.trans k.poison, h.lost.trans k.lost⟩

/-- A Block's counters and works say nothing of where a line is held. -/
theorem SameLine.updBlk (g l : Nat) (s : State) {f : Block → Block} (dir : ∀ b, (f b).dir = b.dir) (hot : ∀ b, (f b).hot = b.hot) : SameLine g l (s.updBlk g f) s :=
  .of_eq (by simp [dir]) (by simp [hot]) rfl rfl rfl

/-! ### The page of the line -/

theorem State.pageAsk_placed {s : State} {g p k : Nat} {r : LineRef} (placed : ((s.part p).page (r.line / 2 ^ 21)).state = .placed)
    (open_ : ((s.part p).page (r.line / 2 ^ 21)).sealed = false) (plain : (s.blk g).roots.contains r.line = false) :
    s.pageAsk g p k r = .ok (s.touchPage p (r.line / 2 ^ 21) 1) := by
  unfold State.pageAsk
  dsimp only
  rw [if_neg (by rw [placed, open_, plain]; simp), placed]

theorem tget_eq_tfind {α : Type} (t : Tbl α) (k : Nat) (d : α) : tget t k d = (tfind t k).getD d := by
  induction t with
  | nil => rfl
  | cons e r ih =>
    obtain ⟨j, v⟩ := e
    by_cases h : j = k
    · simp [tget, tfind, h]
    · simpa [tget, tfind, h] using ih

/-- The key under which page `n` is held, by what the table holds for its 16 GiB page. -/
def pageKeyOf (n : Nat) (o : Option Page) : Nat := match o with
  | some x => if x.big then n - n % 64 else n
  | none => n

theorem Part.pageKey_eq (x : Part) (n : Nat) : x.pageKey n = pageKeyOf n (tfind x.pages (n - n % 64)) := rfl

theorem pageKeyOf_big {n : Nat} {v : Page} {o : Option Page} (h : v.big = (o.getD {}).big) : pageKeyOf n (some v) = pageKeyOf n o := by
  cases o with
  | none => simpa [pageKeyOf] using fun big => absurd (h.symm.trans big) (by decide)
  | some y =>
    have same : v.big = y.big := h
    simp [pageKeyOf, same]

/-- A page put back under its own key, as large as it was, is read there. -/
theorem Part.page_put {x : Part} {n : Nat} {v : Page} (there : v ≠ {}) (big : v.big = (x.page n).big) :
    ({ x with pages := tset x.pages (x.pageKey n) v {} } : Part).page n = v := by
  have key : ({ x with pages := tset x.pages (x.pageKey n) v {} } : Part).pageKey n = x.pageKey n := by
    have found : tfind (tset x.pages (x.pageKey n) v {}) (n - n % 64) = if n - n % 64 = x.pageKey n then some v else tfind x.pages (n - n % 64) := by
      rw [tset, if_neg there, tfind_put]
    refine (congrArg (pageKeyOf n) found).trans ?_
    split
    next same =>
      rw [Part.page, tget_eq_tfind, ← same] at big
      exact pageKeyOf_big big
    next => rfl
  rw [Part.page, key]
  exact tget_tset_same ..

theorem State.touchPage_placed {s : State} {p n : Nat} (placed : ((s.part p).page n).state = .placed) :
    (((s.touchPage p n 1).part p).page n).state = .placed := by
  unfold State.touchPage
  dsimp only
  rw [if_pos (.inl placed), State.updPage, State.part_updPart]
  have put := Part.page_put (x := s.part p) (n := n) (v := { (s.part p).page n with acc := satAdd ((s.part p).page n).acc 1, lastt := s.now })
    (fun h => absurd (placed.symm.trans (congrArg Page.state h :)) (by decide)) rfl
  exact (congrArg Page.state put).trans placed

/-- A touched page has nothing to do with an atomic's row. -/
theorem State.atEarly_touched {s : State} {g tn p page n : Nat} {m : Msg} (h : s.atEarly g m tn = none) : (s.touchPage p page n).atEarly g m tn = none := by
  have blk : (s.touchPage p page n).blk g = s.blk g := s.touchPage_blk p page n g
  have now : (s.touchPage p page n).now = s.now := (congrArg State.now (s.touchPage_eq p page n) :)
  have same : (s.touchPage p page n).atDecide g m tn = s.atDecide g m tn := by
    simp only [State.atDecide, State.replays, blk, now]
  unfold State.atEarly at h ⊢
  rw [same]
  split at h <;> simp_all

/-! ### Serving -/

/-- The work of a request for the one line `l`. -/
def loneWork (m : Msg) (tn l : Nat) : Work := { msg := m, tick := tn, left := [l], got := [], pois := [] }

/-- The Block as it takes the work on. -/
def State.working (s : State) (g : Nat) (w : Work) : State :=
  (s.updBlk g (fun b => { b with workNext := (s.blk g).workNext + 1 })).setWork g (s.blk g).workNext (some w)

/-- A line that no cache holds is done at once (R187). -/
theorem State.startLines_cold {s : State} {g l : Nat} (cold : (s.ent g l).mode = .none) (p i : Nat) (m : Msg) :
    s.startLines g p i m [l] = some (s.lineDone g p i l none) := by
  have owner : s.settleOwner g p l = s := by simp [State.settleOwner, cold]
  have unsent : s.unsent g l i m = none := by simp [State.unsent, cold]
  have needs : s.needs g l m.pkt.mtype.toNat m.pkt.seid m.pkt.sinc = (0, [], false) := by simp [State.needs, cold]
  simp [State.startLines, owner, unsent, needs]

section
variable {t : State} {g p tn : Nat} {m : Msg} {r : LineRef} (lone : Lone t g p m r)
include lone

theorem lone_asker : ∀ j, m.asker ≠ .join j := by
  obtain ⟨-, -, -, -, -, -, -, -, -, asker⟩ := lone
  exact asker

theorem lone_cold : t.hotOf g r.line = none := by
  obtain ⟨-, -, -, -, -, -, -, -, hot, -⟩ := lone
  exact State.hotOf_cold hot

theorem State.serve_lone (early : m.pkt.mtype.toNat = tAT → t.atEarly g m tn = none)
    (room : m.pkt.mtype.toNat = tRdShared ∨ m.pkt.mtype.toNat = tRdOwn → (t.ways g r.line).length < 16) :
    let v := (t.touchPage p (r.line / 2 ^ 21) 1)
    t.serve g p m tn = .done ((v.working g (loneWork m tn r.line)).lineDone g p (v.blk g).workNext r.line none) := by
  intro v
  obtain ⟨lines, clear, behindPub, free, placed, open_, plain, mode, hot, asker⟩ := lone
  have asked : t.pageAsk g p m.pkt.mtype.toNat r = .ok v := State.pageAsk_placed placed open_ plain
  have same : SameLine g r.line v t := SameLine.touchPage ..
  have blks : v.blks = t.blks := t.touchPage_blks ..
  have cold : v.hotOf g r.line = none := same.hot.trans (State.hotOf_cold hot)
  have later : (if m.pkt.mtype.toNat = tAT then v.atEarly g m tn else .none) = .none := by
    split
    next kind => exact State.atEarly_touched (early kind)
    next => rfl
  have roomy : ¬((m.pkt.mtype.toNat = tRdShared ∨ m.pkt.mtype.toNat = tRdOwn) ∧ v.wayLess g r.line = true) := fun h => by
    have few : (v.ways g r.line).length < 16 := by
      rw [State.ways, State.touchPage_blk]
      exact room h.1
    have full := h.2
    simp only [State.wayLess, Bool.and_eq_true, decide_eq_true_eq] at full
    omega
  unfold State.serve
  dsimp only
  rw [lines, if_neg (by simp [free])]
  simp only [List.foldl_cons, List.foldl_nil, asked, List.nil_append, State.countServed_cold cold]
  rw [if_neg (by simp), later]
  dsimp only
  refine (if_neg roomy).trans ?_
  have unheld : ((v.working g (loneWork m tn r.line)).ent g r.line).mode = .none := by
    rw [State.ent, State.working, State.setWork, State.blk_updBlk, State.blk_updBlk, State.touchPage_blk]
    exact mode
  have started := State.startLines_cold unheld p (v.blk g).workNext m
  unfold State.working loneWork at started
  rw [started]
  rfl

end

/-! ### The line is done -/

section
variable {x : State} {g p i l : Nat} {w : Work} (works : tget (x.blk g).works i none = some w) (mode : (x.ent g l).mode = .none) (cold : x.hotOf g l = none)
  (page : x.pageLost p l = false)
include works mode cold page

theorem State.lineDone_atomic (kind : w.msg.pkt.mtype.toNat = tAT) :
    x.lineDone g p i l none = ((x.setWork g i none).setMode g l .none).atPerform g p w.msg w.tick := by
  simp only [State.lineDone, works, State.countServed_cold cold, page, kind, Bool.false_eq_true, false_and, if_false, if_true]

theorem State.lineDone_shared (kind : w.msg.pkt.mtype.toNat = tRdShared) (plain : (x.blk g).roots.contains l = false) :
    x.lineDone g p i l none = ((x.setWork g i none).setMode g l (.own w.msg.pkt.seid w.msg.pkt.sinc)).grant g p w.msg rGrantE l := by
  have roots : ((x.setWork g i none).blk g).roots.contains l = false := by
    rw [State.setWork, State.blk_updBlk]
    exact plain
  simp only [State.lineDone, works, State.countServed_cold cold, page, kind, mode, cold, Bool.false_eq_true, false_and, if_false]
  exact (if_neg (by decide)).trans ((if_pos trivial).trans ((if_neg (by rw [roots]; decide)).trans (if_neg (by decide))))

theorem State.lineDone_own (kind : w.msg.pkt.mtype.toNat = tRdOwn) :
    x.lineDone g p i l none = ((x.setWork g i none).setMode g l (.own w.msg.pkt.seid w.msg.pkt.sinc)).grant g p w.msg rGrantM l := by
  simp only [State.lineDone, works, State.countServed_cold cold, page, kind, mode, cold, Bool.false_eq_true, false_and, if_false]
  exact (if_neg (by decide)).trans ((if_neg (by decide)).trans (if_pos trivial))

/-- A line that is asked for is granted. -/
theorem State.lineDone_grant (asks : w.msg.pkt.mtype.toNat = tRdShared ∨ w.msg.pkt.mtype.toNat = tRdOwn) (plain : (x.blk g).roots.contains l = false) :
    x.lineDone g p i l none = ((x.setWork g i none).setMode g l (.own w.msg.pkt.seid w.msg.pkt.sinc)).grant g p w.msg
      (if w.msg.pkt.mtype.toNat = tRdShared then rGrantE else rGrantM) l := by
  rcases asks with kind | kind
  · rw [if_pos kind]
    exact State.lineDone_shared works mode cold page kind plain
  · rw [if_neg (by rw [kind]; decide)]
    exact State.lineDone_own works mode cold page kind

/-- Any other request performs on its line, and ends with it. -/
theorem State.lineDone_plain {u : State} {v : Work} (kind : w.msg.pkt.mtype.toNat ∉ [tAT, tRdShared, tRdOwn]) (performed : x.performLine g p w l = (u, v))
    (last : setDel v.left l = []) :
    let done := if w.msg.pkt.mtype.toNat = tLD ∨ w.msg.pkt.mtype.toNat = tPF then u else u.setMode g l .none
    x.lineDone g p i l none = if w.msg.pkt.mtype.toNat = tWrInv ∨ w.msg.pkt.mtype.toNat = tLostClr then
        (done.setWork g i none).reply g w.msg rWrDone stOk [cohx l false] []
      else (done.setWork g i none).finish g { v with left := [] } := by
  simp only [List.mem_cons, List.not_mem_nil, or_false, not_or] at kind
  obtain ⟨atomic, shared, own⟩ := kind
  simp only [State.lineDone, works, State.countServed_cold cold, page, atomic, shared, own, performed, last, Bool.false_eq_true, false_and, if_false]
  simp

end

/-- A request whose asker is no split one is answered when its last line is done. -/
theorem State.finish_plain {s : State} {g : Nat} {w : Work} {r : LineRef} (lines : w.msg.linesAt g = [r]) (asker : ∀ j, w.msg.asker ≠ .join j) (fails : w.fails = []) :
    s.finish g w = s.answer g w.msg (if w.msg.pkt.mtype.toNat = tPF then w.msg.lines.map (·.line) else [r.line]) w.got w.pois [] none := by
  unfold State.finish
  dsimp only
  split
  next j own => exact absurd own (asker j)
  next => simp [lines, fails, tfind, List.filterMap_eq_nil_iff.2]

theorem State.answer_store {s : State} {g : Nat} {m : Msg} (kind : m.pkt.mtype.toNat = tST) (order : List Nat) (got : Tbl (List Byte)) (pois : List Nat) (fails : Tbl Status) :
    s.answer g m order got pois fails none = s.reply g m rST stOk [] [] := by
  simp [State.answer, kind]

section
variable {x : State} {g p i : Nat} {r : LineRef} {w : Work} (works : tget (x.blk g).works i none = some w) (mode : (x.ent g r.line).mode = .none)
  (cold : x.hotOf g r.line = none) (page : x.pageLost p r.line = false) (left : w.left = [r.line]) (fails : w.fails = [])
  (lines : w.msg.linesAt g = [r]) (asker : ∀ j, w.msg.asker ≠ .join j)
include works mode cold page left fails lines asker

/-- A request that only reads is answered with the bytes of its line. -/
theorem State.lineDone_read (reads : w.msg.pkt.mtype.toNat = tLD ∨ w.msg.pkt.mtype.toNat = tPF) (got : w.got = []) (pois : w.pois = []) :
    x.lineDone g p i r.line none = (x.setWork g i none).answer g w.msg (if w.msg.pkt.mtype.toNat = tPF then w.msg.lines.map (·.line) else [r.line])
      [(r.line, x.lineBytes g p r.line)] (if x.lineBad g p r.line then [r.line] else []) [] none := by
  have performed : x.performLine g p w r.line
      = (x, { w with got := [(r.line, x.lineBytes g p r.line)], pois := if x.lineBad g p r.line then [r.line] else [] }) := by
    unfold State.performLine
    rcases reads with kind | kind <;> simp only [kind, tLD, tPF, page, got, pois, Bool.false_eq_true, if_false, List.nil_append]
  have done := State.lineDone_plain works mode cold page (by rcases reads with kind | kind <;> rw [kind] <;> decide) performed (by simp [left, setDel])
  have silent : ¬(w.msg.pkt.mtype.toNat = tWrInv ∨ w.msg.pkt.mtype.toNat = tLostClr) := by rcases reads with kind | kind <;> rw [kind] <;> decide
  dsimp only at done
  rw [if_pos reads, if_neg silent] at done
  have finished := State.finish_plain (s := x.setWork g i none) (g := g) (r := r) (w := { w with
    got := [(r.line, x.lineBytes g p r.line)], pois := if x.lineBad g p r.line then [r.line] else [], left := [] }) lines asker fails
  exact done.trans finished

/-- A request that changes its line alone does so and is answered, and the line has no owner. -/
theorem State.lineDone_write {u : State} (writes : w.msg.pkt.mtype.toNat ∈ [tST, tWrInv, tLostClr]) (performed : x.performLine g p w r.line = (u, w)) :
    x.lineDone g p i r.line none = ((u.setMode g r.line .none).setWork g i none).reply g w.msg (if w.msg.pkt.mtype.toNat = tST then rST else rWrDone) stOk
      (if w.msg.pkt.mtype.toNat = tST then [] else [cohx r.line false]) [] := by
  have kinds : w.msg.pkt.mtype.toNat = tST ∨ w.msg.pkt.mtype.toNat = tWrInv ∨ w.msg.pkt.mtype.toNat = tLostClr := by simpa using writes
  have done := State.lineDone_plain works mode cold page (by rcases kinds with kind | kind | kind <;> rw [kind] <;> decide) performed (by simp [left, setDel])
  have loud : ¬(w.msg.pkt.mtype.toNat = tLD ∨ w.msg.pkt.mtype.toNat = tPF) := by rcases kinds with kind | kind | kind <;> rw [kind] <;> decide
  dsimp only at done
  rw [if_neg loud] at done
  refine done.trans ?_
  rcases kinds with store | last
  · rw [if_neg (by rw [store]; decide), if_pos store, if_pos store]
    exact (State.finish_plain (r := r) lines asker fails).trans (State.answer_store store ..)
  · have other : ¬w.msg.pkt.mtype.toNat = tST := by rcases last with kind | kind <;> rw [kind] <;> decide
    rw [if_pos last, if_neg other, if_neg other]

end

/-! ### What a request does to its line -/

theorem State.ent_setWork (s : State) (g i l : Nat) (w : Option Work) : (s.setWork g i w).ent g l = s.ent g l := by simp [State.ent, State.setWork]

theorem State.setMode_replay (s : State) (g l : Nat) (m : DirMode) : ((s.setMode g l m).blk g).replay = (s.blk g).replay := by
  simp only [State.setMode, State.setEnt]
  split <;> simp

theorem State.lineUnlost_cold {s : State} {g p l : Nat} (cold : s.hotOf g l = none) : s.lineUnlost g p l = s.setLost p l false := by simp only [State.lineUnlost, cold]

section
variable {x : State} {g p : Nat} {w : Work} {l : Nat}

theorem State.performLine_store (kind : w.msg.pkt.mtype.toNat = tST) :
    let a := w.msg.paddr
    let n := w.msg.pkt.szm1 + 1
    let lo := max a (128 * l)
    let hi := min (a + n) (128 * (l + 1))
    x.performLine g p w l = (x.lineWrite g p l (lo - 128 * l) (bytesAt (payload w.msg.pkt.data a n) (lo - a) (hi - lo)) (bits w.msg.pkt.pmask (l - a / 128) 1 = 1), w) := by
  unfold State.performLine
  simp only [kind, tST]

theorem State.performLine_inv (kind : w.msg.pkt.mtype.toNat = tWrInv) :
    x.performLine g p w l = (x.lineWrite g p l 0 (bytesAt (slotsBytes w.msg.pkt.data) 0 128) w.msg.pkt.pois, w) := by
  unfold State.performLine
  simp only [kind, tWrInv]

theorem State.performLine_lost (kind : w.msg.pkt.mtype.toNat = tLostClr) : x.performLine g p w l = (x.lineUnlost g p l, w) := by
  unfold State.performLine
  simp only [kind, tLostClr]

end

/-! ### The request is taken -/

theorem State.homeTake_lone {s t u : State} {g p k : Nat} {m : Msg} {r : LineRef} (get : HomeGets s t g p k m) (lone : Lone t g p m r) (forth : k ≠ tWrBack ∧ k ≠ tEvict)
    (served : t.serve g p m s.now = .done u) : s.homeTake g (· = k) = u := by
  have cold := lone_cold lone
  obtain ⟨lines, clear, behindPub, -⟩ := lone
  obtain ⟨q, taken, rfl, part, kind, gate⟩ := get
  have counted : (if isOwning k then ((q.msg.linesAt g).map (·.line)).foldl (fun t l => t.countTaken g l) t else t) = t := by
    rw [lines]
    simp [State.countTaken_cold cold]
  simp only [State.homeTake, taken, part, kind, gate, decide_true, not_true_eq_false, if_false, forth, or_self, counted, clear, behindPub, Bool.false_eq_true, served]

theorem State.blk_working (s : State) (g : Nat) (w : Work) : (s.working g w).blk g
    = { s.blk g with workNext := (s.blk g).workNext + 1, works := tset (s.blk g).works (s.blk g).workNext (some w) none } := by
  simp only [State.working, State.setWork, State.blk_updBlk]

theorem State.part_working (s : State) (g p : Nat) (w : Work) : (s.working g w).part p = s.part p := rfl

theorem SameLine.working (g l : Nat) (s : State) (w : Work) : SameLine g l (s.working g w) s :=
  .of_eq (by rw [State.blk_working]) (by rw [State.blk_working]) rfl rfl rfl

/-- The state in which the lone line is done. -/
def State.loneState (t : State) (g p tn : Nat) (m : Msg) (l : Nat) : State := (t.touchPage p (l / 2 ^ 21) 1).working g (loneWork m tn l)

section
variable {t : State} {g p : Nat} {m : Msg} {r : LineRef} (lone : Lone t g p m r) (tn : Nat)

theorem State.loneState_works : tget ((t.loneState g p tn m r.line).blk g).works ((t.touchPage p (r.line / 2 ^ 21) 1).blk g).workNext none = some (loneWork m tn r.line) := by
  rw [State.loneState, State.blk_working]
  exact tget_tset_same ((t.touchPage p (r.line / 2 ^ 21) 1).blk g).works ((t.touchPage p (r.line / 2 ^ 21) 1).blk g).workNext (some (loneWork m tn r.line)) none

theorem SameLine.loneState : SameLine g r.line (t.loneState g p tn m r.line) t := (SameLine.working ..).trans (SameLine.touchPage ..)

include lone

theorem State.loneState_mode : ((t.loneState g p tn m r.line).ent g r.line).mode = .none := by
  obtain ⟨-, -, -, -, -, -, -, mode, -⟩ := lone
  rw [State.loneState, State.ent, State.blk_working, State.touchPage_blk]
  exact mode

theorem State.loneState_cold : (t.loneState g p tn m r.line).hotOf g r.line = none := (SameLine.loneState tn).hot.trans (lone_cold lone)

theorem State.loneState_page : (t.loneState g p tn m r.line).pageLost p r.line = false := by
  obtain ⟨-, -, -, -, placed, -⟩ := lone
  rw [State.pageLost, State.loneState, State.part_working, State.touchPage_placed placed]
  decide

theorem State.loneState_plain : ((t.loneState g p tn m r.line).blk g).roots.contains r.line = false := by
  obtain ⟨-, -, -, -, -, -, plain, -⟩ := lone
  rw [State.loneState, State.blk_working, State.touchPage_blk]
  exact plain

end

section
variable {s t : State} {g p k : Nat} {m : Msg} {r : LineRef} (get : HomeGets s t g p k m) (lone : Lone t g p m r) (forth : k ≠ tWrBack ∧ k ≠ tEvict)
  (early : k = tAT → t.atEarly g m s.now = none) (room : k = tRdShared ∨ k = tRdOwn → (t.ways g r.line).length < 16)
include get lone forth early room

theorem State.homeTake_done :
    s.homeTake g (· = k) = (t.loneState g p s.now m r.line).lineDone g p ((t.touchPage p (r.line / 2 ^ 21) 1).blk g).workNext r.line none := by
  have kind := homeGets_kind get
  exact State.homeTake_lone get lone forth (State.serve_lone lone (fun h => early (kind.symm.trans h)) (fun h => room (by rwa [kind] at h)))

end

/-- A request that only reads is answered with the bytes of its line, and leaves memory alone. -/
theorem State.homeTake_read {s t : State} {g p k : Nat} {m : Msg} {r : LineRef} (get : HomeGets s t g p k m) (lone : Lone t g p m r) (reads : k = tLD ∨ k = tPF) :
    ∃ u : State, s.homeTake g (· = k) = u.answer g m (if k = tPF then m.lines.map (·.line) else [r.line]) [(r.line, t.lineBytes g p r.line)]
        (if t.lineBad g p r.line then [r.line] else []) [] none ∧ u.mem = s.mem ∧ u.lost = s.lost := by
  have kind := homeGets_kind get
  have forth : k ≠ tWrBack ∧ k ≠ tEvict := by rcases reads with rfl | rfl <;> decide
  have same := SameLine.loneState (t := t) (g := g) (p := p) (m := m) (r := r) s.now
  have done := State.lineDone_read (State.loneState_works s.now) (State.loneState_mode lone s.now) (State.loneState_cold lone s.now) (State.loneState_page lone s.now)
    rfl rfl lone.1 (lone_asker lone) (by rw [loneWork]; rwa [kind]) rfl rfl
  rw [same.lineBytes, same.lineBad, loneWork, kind] at done
  exact ⟨_, (State.homeTake_done get lone forth (fun h => absurd h (by rcases reads with rfl | rfl <;> decide))
    (fun h => absurd h (by rcases reads with rfl | rfl <;> decide))).trans done, same.mem.trans (homeGets_mem get), same.lost.trans (homeGets_lost get)⟩

/-- A request that changes its line does so and is answered, and the line has no owner. -/
theorem State.homeTake_write {s t u : State} {g p k : Nat} {m : Msg} {r : LineRef} (get : HomeGets s t g p k m) (lone : Lone t g p m r) (writes : k ∈ [tST, tWrInv, tLostClr])
    (performed : (t.loneState g p s.now m r.line).performLine g p (loneWork m s.now r.line) r.line = (u, loneWork m s.now r.line)) :
    ∃ v : State, s.homeTake g (· = k) = v.reply g m (if k = tST then rST else rWrDone) stOk (if k = tST then [] else [cohx r.line false]) []
      ∧ (v.ent g r.line).mode = .none ∧ v.mem = u.mem ∧ v.poison = u.poison ∧ v.lost = u.lost := by
  have kind := homeGets_kind get
  have kinds : k = tST ∨ k = tWrInv ∨ k = tLostClr := by simpa using writes
  have forth : k ≠ tWrBack ∧ k ≠ tEvict := by rcases kinds with rfl | rfl | rfl <;> decide
  have done := State.lineDone_write (State.loneState_works s.now) (State.loneState_mode lone s.now) (State.loneState_cold lone s.now) (State.loneState_page lone s.now)
    rfl rfl lone.1 (lone_asker lone) (by rw [loneWork]; rwa [kind]) performed
  rw [loneWork, kind] at done
  refine ⟨_, (State.homeTake_done get lone forth (fun h => absurd h (by rcases kinds with rfl | rfl | rfl <;> decide))
    (fun h => absurd h (by rcases kinds with rfl | rfl | rfl <;> decide))).trans done, ?_, u.setMode_mem .., u.setMode_poison .., u.setMode_lost ..⟩
  rw [State.ent_setWork]
  exact State.ent_setMode_mode ..

/-- A request for ownership of its line is granted it. -/
theorem State.homeTake_grant {s t : State} {g p k : Nat} {m : Msg} {r : LineRef} (get : HomeGets s t g p k m) (lone : Lone t g p m r) (asks : k = tRdShared ∨ k = tRdOwn)
    (room : (t.ways g r.line).length < 16) :
    ∃ u : State, s.homeTake g (· = k) = u.grant g p m (if k = tRdShared then rGrantE else rGrantM) r.line ∧ (u.ent g r.line).mode = .own m.pkt.seid m.pkt.sinc
      ∧ u.mem = s.mem ∧ u.lost = s.lost := by
  have kind := homeGets_kind get
  have forth : k ≠ tWrBack ∧ k ≠ tEvict := by rcases asks with rfl | rfl <;> decide
  have same := SameLine.loneState (t := t) (g := g) (p := p) (m := m) (r := r) s.now
  have taken := State.homeTake_done get lone forth (fun h => absurd h (by rcases asks with rfl | rfl <;> decide)) (fun _ => room)
  have done := State.lineDone_grant (State.loneState_works s.now) (State.loneState_mode lone s.now) (State.loneState_cold lone s.now) (State.loneState_page lone s.now)
    (by rw [loneWork]; rwa [kind]) (State.loneState_plain lone s.now)
  rw [loneWork, kind] at done
  exact ⟨_, taken.trans done, State.ent_setMode_mode .., (State.setMode_mem ..).trans (same.mem.trans (homeGets_mem get)),
    (State.setMode_lost ..).trans (same.lost.trans (homeGets_lost get))⟩

/-- An atomic whose row has to be looked for goes through the rows. -/
theorem State.homeTake_atomic {s t : State} {g p : Nat} {m : Msg} {r : LineRef} (get : HomeGets s t g p tAT m) (lone : Lone t g p m r) (early : t.atEarly g m s.now = none) :
    ∃ u : State, s.homeTake g (· = tAT) = u.atPerform g p m s.now ∧ u.mem = s.mem ∧ (u.blk g).replay = (t.blk g).replay ∧ (u.ent g r.line).mode = .none := by
  have same := SameLine.loneState (t := t) (g := g) (p := p) (m := m) (r := r) s.now
  have taken := State.homeTake_done get lone (by decide) (fun _ => early) (fun h => absurd h (by decide))
  have done := State.lineDone_atomic (State.loneState_works s.now) (State.loneState_mode lone s.now) (State.loneState_cold lone s.now) (State.loneState_page lone s.now)
    (homeGets_kind get)
  refine ⟨_, taken.trans done, (State.setMode_mem ..).trans (same.mem.trans (homeGets_mem get)), ?_, State.ent_setMode_mode ..⟩
  rw [State.setMode_replay, State.setWork, State.blk_updBlk, State.loneState, State.blk_working, State.touchPage_blk]

/-- Settles O39. -/
theorem homesServeRequests : Obligations.HomesServeRequests := by
  intro s t g p m r lone b l bad a n lo hi
  have same := SameLine.loneState (t := t) (g := b) (p := p) (m := m) (r := r) s.now
  refine ⟨fun get => ?_, fun get => ?_, fun get => ?_, fun get early => ?_, fun get room => ?_, fun get room => ?_, fun get => ?_, fun get => ?_⟩
  · obtain ⟨u, taken, mem, lost⟩ := State.homeTake_read get lone (.inl rfl)
    exact ⟨u, congrArg _ taken, mem, lost⟩
  · obtain ⟨u, taken, mem, lost⟩ := State.homeTake_read get lone (.inr rfl)
    exact ⟨u, congrArg _ taken, mem, lost⟩
  · obtain ⟨u, taken, -, mem, poison, lost⟩ := State.homeTake_write get lone (by decide) (State.performLine_store (homeGets_kind get))
    obtain ⟨mem', poison', lost'⟩ := same.linePut p (lo - 128 * l) (bytesAt (payload m.pkt.data a n) (lo - a) (hi - lo)) (bits m.pkt.pmask (l - a / 128) 1 = 1)
      ((bytesAt (payload m.pkt.data a n) (lo - a) (hi - lo)).length = 128)
    exact ⟨u, congrArg _ taken, mem.trans mem', poison.trans poison', lost.trans lost'⟩
  · obtain ⟨u, taken, kept⟩ := State.homeTake_atomic get lone early
    exact ⟨u, congrArg _ taken, kept⟩
  · obtain ⟨u, taken, kept⟩ := State.homeTake_grant get lone (.inl rfl) room
    exact ⟨u, congrArg _ taken, kept⟩
  · obtain ⟨u, taken, kept⟩ := State.homeTake_grant get lone (.inr rfl) room
    exact ⟨u, congrArg _ taken, kept⟩
  · obtain ⟨u, taken, mode, mem, poison, lost⟩ := State.homeTake_write get lone (by decide) (State.performLine_inv (homeGets_kind get))
    obtain ⟨mem', poison', lost'⟩ := same.linePut p 0 (bytesAt (slotsBytes m.pkt.data) 0 128) m.pkt.pois ((bytesAt (slotsBytes m.pkt.data) 0 128).length = 128)
    exact ⟨u, congrArg _ taken, mode, mem.trans mem', poison.trans poison', lost.trans lost'⟩
  · obtain ⟨u, taken, mode, mem, poison, lost⟩ := State.homeTake_write get lone (by decide) (State.performLine_lost (homeGets_kind get))
    rw [State.lineUnlost_cold (State.loneState_cold lone s.now)] at mem poison lost
    exact ⟨u, congrArg _ taken, lost.trans (congrArg (setPut · (lineKey p l) false) same.lost), mem.trans (same.mem.trans (homeGets_mem get)),
      poison.trans (same.poison.trans (homeGets_poison get))⟩

end Sys2Proof.Machine
end

section
/-! Answers to snoops, and what a home does by itself (R163, R171, R185, R197, R203, R205). -/

namespace Sys2Proof.Machine

/-! ### Directory entries put in canonical form -/

@[simp] theorem DirEnt.tidy_txn (e : DirEnt) : e.tidy.txn = e.txn := by
  unfold DirEnt.tidy
  split
  next h => exact h.2.1.symm
  next => rfl

@[simp] theorem DirEnt.tidy_hot (e : DirEnt) : e.tidy.hot = e.hot := by
  unfold DirEnt.tidy
  split
  next h => exact h.2.2.1.symm
  next => rfl

theorem State.ent_updEnt (s : State) (g l : Nat) (f : DirEnt → DirEnt) : (s.updEnt g l f).ent g l = (f (s.ent g l)).tidy := by
  rw [State.updEnt, State.ent_setEnt]

/-! ### An answer to a snoop -/

section
variable {s t : State} {g mt : Nat} {m : Msg} (taken : s.takeTc3 g mt = some (m, t))
include taken

theorem State.snoopAnswer_unknown (unknown : t.tagHolder m.pkt.tag m.pkt.seid = none) : s.snoopAnswer g mt = t.lateRsp m.pkt.tag := by
  simp only [State.snoopAnswer, taken, unknown]

theorem State.snoopAnswer_known {l p : Nat} {x : Txn} (held : t.tagHolder m.pkt.tag m.pkt.seid = some (.snoop g l)) (part : t.partOfBlk g = some p)
    (txn : (t.ent g l).txn = some x) (waits : x.waits.any (fun w => w.tag = m.pkt.tag && w.eid = m.pkt.seid) = true) :
    s.snoopAnswer g mt = (t.tagDrop m.pkt.tag m.pkt.seid).snoopDone g p l m.pkt.tag m.pkt.seid (bits m.pkt.memx 55 1 = 1) (bits m.pkt.memx 56 2 = 1)
      (if mt = rSnpRespD then some (bytesAt (slotsBytes m.pkt.data) 0 128, m.pkt.pois) else none) := by
  simp only [State.snoopAnswer, taken, held, part, txn, waits]
  exact if_neg (by simp)

end

/-- A line that still waits for an answer does not settle (R197). -/
theorem State.settle_waiting {s : State} {g p l : Nat} {t : Txn} (txn : (s.ent g l).txn = some t) (waits : t.waits ≠ []) : s.settle g p l = s := by
  simp only [State.settle, txn]
  exact if_pos waits

/-- An answer among several ends its own wait and no other. -/
theorem State.snoopDone_waiting {s : State} {g p l : Nat} {tag : Tag} {x : Eid} {t : Txn} (txn : (s.ent g l).txn = some t)
    (other : ∃ w, w ∈ t.waits ∧ ¬(w.tag = tag ∧ w.eid = x)) :
    s.snoopDone g p l tag x false false none
      = s.updEnt g l (fun e => { e with txn := some { t with waits := t.waits.filter (fun w => !(w.tag = tag && w.eid = x)) } }) := by
  obtain ⟨w, held, differs⟩ := other
  have left : t.waits.filter (fun w => !(w.tag = tag && w.eid = x)) ≠ [] :=
    List.ne_nil_of_mem (List.mem_filter.2 ⟨held, by simpa [Decidable.imp_iff_not_or] using differs⟩)
  simp only [State.snoopDone, txn, Bool.or_false]
  exact State.settle_waiting (by rw [State.ent_updEnt, DirEnt.tidy_txn]) left

/-! ### A request set aside -/

/-- With no entry due, the first request set aside is served in its turn (R171). -/
theorem exec_serveFirst {s u : State} {g : BlockId} {p : Nat} {c : SetAside} {rest : List SetAside} (part : s.partOfBlk g.toNat = some p) (conf : (s.blk g.toNat).conf = c :: rest)
    (undue : (s.blk g.toNat).dir.any (fun e => e.2.due.isSome) = false) (turn : s.pubBehind g.toNat c.msg c.ord = false)
    (served : (s.updBlk g.toNat (fun b => { b with conf := rest })).serve g.toNat p c.msg c.tick = .done u) : exec (.conflictTableServe g) s = .next u := by
  have none_due : (s.blk g.toNat).dir.filter (fun e => e.2.due.isSome && e.2.txn.isNone) = [] := by
    rw [List.filter_eq_nil_iff]
    intro e held
    have clear := List.any_eq_false.1 undue e held
    simp only [Bool.not_eq_true] at clear
    simp [clear]
  have first : ¬(behind [] g.toNat c.msg ∨ s.pubBehind g.toNat c.msg c.ord = true) := by simp [behind, turn]
  dsimp only [exec, execConflictTableServe]
  rw [part]
  simp only [none_due, List.map_nil, List.foldl_nil]
  rw [conf, State.serveAside, if_neg first]
  simp only [List.nil_append, served]

/-! ### The end of a pin -/

section
variable {s : State} {g k p : Nat} {h : Hot} (held : tget (s.blk g).hot k none = some h) (own : (s.ent g h.line).hot = some k)
include held own

theorem State.endHot_effect : s.endHot g p h.line
    = ((((s.setHot g k none).updEnt g h.line (fun e => { e with hot := none })).pokes p (128 * h.line) h.bytes).setPoison p h.line h.poison).setLost p h.line h.lost := by
  have hot : s.hotOf g h.line = some (k, h) := by simp [State.hotOf, own, held]
  simp only [State.endHot, hot]

theorem State.endHot_blks : (s.endHot g p h.line).blks = ((s.setHot g k none).updEnt g h.line (fun e => { e with hot := none })).blks := by
  rw [State.endHot_effect held own]
  exact State.pokes_blks ..

theorem State.endHot_mem : (s.endHot g p h.line).mem = (s.pokes p (128 * h.line) h.bytes).mem := by
  rw [State.endHot_effect held own]
  exact State.pokes_mem_congr (s := (s.setHot g k none).updEnt g h.line (fun e => { e with hot := none })) (t := s) rfl p (128 * h.line) h.bytes

end

/-! ### The death walk -/

/-- A line that the dead agent held by itself is lost, and has no owner (R205). -/
theorem State.deathWalk_owner {s : State} {g p l : Nat} {eid : Eid} {inc : Inc} {e : DirEnt} (dir : (s.blk g).dir = [(l, e)]) (own : e.mode = .own eid inc) (idle : e.txn = none) :
    s.deathWalk g p eid inc = ((s.markLost g p l eid inc).setMode g l .none, 1, b1 (4096 ≤ (s.blk g).lostLog.length)) := by
  simp [State.deathWalk, dir, own, idle]

theorem State.lostLog_setMode (s : State) (g l : Nat) (m : DirMode) : ((s.setMode g l m).blk g).lostLog = (s.blk g).lostLog := by
  simp only [State.setMode, State.setEnt]
  split <;> simp

/-- One Block walks: what it finds is raised (R205). -/
theorem exec_deathWalkDone_one {s : State} {eid : Eid} {inc : Inc} {g p : Nat} {b : Block} (walks : s.blks.filter (fun e => e.2.walks.contains (.death eid inc)) = [(g, b)]) :
    let w := s.updBlk g (fun b => { b with walks := b.walks.erase (.death eid inc) })
    w.partOfBlk g = some p →
      let d := w.deathWalk g p eid inc
      exec (.deathWalkDone eid inc) s = .next (if d.2.1 = 0 then d.1 else
        d.1.raise (({ code := 0x21, unit := uBlk g, eid := eid, inc := inc, d0 := BitVec.ofNat 64 d.2.1, d1 := BitVec.ofNat 64 d.2.2 } : Event).inPart p (d.1.part p))) := by
  intro w part d
  dsimp only [exec, execDeathWalkDone]
  rw [walks]
  have taken : (s.updBlk g (fun b => { b with walks := b.walks.erase (.death eid inc) })).partOfBlk g = some p := part
  simp only [List.foldl_cons, List.foldl_nil, taken, d, w]

/-- A wait that is too old is marked slow, once (R197). -/
theorem exec_snoopSlow_one {s : State} {g : BlockId} {line : BitVec 45} {p : Nat} {x : Txn} {w : Snoop} (txn : (s.ent g.toNat line.toNat).txn = some x)
    (part : s.partOfBlk g.toNat = some p) (waits : x.waits = [w]) (fresh : w.slow = false) (late : endOf w.sent 1000 ≤ s.now) :
    let u := s.updEnt g.toNat line.toNat (fun e => { e with txn := some { x with waits := [{ w with slow := true }] } })
    exec (.snoopSlow g line) s
      = .next (u.raise (({ code := 0x20, unit := uBlk g.toNat, eid := w.eid, inc := w.inc, d0 := BitVec.ofNat 64 (128 * line.toNat) } : Event).inPart p (s.part p))) := by
  dsimp only [exec, execSnoopSlow]
  simp [txn, part, waits, fresh, late, State.updEnt, State.setEnt]

/-- Settles O43: what ends a wait, a turn, a pin, a walk and a replay entry. -/
theorem homesSettle : Obligations.HomesSettle := by
  refine ⟨?_, ?_, ?_, ?_, ?_, ?_, ?_, ?_⟩
  · intro s t g m k
    refine ⟨fun unknown => ⟨fun taken => congrArg _ (State.snoopAnswer_unknown taken unknown), fun taken => congrArg _ (State.snoopAnswer_unknown taken unknown)⟩,
      fun l p x held part txn waits => ⟨fun taken => ?_, fun taken => ?_⟩⟩
    · exact congrArg _ (State.snoopAnswer_known taken held part txn waits)
    · exact congrArg _ (State.snoopAnswer_known taken held part txn waits)
  · intro s g p l tag x t txn other u
    have done : u = _ := State.snoopDone_waiting txn other
    rw [done]
    exact ⟨by rw [State.ent_updEnt, DirEnt.tidy_txn], rfl⟩
  · exact fun s g p c rest u part conf undue turn served => exec_serveFirst part conf undue turn served
  · intro s g k p h held part late
    refine ⟨fun last busy => ⟨s.setHot g.toNat k.toNat (some { h with pinEnd := endOf h.pinEnd 16 }), ?_, ?_, rfl⟩,
      fun quiet own => ⟨s.endHot g.toNat p h.line, ?_, ?_, ?_, State.endHot_mem held own⟩⟩
    · dsimp only [exec, execHotPinEnd]
      simp only [held, part]
      rw [if_neg (by omega), if_pos ⟨last, busy⟩]
    · rw [State.setHot, State.blk_updBlk]
      exact tget_tset_same (s.blk g.toNat).hot k.toNat (some { h with pinEnd := endOf h.pinEnd 16 }) none
    · dsimp only [exec, execHotPinEnd]
      simp only [held, part]
      rw [if_neg (by omega), if_neg (by omega)]
    · rw [State.blk_congr (State.endHot_blks held own), State.updEnt, State.setEnt, State.setHot]
      simp only [State.blk_updBlk]
      exact tget_tset_same (s.blk g.toNat).hot k.toNat none none
    · rw [State.ent, State.blk_congr (State.endHot_blks held own), ← State.ent, State.ent_updEnt, DirEnt.tidy_hot]
  · intro s g line p x w txn part waits fresh late
    refine ⟨_, exec_snoopSlow_one txn part waits fresh late, ?_, rfl⟩
    rw [State.ent_updEnt, DirEnt.tidy_txn]
  · intro s eid inc g p b walks w part d
    exact exec_deathWalkDone_one walks part
  · intro s g p l eid inc e dir own idle cold room d
    have walked : d = _ := State.deathWalk_owner dir own idle
    rw [walked]
    refine ⟨rfl, ?_, State.setMode_lost .., State.ent_setMode_mode .., State.setMode_mem .., ?_⟩
    · dsimp only
      rw [decide_eq_false (by omega)]
      rfl
    · rw [State.lostLog_setMode, State.markLost, State.blk_updBlk]
      exact (congrArg Block.lostLog (if_pos room)).trans rfl
  · intro s g
    refine ⟨_, rfl, ?_, ?_⟩
    · rw [State.blk_updBlk]
    · rw [State.blk_updBlk]
      rfl

end Sys2Proof.Machine
end

section
/-! Register accesses over the management interfaces (R426, R495, R496, R498, R499). -/

namespace Sys2Proof.Machine

/-! ### Fields of the Square -/

/-- The journal entry of a write to a field of the Square (R426). -/
def fieldEntry (s u : State) (m : Mctp) (o : Nat) : JEntry :=
  { src := srcOf m, flags := 3, target := BitVec.ofNat 32 o, old := s.readSq o, new := u.readSq o }

section
variable {s : State} {m : Mctp} (up : s.answers m = true) (on : s.boot.step ≠ 7)

theorem State.mgmtWrite_down (down : s.answers m = false) (o : Nat) (v : BitVec 64) : s.mgmtWrite m o v = s := by
  unfold State.mgmtWrite
  exact if_pos (.inl (by simp [down]))

include up on

theorem State.mgmtWrite_square {o : Nat} (low : o < 0xC000) (v : BitVec 64) :
    s.mgmtWrite m o v = match s.writeSq o v with
      | none => s
      | some u => if u.pw.trans = some 7 then (u.journal (fieldEntry s u m o)).warmStart 8 0 else u.journal (fieldEntry s u m o) := by
  have no_window : Machine.windowOf o = none := by
    unfold Machine.windowOf
    rw [if_neg (by omega), if_neg (by omega)]
  have square (t : State) : t.readReg o = t.readSq o := if_pos (by omega)
  have writes : s.writeReg o v = s.writeSq o v := if_pos (by omega)
  unfold State.mgmtWrite
  rw [if_neg (not_or.2 ⟨Classical.not_not.2 up, on⟩), no_window]
  dsimp only
  rw [if_neg (by omega), writes]
  cases s.writeSq o v with
  | none => rfl
  | some u =>
    dsimp only
    rw [square, square]
    rfl

theorem State.mgmtWrite_taken {o : Nat} {u : State} (low : o < 0xC000) {v : BitVec 64} (takes : s.writeSq o v = some u) :
    s.mgmtWrite m o v = if u.pw.trans = some 7 then (u.journal (fieldEntry s u m o)).warmStart 8 0 else u.journal (fieldEntry s u m o) := by
  rw [State.mgmtWrite_square up on low, takes]

/-- The interface's own window takes its GO (R499). -/
theorem exec_ctlwGoWrite (v : BitVec 64) : exec (.ctlwGoWrite m v) s = .next (s.go m v) := by
  dsimp only [exec, execCtlwGoWrite]
  unfold State.mgmtWrite
  rw [if_neg (not_or.2 ⟨Classical.not_not.2 up, on⟩)]
  cases m <;> simp [Machine.windowOf, State.writeWindow]

end

/-! ### The fields themselves -/

theorem State.writeSelf_used {s : State} (used : s.ports.any (fun e => e.2.off = 0 && e.2.state ≠ .disabled) = true) (v : BitVec 64) : s.writeSelf v = s := if_pos used

/-- SQ_SELF takes its value while every fabric port is DISABLED (R498). -/
theorem State.writeSelf_free {s : State} (free : s.ports.any (fun e => e.2.off = 0 && e.2.state ≠ .disabled) = false) (v : BitVec 64) :
    let e : Eid := BitVec.ofNat 12 (sbits v 0 12)
    let i : Inc := BitVec.ofNat 8 (sbits v 12 8)
    let u : State := { s with selfEid := e, selfInc := i }
    s.writeSelf v = if e = 0xFFF then u else u.setInc e i := by
  unfold State.writeSelf
  rw [if_neg (by rw [free]; decide)]

theorem sbits_toNat_ofNat (v : BitVec 64) (o n : Nat) : (BitVec.ofNat n (sbits v o n)).toNat = sbits v o n := by
  rw [BitVec.toNat_ofNat]
  exact Nat.mod_eq_of_lt (Nat.mod_lt _ (Nat.two_pow_pos n))

/-! ### The control window -/

section
variable {s : State} {m : Mctp} {v : BitVec 64}

theorem State.window_updWindow (s : State) (m : Mctp) (f : Window → Window) : (s.updWindow m f).window m = f (s.window m) := by cases m <;> rfl

theorem State.updWindow_eq (s : State) (m : Mctp) (f : Window → Window) :
    s.updWindow m f = { s with winP := (s.updWindow m f).winP, winI := (s.updWindow m f).winI } := by cases m <;> rfl

theorem State.go_idle (off : sbit v 0 = false) : s.go m v = s := if_pos (by simp [off])

theorem State.go_busy (on : sbit v 0 = true) (busy : (s.window m).busy = true) : s.go m v = s.updWindow m (fun w => { w with dropGo := satAdd w.dropGo 1 }) :=
  (if_neg (by simp [on])).trans (if_pos busy)

theorem State.go_free (on : sbit v 0 = true) (free : (s.window m).busy = false) :
    s.go m v = { s.updWindow m (fun w => { w with busy := true, done := false }) with
      ctlq := s.ctlq ++ [(viaOf m, (s.window m).insn, (List.range (min 63 (sbits (s.window m).insn 72 12))).map (fun i => tget (s.window m).args (i + 1) 0))] } :=
  (if_neg (by simp [on])).trans (if_neg (by simp [free]))

end

/-! ### Messages of the I3C interface -/

section
variable {req : List Byte} (whole : req.length = 16)
include whole

theorem exec_i3cAccess {s : State} (up : s.answers .i3c = true) (clean : natAt req 1 3 = 0) (known : natAt req 0 1 ≤ 1) :
    let o := natAt req 4 4
    let reply := fun (b : Nat) (v : BitVec 64) => Output.i3cResp (leBytes 8 b ++ leBytes 8 v.toNat)
    exec (.i3cRegisterAccess req) s = if o % 8 ≠ 0 then .next (s.emit (reply 1 0)) else if natAt req 0 1 = 0 then .next (s.emit (reply 0 (s.mgmtRead .i3c o)))
      else .next ((s.mgmtWrite .i3c o (BitVec.ofNat 64 (natAt req 8 8))).emit (reply 0 0)) := by
  dsimp only [exec, execI3cRegisterAccess]
  rw [if_neg (by simp [whole]), if_neg (by simp [up, clean]; omega)]

end

/-- Settles O58: each access through the field it names. -/
theorem registerAccessesAct : Obligations.RegisterAccessesAct := by
  refine ⟨?_, ?_, ?_, ?_, ?_, ?_⟩
  · intro s m v up on wrote
    have field {off : Nat} {u : State} (low : off < 0xC000) (takes : s.writeSq off v = some u) : wrote off (s.mgmtWrite m off v) :=
      ⟨u, fieldEntry s u m off, takes, rfl, rfl, rfl, rfl, State.mgmtWrite_taken up on low takes⟩
    exact ⟨⟨_, rfl, field (by decide) rfl⟩, ⟨_, rfl, field (by decide) rfl⟩, ⟨_, rfl, field (by decide) rfl⟩⟩
  · intro s m off v up on aligned low
    have access : exec (.registerWrite m off 8 v) s = .next (s.mgmtWrite m off.toNat v) := if_pos ⟨rfl, aligned⟩
    refine ⟨fun u takes stays => ⟨fieldEntry s u m off.toNat, rfl, ?_, rfl, rfl, ?_⟩, fun takes => ?_⟩
    · simp [fieldEntry]
    · rw [access, State.mgmtWrite_taken up on low takes, if_neg stays]
    · rw [access, State.mgmtWrite_square up on low, takes]
  · intro s m off width v bad
    dsimp only [exec, execRegisterWrite]
    split
    next fits => rw [State.mgmtWrite_down (by exact bad.elim (absurd fits.1) fun h => h.elim (absurd fits.2) id)]
    next => rfl
  · intro s v
    refine ⟨fun used => State.writeSelf_used used v, fun free => ?_, fun saving on => ?_, fun idle => ?_, rfl, rfl, fun reserved => if_pos reserved, fun legal => ?_⟩
    · rw [State.writeSelf_free free]
      refine ⟨?_, ?_, fun known => ?_⟩
      · split <;> exact sbits_toNat_ofNat v 0 12
      · split <;> exact sbits_toNat_ofNat v 12 8
      · have e : ¬BitVec.ofNat 12 (sbits v 0 12) = 0xFFF := fun h => known ((sbits_toNat_ofNat v 0 12).symm.trans (congrArg BitVec.toNat h))
        rw [if_neg e]
        exact (congrArg BitVec.toNat (tget_tset_same ..)).trans (sbits_toNat_ofNat v 12 8)
    · simp [State.writePeriph, saving, on]
    · simp [State.writePeriph, idle]
    · rw [State.writeLed, if_neg legal]
      exact ⟨sbits_toNat_ofNat v 0 2, rfl⟩
  · intro s m v up on
    have access : exec (.ctlwGoWrite m v) s = .next (s.go m v) := exec_ctlwGoWrite up on v
    refine ⟨fun off => ?_, fun go busy => ⟨_, access, ?_⟩, fun go free => ?_⟩
    · rw [access, State.go_idle off]
    · rw [State.go_busy go busy, State.window_updWindow]
      exact ⟨rfl, rfl, by cases m <;> rfl, State.updWindow_eq ..⟩
    · refine ⟨s.go m v, (List.range (min 63 (sbits (s.window m).insn 72 12))).map (fun i => tget (s.window m).args (i + 1) 0), access, ?_⟩
      rw [State.go_free go free]
      refine ⟨?_, ?_, rfl, by simp, fun k short => ?_, by cases m <;> rfl⟩
      · exact congrArg Window.busy (s.window_updWindow m (fun w => { w with busy := true, done := false }))
      · exact congrArg Window.done (s.window_updWindow m (fun w => { w with busy := true, done := false }))
      · rw [List.getElem?_map, List.getElem?_range (by simpa using short)]
        rfl
  · intro s req o reply
    refine ⟨fun long => if_pos long, fun whole up clean known => ?_⟩
    have access := exec_i3cAccess whole up clean known
    refine ⟨fun odd => access.trans (if_pos odd), fun even read => ?_, fun even write => ⟨_, ?_, rfl⟩⟩
    · exact access.trans ((if_neg (Classical.not_not.2 even)).trans (if_pos read))
    · exact access.trans ((if_neg (Classical.not_not.2 even)).trans (if_neg (by omega)))

end Sys2Proof.Machine
end

section
/-! The boundary of a tick, health, markers and the timebase (R36 to R45, R134, R458, R470). -/

namespace Sys2Proof.Machine

/-! ### Tables mapped entry by entry -/

/-- An entry of a mapped table comes from an entry under the same key. -/
theorem mem_tmap {α : Type} [DecidableEq α] {t : Tbl α} {d : α} {f : Nat → α → α} {e : Nat × α} (h : e ∈ tmap t d f) : ∃ x ∈ t, x.1 = e.1 ∧ e.2 = f x.1 x.2 := by
  obtain ⟨x, held, made⟩ := List.mem_filterMap.1 h
  refine ⟨x, held, ?_⟩
  split at made
  next => cases made
  next => cases made; exact ⟨rfl, rfl⟩

/-- What a mapped table holds where the table held something of its own. -/
theorem tget_tmap_held {α : Type} [DecidableEq α] {t : Tbl α} {d : α} {f : Nat → α → α} {k : Nat} (held : tget t k d ≠ d) (kept : f k (tget t k d) ≠ d) :
    tget (tmap t d f) k d = f k (tget t k d) := by
  induction t with
  | nil => exact absurd rfl held
  | cons e r ih =>
    obtain ⟨j, v⟩ := e
    by_cases same : j = k
    · subst same
      have here : tget ((j, v) :: r) j d = v := if_pos rfl
      rw [here] at kept ⊢
      simp [tmap, kept, tget]
    · have there : tget ((j, v) :: r) k d = tget r k d := if_neg same
      rw [there] at held kept ⊢
      rw [← ih held kept]
      by_cases gone : f j v = d
      · simp [tmap, gone]
      · simp [tmap, gone, tget, same]

/-! ### The boundary -/

theorem State.runAudit_clean {s : State} (clean : s.audit = []) : s.runAudit = s := by
  simp only [State.runAudit, clean]

/-- A tick begins with one more on the counter, and memory and partitions as they were. -/
theorem State.newTick_effect (s : State) : let u := s.startTick.holdGaps.closeTick
    u.tb.tick = s.tb.tick + 1 ∧ u.mem = s.mem ∧ u.parts = s.parts := by
  have started : s.startTick.tb.tick = s.tb.tick + 1 ∧ s.startTick.mem = s.mem ∧ s.startTick.parts = s.parts := by
    unfold State.startTick
    dsimp only
    split <;> exact ⟨rfl, rfl, rfl⟩
  exact started

/-- The budgets of a tick, engine by engine. -/
theorem tget_budgets (full : Int) (v : Nat → Int) {e : Nat} (h : e < 4) : tget ((List.range 4).foldl (fun t k => tset t k (v k) full) []) e full = v e := by
  have cases : e = 0 ∨ e = 1 ∨ e = 2 ∨ e = 3 := by omega
  rw [show List.range 4 = [0, 1, 2, 3] from rfl]
  simp only [List.foldl_cons, List.foldl_nil]
  rcases cases with rfl | rfl | rfl | rfl
  · rw [tget_tset_other _ _ _ (by decide), tget_tset_other _ _ _ (by decide), tget_tset_other _ _ _ (by decide), tget_tset_same]
  · rw [tget_tset_other _ _ _ (by decide), tget_tset_other _ _ _ (by decide), tget_tset_same]
  · rw [tget_tset_other _ _ _ (by decide), tget_tset_same]
  · rw [tget_tset_same]

/-- The budgets of a Block's engines for the next tick, by what they overran. -/
def State.nextBudget (s : State) (debt : Tbl Nat) : Tbl Int :=
  (List.range 4).foldl (fun t k => tset t k (if s.pw.level.toNat ≤ s.now % 8 then 0 else (s.budgetMax : Int) - tget debt k 0) (s.budgetMax : Int)) []

/-- A member Block begins the tick with full budgets less the overruns, or, in a withheld tick, with none (R50, R458). -/
theorem State.resetBudgets_budget {s : State} {g e : Nat} (member : (s.blk g).state = .member) (engine : e < 4) :
    s.resetBudgets.budgetOf g e = if s.pw.level.toNat ≤ s.now % 8 then 0 else (s.budgetMax : Int) - tget (s.blk g).debt e 0 := by
  have held : tget s.blks g {} ≠ {} := fun h => absurd (member.symm.trans (congrArg Block.state h :)) (by decide)
  have fuse : s.resetBudgets.budgetMax = s.budgetMax := by
    unfold State.resetBudgets
    dsimp only
    split <;> rfl
  have blks : s.resetBudgets.blks = tmap s.blks {} (fun _ b => { b with debt := [], budget := s.nextBudget b.debt }) := by
    unfold State.resetBudgets
    dsimp only
    by_cases low : s.pw.level.toNat ≤ s.now % 8
    · simp only [State.nextBudget, decide_eq_true low, if_true, if_pos low]
    · simp only [State.nextBudget, decide_eq_false low, Bool.false_eq_true, if_false, if_neg low]
  rw [State.budgetOf, State.blk, blks, fuse,
    tget_tmap_held held (fun h => absurd (member.symm.trans (congrArg Block.state h :)) (by decide))]
  exact tget_budgets _ (fun k => if s.pw.level.toNat ≤ s.now % 8 then 0 else (s.budgetMax : Int) - tget (s.blk g).debt k 0) engine

/-- A bucket gains PRATE up to PBURST (R134). -/
theorem State.mem_refill {s : State} {e : Nat × Port} (held : e ∈ s.refill.ports) : ∃ f, f ∈ s.ports ∧ f.1 = e.1 ∧ e.2 = { f.2 with pol := e.2.pol }
    ∧ ∀ x, x ∈ e.2.pol → ∃ y, y ∈ f.2.pol ∧ y.1 = x.1 ∧ x.2 = { y.2 with bucket := min (y.2.bucket + y.2.prate.toNat) y.2.pburst.toNat } := by
  have inside : e ∈ tmap s.ports {} (fun _ p => { p with pol := tmap p.pol {} (fun _ x => { x with bucket := min (x.bucket + x.prate.toNat) x.pburst.toNat }) }) := held
  obtain ⟨f, old, key, made⟩ := mem_tmap inside
  refine ⟨f, old, key, by rw [made], fun x bucket => ?_⟩
  have pol : e.2.pol = tmap f.2.pol {} (fun _ x => { x with bucket := min (x.bucket + x.prate.toNat) x.pburst.toNat }) := (congrArg Port.pol made :)
  exact mem_tmap (pol ▸ bucket)

/-- The samples of power that the governor looks at, with the new one. -/
def State.sampled (s : State) (w : Nat) : List Nat := (s.pw.watts ++ [w]).drop ((s.pw.watts.length + 1) - 100)

/-- The level that the governor sets (R458). -/
def State.nextLevel (s : State) (w : Nat) : Nat :=
  if s.now < s.pw.lastLvl then s.pw.level.toNat
  else if s.fuse.variant.env * (s.sampled w).length < (s.sampled w).sum then max 2 (s.pw.level.toNat - 1)
  else if 100 * (s.sampled w).sum < 95 * s.fuse.variant.env * (s.sampled w).length then min 8 (s.pw.level.toNat + 1) else s.pw.level.toNat

theorem State.nextLevel_near (s : State) (w : Nat) (least : 2 ≤ s.pw.level.toNat) (most : s.pw.level.toNat ≤ 8) :
    2 ≤ s.nextLevel w ∧ s.nextLevel w ≤ 8 ∧ s.nextLevel w ≤ s.pw.level.toNat + 1 ∧ s.pw.level.toNat ≤ s.nextLevel w + 1 := by
  unfold State.nextLevel
  split
  next => omega
  next =>
    split
    next => omega
    next => split <;> omega

/-- The level after a tick moves by at most one and stays in its range (R458). -/
theorem State.govern_effect {s : State} (w : Nat) (least : 2 ≤ s.pw.level.toNat) (most : s.pw.level.toNat ≤ 8) :
    let t := s.govern w
    2 ≤ t.pw.level.toNat ∧ t.pw.level.toNat ≤ 8 ∧ t.pw.level.toNat ≤ s.pw.level.toNat + 1 ∧ s.pw.level.toNat ≤ t.pw.level.toNat + 1 ∧ t.pw.watts.length ≤ 100
      ∧ (s.now < s.pw.lastLvl → t.pw.level = s.pw.level) ∧ t = { s with pw := t.pw } := by
  intro t
  have near := s.nextLevel_near w least most
  have small : s.nextLevel w < 2 ^ 4 := by omega
  have level : t.pw.level.toNat = s.nextLevel w := (BitVec.toNat_ofNat ..).trans (Nat.mod_eq_of_lt small)
  have watts : t.pw.watts.length ≤ 100 := by
    show (s.sampled w).length ≤ 100
    simp only [State.sampled, List.length_drop, List.length_append, List.length_singleton]
    omega
  obtain ⟨lo, hi, up, down⟩ := near
  rw [level]
  exact ⟨lo, hi, up, down, watts, fun soon => BitVec.eq_of_toNat_eq (level.trans (if_pos soon)), rfl⟩

/-! ### Health (R470) -/

theorem Health.roll_effect (h : Health) : (h.roll.windows = 0 :: h.windows.take 15 ∨ h.sum = 0) ∧ h.roll = { h with windows := h.roll.windows } := by
  unfold Health.roll
  split
  next quiet =>
    refine ⟨.inr (List.sum_eq_zero_iff_forall_eq_nat.2 fun x held => ?_), rfl⟩
    simpa using List.all_eq_true.1 quiet x held
  next => exact ⟨.inl rfl, rfl⟩

/-- The machine with every health record rolled. -/
def State.rolled (s : State) : State :=
  { s with
    hdrop := some s.now
    ports := tmap s.ports {} (fun _ p => { p with health := p.health.roll })
    blks := tmap s.blks {} (fun _ b => { b with health := b.health.roll })
    qs := tmap s.qs {} (fun _ x => { x with mcHealth := tmap x.mcHealth {} (fun _ h => h.roll), stackHealth := tmap x.stackHealth {} (fun _ h => h.roll) }) }

theorem exec_healthSubwindowDrop {s : State} (ticking : s.ticking = true) (due : s.now % 4096 = 0) (first : s.hdrop ≠ some s.now) :
    exec .healthSubwindowDrop s = .next s.rolled.score := by
  dsimp only [exec, execHealthSubwindowDrop]
  rw [if_neg (by simp [ticking, due, first])]
  rfl

/-! ### Markers -/

/-- What a device has seen of markers, with a new one of lane `l`. -/
def Timebase.noted (b : Timebase) (l hops : Nat) : Timebase := { b with seen := tins (tdel b.seen l) l (hops, b.tick.toNat) }

theorem Timebase.noted_seen (b : Timebase) (l hops : Nat) : tfind (b.noted l hops).seen l = some (hops, b.tick.toNat) := by
  rw [Timebase.noted, tfind_put, if_pos rfl]

theorem mem_tins {α : Type} (t : Tbl α) (k : Nat) (v : α) : (k, v) ∈ tins t k v := by
  induction t with
  | nil => exact List.mem_singleton.2 rfl
  | cons e r ih =>
    obtain ⟨j, w⟩ := e
    by_cases less : k < j
    · simp [tins, less]
    · simp [tins, less, ih]

/-- A lane whose marker has just come can be followed. -/
theorem State.upstream_noted {s : State} {l hops : Nat} (active : (s.port l).state = .active) (noted : (l, hops, s.now) ∈ s.tb.seen) :
    ∃ k h, s.upstream = some (k, h) := by
  have lane : (l, hops) ∈ s.followable := by
    refine List.mem_map.2 ⟨(l, hops, s.now), List.mem_filter.2 ⟨noted, ?_⟩, rfl⟩
    have soon : s.now < s.now + 8 + 1 := by omega
    simp [active, endOf, soon]
  unfold State.upstream
  split
  next empty => rw [empty] at lane; cases lane
  next => exact ⟨_, _, rfl⟩

theorem markerOk_of_kind {m : Slot} (kind : sbits m 0 8 = 7) (clean : sbits m 23 41 = 0) : sbits m 0 3 = 7 ∧ markerOk m = true := by
  simp only [sbits, bits] at kind
  have low : sbits m 0 3 = 7 := by
    simp only [sbits, bits]
    omega
  have reserved : sbits m 3 5 = 0 := by
    simp only [sbits, bits]
    omega
  exact ⟨low, by simp [markerOk, reserved, clean]⟩

/-- The device that follows markers, with a new one of lane `l`. -/
def State.followed (s : State) (l hops : Nat) : State := { s with tb := { s.tb.noted l hops with lastEdge := s.now } }

section
variable {s : State} {lane : Lane} {m : Slot} (ns : Ns) (ticking : s.ticking = true) (on : (s.port lane.toNat).enabled = true) (active : (s.port lane.toNat).state = .active)
  (kind : sbits m 0 8 = 7) (clean : sbits m 23 41 = 0)
include ticking on active kind clean

theorem exec_tickMarker_unusable (far : sbit m 22 = true ∨ 6 ≤ sbits m 18 4) :
    exec (.tickMarker lane m ns) s = .next { s with tb := { s.tb with seen := tdel s.tb.seen lane.toNat } } := by
  obtain ⟨short, marker⟩ := markerOk_of_kind kind clean
  dsimp only [exec, execTickMarker]
  rw [if_neg (by simp [ticking, on, active, short, marker]), if_pos far]

theorem exec_tickMarker_usable (near : sbit m 22 = false) (hops : sbits m 18 4 < 6) :
    exec (.tickMarker lane m ns) s = if s.tb.src ≠ 2 then .next { s with tb := s.tb.noted lane.toNat (sbits m 18 4) } else
      match (s.followed lane.toNat (sbits m 18 4)).upstream with
      | some (k, _) => if k = lane.toNat then .next ((s.followed lane.toNat (sbits m 18 4)).compareMarker lane.toNat m ns.val (sbits m 18 4))
        else .next (s.followed lane.toNat (sbits m 18 4))
      | none => .next (s.followed lane.toNat (sbits m 18 4)) := by
  obtain ⟨short, marker⟩ := markerOk_of_kind kind clean
  dsimp only [exec, execTickMarker]
  rw [if_neg (by simp [ticking, on, active, short, marker]), if_neg (by simp [near]; omega)]
  rfl

end

/-! ### The timebase -/

theorem State.tbEnter_effect {s : State} {st : TbState} (up : Nat) (other : s.tb.state ≠ st) :
    let t := s.tbEnter st up
    t.tb.state = st ∧ t.tb.since = s.now ∧ t.tb.tick = s.tb.tick ∧ t.tb.lossCnt = (if s.tb.state = .locked then satAdd s.tb.lossCnt 1 else s.tb.lossCnt)
      ∧ t.sec.eseq = s.sec.eseq + 1 ∧ t.sec.jseq = s.sec.jseq ∧ (tget t.sec.evts (s.sec.eseq.toNat % 4096) {}).code = 0x07 := by
  unfold State.tbEnter
  dsimp only
  rw [if_neg other]
  simp only [State.raise_tb, State.raise_sec_eseq, State.raise_sec_jseq]
  refine ⟨trivial, trivial, trivial, trivial, trivial, trivial, ?_⟩
  have evts {u : State} {e : Event} : (u.raise e).sec.evts = tset u.sec.evts (u.sec.eseq.toNat % 4096) (e.asRaised u) {} := (congrArg (·.1) (u.raise_recorded e) :)
  rw [evts]
  exact congrArg Event.code (tget_tset_same ..)

/-- A change of state is counted, raised and journalled (R44, R45). -/
theorem State.tbChange_effect {s : State} {st : TbState} (up : Nat) (other : s.tb.state ≠ st) :
    let t := s.tbChange st up
    t.tb.state = st ∧ t.tb.since = s.now ∧ t.tb.tick = s.tb.tick ∧ t.tb.lossCnt = (if s.tb.state = .locked then satAdd s.tb.lossCnt 1 else s.tb.lossCnt)
      ∧ t.sec.eseq = s.sec.eseq + 1 ∧ t.sec.jseq = s.sec.jseq + 1 ∧ (tget t.sec.evts (s.sec.eseq.toNat % 4096) {}).code = 0x07 := by
  obtain ⟨state, since, tick, loss, eseq, jseq, code⟩ := State.tbEnter_effect up other
  unfold State.tbChange
  rw [if_neg other]
  exact ⟨state, since, tick, loss, eseq, congrArg (· + 1) jseq, code⟩

/-- What an offset does to a timebase that follows (R42). -/
theorem State.align_following {s : State} (off : Int) (up : Nat) (clear : s.tb.mismatch = false) (other : s.tb.state ≠ .source) :
    let u : State := { s with tb := { s.tb with offset := BitVec.ofInt 16 off } }
    s.align off up = if off.natAbs < 50 then u.tbChange .locked up else if 100 ≤ off.natAbs ∧ s.tb.state = .locked then u.tbChange .unaligned up
      else u.tbChange s.tb.state up := by
  unfold State.align
  exact if_neg (by simp [clear, other])

/-- Settles O54. -/
theorem ticksAdvance : Obligations.TicksAdvance := by
  refine ⟨?_, ?_, ?_, ?_, ?_, ?_, ?_, ?_, ?_, ?_, ?_, ?_, ?_⟩
  · intro s watts ticking u clean
    dsimp only [exec, execTickBoundary]
    rw [if_neg (by simp [ticking]), State.runAudit_clean clean]
  · exact fun s => s.newTick_effect
  · exact fun s g e member engine => State.resetBudgets_budget member engine
  · exact fun s e held => State.mem_refill held
  · exact fun s w least most => State.govern_effect w least most
  · intro s ticking due first
    exact ⟨s.rolled, exec_healthSubwindowDrop ticking due first, rfl, rfl,
      fun e held => mem_tmap (t := s.ports) (d := {}) (f := fun _ p => { p with health := p.health.roll }) held,
      fun e held => mem_tmap (t := s.blks) (d := {}) (f := fun _ b => { b with health := b.health.roll }) held⟩
  · exact Health.roll_effect
  · intro s lane m ns l ticking on active kind clean
    refine ⟨fun far => ⟨_, exec_tickMarker_unusable ns ticking on active kind clean far, ?_, rfl⟩, fun near hops other => ⟨{ s with tb := s.tb.noted l (sbits m 18 4) }, ?_, s.tb.noted_seen .., rfl⟩,
      fun near hops follows => ?_⟩
    · rw [tfind_tdel, if_pos rfl]
    · rw [exec_tickMarker_usable ns ticking on active kind clean near hops, if_pos other]
    · have noted := exec_tickMarker_usable ns ticking on active kind clean near hops
      rw [if_neg (Classical.not_not.2 follows)] at noted
      obtain ⟨k, h, upstream⟩ := State.upstream_noted (s := s.followed l (sbits m 18 4)) (l := l) (hops := sbits m 18 4) active (mem_tins ..)
      refine ⟨s.followed l (sbits m 18 4), s.tb.noted_seen .., rfl, rfl, k, h, upstream, noted.trans ?_⟩
      rw [upstream]
      dsimp only
      split <;> rfl
  · intro s offset ticking own
    refine ⟨_, ?_, rfl⟩
    dsimp only [exec, execTickInEdge]
    rw [if_pos ⟨ticking, own⟩]
  · intro s off up clear other
    have aligned := State.align_following off up clear other
    refine ⟨_, rfl, fun near => ?_, fun far locked => ?_, fun near far => ?_⟩
    · exact aligned.trans (if_pos near)
    · exact aligned.trans ((if_neg (by omega)).trans (if_pos ⟨far, locked⟩))
    · exact aligned.trans ((if_neg (by omega)).trans (if_neg (fun h => far.elim (by omega) (fun loose => loose h.2))))
  · intro s ticking locked late
    dsimp only [exec, execMarkerLossTimeout]
    rw [if_pos ⟨ticking, locked, late⟩]
  · intro s ticking holding late
    dsimp only [exec, execHoldoverExpiry]
    rw [if_pos ⟨ticking, holding, late⟩]
  · exact fun s st up other => State.tbChange_effect up other

end Sys2Proof.Machine
end

section
/-! Trays, the attention button, the latch and the tamper sensors (R243, R245, R246, R420, R486, R487). -/

namespace Sys2Proof.Machine

/-! ### Tray cables -/

section
variable {s : State} {t : TrayId}

theorem exec_trayCableIn (away : (s.tray t.toNat).prsnt = false) (ticking : s.ticking = true) :
    let come := (s.updTray t.toNat (fun y => { y with prsnt := true })).raise { code := 0x04, unit := uTray t.toNat }
    exec (.trayCableIn t) s = .next (if come.quartersOn = true ∧ (come.tray t.toNat).state ≠ .disabled
      then come.updTray t.toNat (fun y => { y with state := .train, retrainAt := none }) else come) ∧ (come.tray t.toNat).prsnt = true := by
  intro come
  refine ⟨?_, ?_⟩
  · dsimp only [exec, execTrayCableIn]
    rw [if_neg (by simp [away, ticking])]
    exact (apply_ite _ _ _ _).symm
  · simp [come]

theorem exec_trayCableOut (here : (s.tray t.toNat).prsnt = true) (ticking : s.ticking = true) :
    let go := (s.updTray t.toNat (fun y => { y with prsnt := false })).raise { code := 0x05, unit := uTray t.toNat }
    exec (.trayCableOut t) s = .next (if (s.tray t.toNat).state = .assigned ∨ (s.tray t.toNat).state = .evac then go.loseTray t.toNat else if (s.tray t.toNat).state = .disabled then go
      else go.updTray t.toNat (fun y => { y with state := .down, frames := 0, retrainAt := none })) ∧ (go.tray t.toNat).prsnt = false := by
  intro go
  have tray : go.tray t.toNat = { s.tray t.toNat with prsnt := false } := by simp [go]
  refine ⟨?_, by rw [tray]⟩
  dsimp only [exec, execTrayCableOut]
  rw [if_neg (by simp [here, ticking])]
  have state : (go.tray t.toNat).state = (s.tray t.toNat).state := by rw [tray]
  rw [apply_ite Host.Outcome.next, apply_ite Host.Outcome.next, ← state]

theorem exec_trayReady_train {frames : BitVec 16} {r : Bool} (on : s.quartersOn = true) (train : (s.tray t.toNat).state = .train) :
    exec (.trayReady t frames r) s = .next (s.updTray t.toNat (fun y => { y with state := .ready, frames := frames, rate := r, retrainAt := none })) := by
  dsimp only [exec, execTrayReady]
  rw [if_neg (by simp [on]), if_pos train]

theorem exec_trayReady_retrain {frames : BitVec 16} {r : Bool} (on : s.quartersOn = true) (up : (s.tray t.toNat).state ≠ .train)
    (retrains : (s.tray t.toNat).retrainAt.isSome = true) : exec (.trayReady t frames r) s = .next (s.updTray t.toNat (fun y => { y with retrainAt := none, rate := r })) := by
  dsimp only [exec, execTrayReady]
  rw [if_neg (by simp [on]), if_neg up, if_pos retrains]

theorem exec_trayRetrainFail (retrains : (s.tray t.toNat).retrainAt.isSome = true) :
    exec (.trayRetrainFail t) s = .next (if (s.tray t.toNat).state = .assigned ∨ (s.tray t.toNat).state = .evac then s.loseTray t.toNat
      else s.updTray t.toNat (fun y => { y with state := .down, frames := 0, retrainAt := none })) := by
  dsimp only [exec, execTrayRetrainFail]
  rw [if_neg (by simp [Option.isNone_iff_eq_none, Option.isSome_iff_ne_none.1 retrains])]
  exact (apply_ite _ _ _ _).symm

end

/-! ### The attention button -/

/-- A press ends: what the button holds of it (R245). -/
def State.unpressed (s : State) (ms : Nat) : State := { s with mod := { s.mod with attn := none, attnEnd := some ms, ignored := false } }

/-- A press that counts, counted. -/
def State.pressed (s : State) : State := { s with mod := { s.mod with presses := satAdd s.mod.presses 1 } }

theorem exec_attnPressEnd {s : State} {b : Nat} (held : s.mod.attn = some b) (ms : Nat) :
    exec (.attnPressEnd ms) s = if ¬(s.mod.ignored || !s.pressable) ∧ b + 50 ≤ ms ∧ ms ≤ b + 3000 then .next (s.unpressed ms).shortPress else .next (s.unpressed ms) := by
  dsimp only [exec, execAttnPressEnd]
  rw [held]
  rfl

/-- The journal entry of the button, for what it did to the selected tray. -/
def State.buttonEntry (s u : State) (t : Nat) : JEntry :=
  { src := 3, flags := 3, target := BitVec.ofNat 32 (offQt (t / 4) (0x6000 + 64 * (t % 4))), old := s.readReg (offQt (t / 4) (0x6000 + 64 * (t % 4))),
    new := u.readReg (offQt (t / 4) (0x6000 + 64 * (t % 4))) }

theorem State.shortPress_selected {s : State} {t : Nat} (selected : s.selected = some t) : s.shortPress = match (s.tray t).state with
    | .assigned => if s.pressed.evacLack t ≠ 0 then
        ({ s.pressed with mod := { s.pressed.mod with refusedAt := some s.now } }).raise { code := 0x2C, unit := uTray t, d0 := BitVec.ofNat 64 (s.pressed.evacLack t) }
      else (s.pressed.evacuate t).journal (s.pressed.buttonEntry (s.pressed.evacuate t) t)
    | .evac => (s.pressed.evacStop t).journal (s.pressed.buttonEntry (s.pressed.evacStop t) t)
    | _ => s.pressed := by
  have found : s.pressed.selected = some t := selected
  unfold State.shortPress
  dsimp only
  rw [show ({ s with mod := { s.mod with presses := satAdd s.mod.presses 1 } } : State).selected = some t from found]
  rfl

theorem State.journalOne_eq (s : State) (src : BitVec 8) (target : BitVec 32) (old new : BitVec 64) :
    s.journalOne src target old new = s.journal { src := src, flags := 3, target := target, old := old, new := new } := rfl

/-- A long press, done: LOCATE is off (R486). -/
def State.longPressed (s : State) : State := { s with mod := { s.mod with longDone := true, locate := 0, longPr := satAdd s.mod.longPr 1 } }

theorem exec_attnLongPress {s : State} {ms b : Nat} (held : s.mod.attn = some b) (heeded : s.mod.ignored = false) (first : s.mod.longDone = false) (able : s.pressable = true)
    (long : b + 5000 ≤ ms) :
    ∃ (u : State) (e : JEntry), exec (.attnLongPress ms) s = .next (u.journal e) ∧ e.src = 3 ∧ e.target = 0xB000 ∧ u.mod.locate = 0 ∧ u.mod.longPr = satAdd s.mod.longPr 1
      ∧ u = { s with mod := u.mod } := by
  refine ⟨s.longPressed, { src := 3, flags := 3, target := 0xB000, old := s.readSq 0xB000, new := s.longPressed.readSq 0xB000 }, ?_, rfl, rfl, rfl, rfl, rfl⟩
  dsimp only [exec, execAttnLongPress]
  split
  next free => cases held.symm.trans free
  next c again =>
    cases held.symm.trans again
    rw [if_neg (by simp [heeded, first, able]; omega)]
    rfl

/-! ### Tampering -/

/-- A glitch wipes the cask and resets the device (R420). -/
theorem State.glitchReset_effect (s : State) (c : Nat) : let t := s.glitchReset c
    t.boot.step = 1 ∧ t.boot.last = 4 ∧ t.boot.glitch = true ∧ t.sec.wipeCause = BitVec.ofNat 4 c ∧ t.sec.caskV = false ∧ t.sec.wipes = satAdd s.sec.wipes 1 ∧ t.mem = [] :=
  ⟨rfl, rfl, rfl, rfl, rfl, rfl, rfl⟩

/-- Settles O55. -/
theorem traysAndButtonsAct : Obligations.TraysAndButtonsAct := by
  refine ⟨?_, ?_, ?_, ?_, ?_, ?_, ?_⟩
  · intro s t frames r k y come go
    refine ⟨exec_trayCableIn, exec_trayCableOut, exec_trayReady_train, exec_trayReady_retrain, fun train => if_pos train, fun on here up idle => ?_, exec_trayRetrainFail⟩
    exact if_pos ⟨on, here, up, Option.isNone_iff_eq_none.2 idle⟩
  · intro s ms alive free
    refine ⟨_, if_neg (by simp [alive, free]), rfl, rfl, fun late step state running => ?_, fun e last soon => ?_⟩
    · have able : s.pressable = true := by simp [State.pressable, alive, step, state, running]
      cases last : s.mod.attnEnd with
      | none => simp [able]
      | some e =>
        have clear := late e last
        simp [able, clear]
    · simp [last, soon]
  · intro s ms b held
    have ended := exec_attnPressEnd held ms
    refine ⟨s.unpressed ms, rfl, rfl, rfl, rfl, fun heeded able least most => ended.trans (if_pos ⟨by simp [heeded, able], least, most⟩), fun bad => ended.trans (if_neg fun good => ?_)⟩
    obtain ⟨live, least, most⟩ := good
    simp only [Bool.or_eq_true, Bool.not_eq_true', not_or] at live
    rcases bad with h | h | h | h
    · exact live.1 h
    · exact live.2 h
    · omega
    · omega
  · intro s t u selected
    have pressed := State.shortPress_selected selected
    refine ⟨fun assigned lack => ?_, fun assigned room => ⟨s.pressed.buttonEntry (s.pressed.evacuate t) t, ?_, rfl⟩,
      fun evac => ⟨s.pressed.buttonEntry (s.pressed.evacStop t) t, ?_, rfl⟩, fun unassigned still => ?_⟩
    · rw [pressed, assigned]
      exact if_pos lack
    · rw [pressed, assigned]
      exact if_neg (Classical.not_not.2 room)
    · rw [pressed, evac]
      rfl
    · rw [pressed]
      split
      next assigned => exact absurd assigned unassigned
      next evac => exact absurd evac still
      next => rfl
  · exact fun s ms b => exec_attnLongPress
  · intro s
    refine ⟨fun shut on => ⟨{ s with mod := { s.mod with latch := true } }, ?_, rfl⟩, rfl, fun on => if_pos on, fun alive => ⟨⟨_, if_pos alive, s.glitchReset_effect 3⟩, ⟨_, if_pos alive, s.glitchReset_effect 4⟩⟩⟩
    dsimp only [exec, execLatchOpen]
    rw [if_neg (by simp [shut])]
    exact if_pos on
  · exact fun s c src => ⟨{ s with sec := { s.sec with caskV := false, wipeCause := BitVec.ofNat 4 c, wipes := satAdd s.sec.wipes 1, wipeTick := BitVec.ofNat 32 s.now } }, _, rfl, rfl, rfl, rfl, rfl, rfl, rfl⟩

end Sys2Proof.Machine
end

section
/-! Power requests, transitions, idle power and heat (R434, R452 to R456, R459, R492, R493). -/

namespace Sys2Proof.Machine

/-! ### One bit of a word -/

theorem getLsbD_bitOn {w i : Nat} (v : BitVec w) (j : Nat) (inside : i < w) : (v ||| BitVec.ofNat w (2 ^ i)).getLsbD j = (v.getLsbD j || decide (i = j)) := by
  rw [BitVec.getLsbD_or, BitVec.getLsbD_ofNat, Nat.testBit_two_pow]
  by_cases same : i = j
  · subst same
    simp [inside]
  · simp [same]

theorem getLsbD_bitOff {w i : Nat} (v : BitVec w) (j : Nat) : (v &&& ~~~(BitVec.ofNat w (2 ^ i))).getLsbD j = (v.getLsbD j && !decide (i = j)) := by
  rw [BitVec.getLsbD_and, BitVec.getLsbD_not, BitVec.getLsbD_ofNat, Nat.testBit_two_pow]
  by_cases inside : j < w
  · simp [inside]
  · simp [inside, BitVec.getLsbD_of_ge v j (by omega)]

/-! ### Readings, warnings and throttles -/

theorem State.emit_unless (c : Prop) [Decidable c] (t : State) (o : Output) : (if c then t else t.emit o) = { t with out := (if c then t else t.emit o).out } := by
  split <;> rfl

section
variable (s : State)

theorem State.warnSet_eq (i : Nat) (on : Bool) : s.warnSet i on = { s with
    mod := { s.mod with warn := if on then s.mod.warn ||| BitVec.ofNat 43 (2 ^ i) else s.mod.warn &&& ~~~(BitVec.ofNat 43 (2 ^ i)) }, out := (s.warnSet i on).out } := by
  unfold State.warnSet
  exact State.emit_unless ..

theorem State.warnSet_warn (i : Nat) (on : Bool) (inside : i < 43) : (s.warnSet i on).mod.warn.getLsbD i = on := by
  rw [State.warnSet_eq]
  cases on
  · exact (getLsbD_bitOff ..).trans (by simp)
  · exact (getLsbD_bitOn _ _ inside).trans (by simp)

theorem State.throttle_eq (i : Nat) (on : Bool) : s.throttle i on = { s with
    mod := { s.mod with throttled := if on then s.mod.throttled ||| BitVec.ofNat 32 (2 ^ i) else s.mod.throttled &&& ~~~(BitVec.ofNat 32 (2 ^ i))
                        warn := if on then s.mod.warn ||| BitVec.ofNat 43 (2 ^ (5 + i)) else s.mod.warn &&& ~~~(BitVec.ofNat 43 (2 ^ (5 + i))) }, out := (s.throttle i on).out } := by
  unfold State.throttle
  exact State.emit_unless ..

theorem State.throttle_throttled (i : Nat) (on : Bool) (j : Nat) (inside : i < 32) :
    (s.throttle i on).mod.throttled.getLsbD j = if i = j then on else s.mod.throttled.getLsbD j := by
  rw [State.throttle_eq]
  cases on
  · refine (getLsbD_bitOff ..).trans ?_
    by_cases same : i = j <;> simp [same]
  · refine (getLsbD_bitOn _ _ inside).trans ?_
    by_cases same : i = j <;> simp [same]

end

/-! ### Power requests -/

/-- A write to PW_REQ, by the code it asks for (R434, R454). -/
theorem pwReq_taken {s : State} {m : Mctp} {v : BitVec 64} (up : s.answers m = true) (on : s.boot.step ≠ 7) {req : Nat} (asks : sbits v 0 3 = req) :
    let t := (s.powerReq v).journal (fieldEntry s (s.powerReq v) m 0x9008)
    s.pwReq m v req = .next (if t.pw.trans = some 7 then t.warmStart 8 0 else t) := by
  unfold State.pwReq
  rw [if_pos asks, State.mgmtWrite_taken up on (by decide) rfl]
  rfl

section
variable {s : State} {v : BitVec 64} (operating : s.boot.step = 6)
include operating

theorem State.powerReq_accepted (free : s.powerRefusal (sbits v 0 3) = 0) (moves : sbits v 0 3 ≠ s.pw.state.toNat ∨ sbits v 0 3 = 7) :
    (s.powerReq v).pw.trans = some (BitVec.ofNat 3 (sbits v 0 3)) ∧ s.powerReq v = { s with pw := (s.powerReq v).pw } := by
  unfold State.powerReq
  rw [if_neg (by simp [operating])]
  dsimp only
  rw [if_neg (by simp [free])]
  split
  next reset => exact ⟨by rw [reset]; rfl, rfl⟩
  next other =>
    rw [if_neg (moves.resolve_right other)]
    exact ⟨rfl, rfl⟩

theorem State.powerReq_refused (refused : s.powerRefusal (sbits v 0 3) ≠ 0) : ∃ u : State,
    s.powerReq v = u.raise { code := 0x52, unit := uSquare, d0 := (s.powerRefusal (sbits v 0 3)).setWidth 64, d1 := BitVec.ofNat 64 (sbits v 0 3) }
      ∧ u.pw.refuse = s.powerRefusal (sbits v 0 3) ∧ u.pw.trans = s.pw.trans ∧ u.pw.state = s.pw.state ∧ u = { s with pw := u.pw } := by
  unfold State.powerReq
  rw [if_neg (by simp [operating])]
  dsimp only
  rw [if_pos refused]
  exact ⟨_, rfl, rfl, rfl, rfl, rfl⟩

end

theorem State.powerRefusal_bound {s : State} {req : Nat} (asks : req = 2 ∨ req = 3) (free : s.pw.trans = none) (lit : s.pw.state ≠ 3)
    (bound : s.parts.any (fun e => e.2.state = .bound) = true) : s.powerRefusal req = 1 := by
  unfold State.powerRefusal
  dsimp only
  rw [if_neg (by omega), if_neg (by omega), if_neg (by simp [free]), if_neg (fun h => lit h.1), if_pos ⟨asks, bound⟩]

theorem State.powerDone_eq {s : State} {st : BitVec 3} (trans : s.pw.trans = some st) :
    let u := ({ s with pw := { s.pw with trans := none } } : State).raise { code := 0x51, unit := uSquare, d0 := s.pw.state.setWidth 64, d1 := st.setWidth 64 }
    s.powerDone = if st = 4 then u.toP4 false else if st = 3 then (u.enterPower 3).quartersOff else u.enterPower st := by
  unfold State.powerDone
  split
  next none_ => cases trans.symm.trans none_
  next st' some_ =>
    cases trans.symm.trans some_
    dsimp only
    split
    next => rfl
    next =>
      split
      next third => rw [third]
      next => rfl

theorem State.mem_quartersOff {s : State} {e : Nat × Part} (held : e ∈ s.quartersOff.parts) :
    ∃ f, f ∈ s.parts ∧ e.1 = f.1 ∧ e.2.state = f.2.state ∧ e.2.pages = f.2.pages ∧ e.2.blocks = f.2.blocks ∧ e.2.map = f.2.map := by
  obtain ⟨f, old, key, made⟩ := mem_tmap (t := s.parts) (d := {}) (f := fun _ p => { p with tcache := [], pteAsk := [], pteRes := [] }) held
  exact ⟨f, old, key.symm, by rw [made], by rw [made], by rw [made], by rw [made]⟩

/-! ### Heat -/

/-- The machine as a die's warning leaves it: its clock is halved (R459). -/
def State.dieHot (s : State) (i : Nat) (temp : BitVec 16) : State :=
  let s := (s.reading i temp).warnSet i true
  if i = 0 then s else { s with pw := { s.pw with half := s.pw.half ||| BitVec.ofNat 5 (2 ^ i) } }.rampQcore (i - 1)

/-- The machine as a die that is cool again leaves it. -/
def State.dieCool (s : State) (i : Nat) (temp : BitVec 16) : State :=
  let s := (s.reading i temp).warnSet i false
  if i = 0 then s else { s with pw := { s.pw with half := s.pw.half &&& ~~~(BitVec.ofNat 5 (2 ^ i)) } }.rampQcore (i - 1)

theorem State.rampQcore_effect (s : State) {i : Nat} (die : i ≠ 0) :
    (s.rampQcore (i - 1)).pw.run.getLsbD (2 + i) = false ∧ 3 + i ∈ (s.rampQcore (i - 1)).pw.ramps ∧ (s.rampQcore (i - 1)).pw.half = s.pw.half := by
  refine ⟨(getLsbD_bitOff ..).trans ?_, mem_setIns.2 (.inl (by omega)), rfl⟩
  have same : 3 + (i - 1) = 2 + i := by omega
  simp [same]

/-- A warning changes neither power nor what a sensor reads. -/
theorem State.warned_frame (s : State) (i : Nat) (temp : BitVec 16) (on : Bool) : let u := (s.reading i temp).warnSet i on
    tget u.mod.temp i 0 = temp ∧ u = { s with mod := u.mod, out := u.out } := by
  intro u
  have eq : u = _ := (s.reading i temp).warnSet_eq i on
  refine ⟨?_, ?_⟩
  · rw [eq]
    exact tget_tset_same ..
  · rw [eq]
    rfl

/-- Power, put beside readings, warnings and outputs. -/
theorem State.pw_frame {s t : State} (same : t = { s with mod := t.mod, out := t.out }) (p : Power) :
    ({ t with pw := p } : State) = { s with mod := t.mod, pw := p, out := t.out } := (congrArg (fun u : State => { u with pw := p }) same :)

theorem State.dieHot_effect (s : State) {i : Nat} (die : i < 5) (temp : BitVec 16) : let u := s.dieHot i temp
    u.mod.warn.getLsbD i = true ∧ (i ≠ 0 → u.pw.half.getLsbD i = true ∧ u.pw.run.getLsbD (2 + i) = false ∧ (3 + i) ∈ u.pw.ramps) ∧ tget u.mod.temp i 0 = temp
      ∧ u = { s with mod := u.mod, pw := u.pw, out := u.out } := by
  obtain ⟨read, same⟩ := s.warned_frame i temp true
  have warn := (s.reading i temp).warnSet_warn i true (by omega)
  by_cases square : i = 0
  · have hot : s.dieHot i temp = (s.reading i temp).warnSet i true := if_pos square
    rw [hot]
    exact ⟨warn, fun other => absurd square other, read, State.pw_frame same _⟩
  · have hot : s.dieHot i temp = _ := if_neg square
    rw [hot]
    obtain ⟨slow, ramps, half⟩ := State.rampQcore_effect { (s.reading i temp).warnSet i true with
      pw := { ((s.reading i temp).warnSet i true).pw with half := ((s.reading i temp).warnSet i true).pw.half ||| BitVec.ofNat 5 (2 ^ i) } } square
    refine ⟨warn, fun _ => ⟨?_, slow, ramps⟩, read, State.pw_frame same _⟩
    rw [half]
    exact (getLsbD_bitOn _ _ die).trans (by simp)

theorem State.dieCool_effect (s : State) {i : Nat} (die : i < 5) (temp : BitVec 16) : let u := s.dieCool i temp
    u.mod.warn.getLsbD i = false ∧ (i ≠ 0 → u.pw.half.getLsbD i = false ∧ (3 + i) ∈ u.pw.ramps) ∧ u = { s with mod := u.mod, pw := u.pw, out := u.out } := by
  obtain ⟨-, same⟩ := s.warned_frame i temp false
  have warn := (s.reading i temp).warnSet_warn i false (by omega)
  by_cases square : i = 0
  · have cool : s.dieCool i temp = (s.reading i temp).warnSet i false := if_pos square
    rw [cool]
    exact ⟨warn, fun other => absurd square other, State.pw_frame same _⟩
  · have cool : s.dieCool i temp = _ := if_neg square
    rw [cool]
    obtain ⟨-, ramps, half⟩ := State.rampQcore_effect { (s.reading i temp).warnSet i false with
      pw := { ((s.reading i temp).warnSet i false).pw with half := ((s.reading i temp).warnSet i false).pw.half &&& ~~~(BitVec.ofNat 5 (2 ^ i)) } } square
    refine ⟨warn, fun _ => ⟨?_, ramps⟩, State.pw_frame same _⟩
    rw [half]
    exact (getLsbD_bitOff ..).trans (by simp)

/-- The machine as a stack's heat leaves it: it is throttled, and its health is charged (R492). -/
def State.stackHot (s : State) (i : Nat) (temp : BitVec 16) : State :=
  ((s.reading (5 + i) temp).throttle i true).updQtr (stackQtr i) (fun x =>
    { x with stackHealth := tset x.stackHealth (if i < 8 then i % 2 else 2 + (i - 8) % 6) ((tget x.stackHealth (if i < 8 then i % 2 else 2 + (i - 8) % 6) {}).add 512) {} })

/-- Settles O56. -/
theorem powerAndHeatAct : Obligations.PowerAndHeatAct := by
  refine ⟨?_, ?_, ?_, ?_, ?_, ?_, ?_, ?_, ?_, ?_⟩
  · intro s m v up on
    exact ⟨fieldEntry s (s.powerReq v) m 0x9008, rfl, rfl, pwReq_taken up on, pwReq_taken up on, pwReq_taken up on, pwReq_taken up on, pwReq_taken up on⟩
  · intro s v req r
    exact ⟨fun idle => if_pos idle, State.powerReq_accepted, State.powerReq_refused, State.powerRefusal_bound⟩
  · intro s st alive trans u
    have done := State.powerDone_eq trans
    exact (if_pos alive).trans (congrArg _ done)
  · exact fun s => ⟨rfl, rfl, rfl, rfl, rfl, rfl, fun e held => State.mem_quartersOff held⟩
  · exact fun s b => ⟨rfl, rfl, rfl, rfl, rfl, rfl⟩
  · intro s t idle ticking step p0 free now late
    refine ⟨s.enterPower 1, ?_, rfl, rfl, rfl⟩
    dsimp only [exec, execP1IdleEntry]
    rw [idle]
    exact if_pos ⟨ticking, step, p0, by simp [free], now, late⟩
  · intro s die temp sensing
    refine ⟨fun hot fresh => ?_, fun cold warned => ⟨s.dieCool die.val temp, ?_, s.dieCool_effect die.isLt temp⟩⟩
    · obtain ⟨warn, clock, read, frame⟩ := s.dieHot_effect die.isLt temp
      refine ⟨s.dieHot die.val temp, ?_, warn, clock, read, frame⟩
      dsimp only [exec, execThermalWarning]
      rw [if_neg (by simp [sensing]; omega)]
      exact if_neg (by rw [State.reading]; simp [fresh])
    · dsimp only [exec, execThermalRecovery]
      rw [if_neg (by simp [sensing, warned]; omega)]
      exact (apply_ite _ _ _ _).symm
  · intro s sensor temp x limit hot alive
    dsimp only [exec, execThermalShutdown]
    rw [limit]
    exact if_pos ⟨alive, hot⟩
  · intro s stack temp sensing
    have small : stack.toNat < 32 := stack.isLt
    refine ⟨fun hot free => ⟨s.stackHot stack.toNat temp, ?_, ?_, fun j other => ?_, ?_⟩, fun cold on => ⟨(s.reading (5 + stack.toNat) temp).throttle stack.toNat false, ?_, ?_, ?_⟩⟩
    · dsimp only [exec, execStackThrottle]
      rw [if_neg (by simp [sensing]; omega)]
      exact if_neg (by rw [State.reading]; simp [free])
    · exact (State.throttle_throttled _ _ true _ small).trans (if_pos rfl)
    · exact (State.throttle_throttled _ _ true _ small).trans (if_neg (Ne.symm other))
    · rw [State.stackHot, State.throttle_eq]
      rfl
    · dsimp only [exec, execThrottleExit]
      rw [if_neg (by simp [sensing, on]; omega)]
    · exact (State.throttle_throttled _ _ false _ small).trans (if_pos rfl)
    · rw [State.throttle_eq]
      rfl
  · intro s sensor temp sensing
    have sensors : sensor.val < 43 := sensor.isLt
    refine ⟨fun warm fresh => ⟨(s.reading sensor.val temp).warnSet sensor.val true, ?_, State.warnSet_warn _ _ true sensors, (s.warned_frame sensor.val temp true).2⟩,
      fun clears cool warned => ⟨(s.reading sensor.val temp).warnSet sensor.val false, ?_, State.warnSet_warn _ _ false sensors, (s.warned_frame sensor.val temp false).2⟩⟩
    · dsimp only [exec, execSensorWarning]
      rw [if_neg (by simp [sensing, warm])]
      exact if_neg (by rw [State.reading, Bool.not_eq_true]; exact fresh)
    · dsimp only [exec, execSensorWarningClear]
      rw [if_neg (by simp [sensing, cool, warned]; omega)]

end Sys2Proof.Machine
end

section
/-! Resets and the steps of start-up (R432 to R438, R447 to R450, R460, R461, R482, R483, R500). -/

namespace Sys2Proof.Machine

/-! ### Resets -/

/-- A warm start keeps the RWS fields, flash and fuses, and records its cause (R460). -/
theorem State.warmStart_effect (s : State) (c : Nat) (src : BitVec 8) : let t := s.warmStart c src
    t.boot.step = 1 ∧ t.boot.last = BitVec.ofNat 4 c ∧ t.boot.seen = s.boot.seen ||| BitVec.ofNat 9 (2 ^ c) ∧ t.boot.starts = satAdd s.boot.starts 1 ∧ t.sec.wipes = s.sec.wipes
      ∧ t.tb.lossCnt = s.tb.lossCnt ∧ t.boot.clkSrc = (if c = 3 then src else s.boot.clkSrc) ∧ t.tb.tick = 0 ∧ t.selfEid = 0xFFF ∧ t.parts = [] ∧ t.ports = [] ∧ t.blks = [] ∧ t.ctxs = [] ∧ t.mem = []
      ∧ t.fuse = s.fuse ∧ t.flash = s.flash ∧ t.boot.held = false :=
  ⟨rfl, rfl, rfl, rfl, rfl, rfl, rfl, rfl, rfl, rfl, rfl, rfl, rfl, rfl, rfl, rfl, rfl⟩

theorem State.coldStart_effect (s : State) : let t := s.coldStart
    t.boot.step = 1 ∧ t.boot.last = (if s.boot.thermRec then 7 else 0) ∧ t.boot.thermRec = false ∧ t.sec.wipes = 0 ∧ t.tb.lossCnt = 0 ∧ t.parts = [] ∧ t.ports = [] ∧ t.mem = []
      ∧ t.fuse = s.fuse ∧ t.flash = s.flash := by
  refine ⟨rfl, ?_, rfl, rfl, rfl, rfl, rfl, rfl, rfl, rfl⟩
  unfold State.coldStart
  dsimp only
  split <;> rfl

section
variable {s : State}

/-- What `on` says of the machine: a device out of power is reached by no reset (R482). -/
theorem off_iff : ¬(s.boot.dead = false ∧ s.pw.state ≠ 4) ↔ s.boot.dead = true ∨ s.pw.state = 4 := by
  rw [Classical.not_and_iff_not_or_not, Bool.not_eq_false, Classical.not_not]

theorem not_off {h : s.boot.dead = false ∧ s.pw.state ≠ 4} : ¬(s.boot.dead = true ∨ s.pw.state = 4) := fun off => off_iff.2 off h

theorem exec_pwrGoodDeassert (good : s.mod.pwrGood = true) : ∃ t : State, exec .pwrGoodDeassert s = .next t ∧ t.mod.pwrGood = false
    ∧ (s.boot.dead = false ∧ s.pw.state ≠ 4 → t.parts = [] ∧ t.ports = [] ∧ t.mem = [] ∧ t.boot.starts = s.boot.starts) ∧ t.fuse = s.fuse := by
  dsimp only [exec, execPwrGoodDeassert]
  rw [if_neg (by simp [good])]
  refine ⟨_, rfl, rfl, fun on => ?_, ?_⟩
  · rw [if_neg (not_off (h := on))]
    exact ⟨rfl, rfl, rfl, rfl⟩
  · split <;> rfl

theorem exec_modResetAssert (free : s.boot.held = false) : ∃ t : State, exec .modResetAssert s = .next t ∧ t.boot.held = true ∧ t.mod.pwrGood = s.mod.pwrGood
    ∧ (s.boot.dead = false ∧ s.pw.state ≠ 4 → t.parts = [] ∧ t.ports = [] ∧ t.mem = []) := by
  dsimp only [exec, execModResetAssert]
  rw [if_neg (by simp [free])]
  refine ⟨_, rfl, rfl, ?_, fun on => ?_⟩
  · split <;> rfl
  · rw [if_neg (not_off (h := on))]
    exact ⟨rfl, rfl, rfl⟩

end

/-! ### The steps of start-up -/

section
variable {s : State} {ms : BitVec 32} (alive : s.alive = true)
include alive

/-- The machine with the time of its step noted. -/
def State.timed (s : State) (ms : BitVec 32) : State := { s with boot := { s.boot with elapsed := ms } }

theorem exec_startup1 (first : s.boot.step = 1) (xo : s.pw.xo = true) :
    (∀ n b, exec (.startupStepDone (.ok n b) ms) s = .next ((s.timed ms).step1Done false)) ∧ exec (.startupStepDone .imageA ms) s = .next ((s.timed ms).step1Done true)
      ∧ exec (.startupStepDone .noImage ms) s = .next ((s.timed ms).recovery 3) ∧ exec (.startupStepDone .fuse ms) s = .next ((s.timed ms).recovery 4) := by
  have one : s.boot.step.toNat = 1 := by rw [first]; rfl
  have awake : ¬¬s.alive = true := Classical.not_not.2 alive
  refine ⟨fun n b => ?_, ?_, ?_, ?_⟩
  all_goals
    dsimp only [exec, execStartupStepDone]
    rw [if_neg awake, one]
    exact if_pos xo

theorem exec_startup2 (second : s.boot.step = 2) :
    (∀ n b, ∃ u : State, exec (.startupStepDone (.ok n b) ms) s = .next u ∧ u.boot.step = 3 ∧ u.boot.elapsed = ms ∧ u = { s with boot := u.boot, pw := u.pw })
      ∧ exec (.startupStepDone .pll ms) s = .next ((s.timed ms).recovery 5) ∧ exec (.startupStepDone .d2d ms) s = .next ((s.timed ms).recovery 6) := by
  have two : s.boot.step.toNat = 2 := by rw [second]; rfl
  have awake : ¬¬s.alive = true := Classical.not_not.2 alive
  refine ⟨fun n b => ⟨{ s with boot := { s.boot with elapsed := ms, step := 3 }, pw := { s.pw with run := runAll, ramps := [] } }, ?_, rfl, rfl, rfl⟩, ?_, ?_⟩
  all_goals
    dsimp only [exec, execStartupStepDone]
    rw [if_neg awake, two]
    rfl

theorem exec_startup3 (third : s.boot.step = 3) (up : s.boot.stacksUp = BitVec.allOnes 32) (n : BitVec 4) (b : BitVec 64) :
    ∃ u : State, exec (.startupStepDone (.ok n b) ms) s = .next u ∧ u.boot.step = 4 ∧ u = { s with boot := u.boot } := by
  have three : s.boot.step.toNat = 3 := by rw [third]; rfl
  refine ⟨{ s with boot := { s.boot with elapsed := ms, step := 4 } }, ?_, rfl, rfl⟩
  dsimp only [exec, execStartupStepDone]
  rw [if_neg (Classical.not_not.2 alive), three]
  exact if_pos up

theorem exec_startup4 (fourth : s.boot.step = 4) (n : BitVec 4) (b : BitVec 64) :
    ∃ u : State, exec (.startupStepDone (.ok n b) ms) s = .next u ∧ u.boot.step = 5 ∧ u.boot.lnkFull = n ∧ u = { s with boot := u.boot } := by
  have four : s.boot.step.toNat = 4 := by rw [fourth]; rfl
  refine ⟨{ s with boot := { s.boot with elapsed := ms, step := 5, lnkFull := n } }, ?_, rfl, rfl, rfl⟩
  dsimp only [exec, execStartupStepDone]
  rw [if_neg (Classical.not_not.2 alive), four]
  rfl

theorem exec_startup5 (fifth : s.boot.step = 5) (n : BitVec 4) (b : BitVec 64) : exec (.startupStepDone (.ok n b) ms) s = .next (((s.timed ms).holdOut b 8).startupEnd) := by
  have five : s.boot.step.toNat = 5 := by rw [fifth]; rfl
  dsimp only [exec, execStartupStepDone]
  rw [if_neg (Classical.not_not.2 alive), five]
  rfl

end

/-- An event that may be raised leaves start-up, the cask and the overlays as they are. -/
theorem State.raised_effect (c : Bool) (u : State) (e : Event) : let t := if c = true then u.raise e else u
    t.boot.step = u.boot.step ∧ t.sec.caskV = u.sec.caskV ∧ t.calset = u.calset := by
  intro t
  cases c
  · exact ⟨rfl, rfl, rfl⟩
  · exact ⟨congrArg Boot.step (u.raise_boot e), u.raise_sec_caskV e, u.raise_calset e⟩

/-- Step 1 ends with the cask filled and the overlays of flash in force, unless the module is scrapped (R419, R439). -/
theorem State.step1Done_effect {s : State} (b : Bool) (whole : s.fuse.lc ≠ .scrapped) :
    (s.step1Done b).boot.step = 2 ∧ (s.step1Done b).sec.caskV = true ∧ (s.step1Done b).calset = s.flash := by
  unfold State.step1Done
  dsimp only
  rw [if_neg whole]
  exact State.raised_effect ..

theorem State.recovery_effect (s : State) (c : BitVec 8) :
    (s.recovery c).boot.step = 7 ∧ (s.recovery c).boot.result = 3 ∧ (s.recovery c).boot.fault = if s.boot.fault = 0 then c else s.boot.fault := by
  refine ⟨rfl, ?_, rfl⟩
  show (if s.boot.result < 3 then 3 else s.boot.result) = 3
  split
  next => rfl
  next => bv_omega

/-! ### Stacks (R438) -/

theorem stackChan_inside {stack i : Nat} (stacks32 : stack < 32) (chan : i < stackChans stack) : (stackChan stack i).1 < 64 := by
  unfold stackChans at chan
  unfold stackChan
  split
  next less =>
    rw [if_pos less] at chan
    dsimp only
    omega
  next more =>
    rw [if_neg more] at chan
    dsimp only
    omega

theorem State.holdOut_effect (s : State) (bs : BitVec 64) (code : BitVec 8) :
    (s.holdOut bs code).boot.blkFail = s.boot.blkFail ||| bs ∧ (s.holdOut bs code).boot.stacksUp = s.boot.stacksUp ∧ s.holdOut bs code = { s with boot := (s.holdOut bs code).boot } := by
  unfold State.holdOut
  split
  next clear => simp [clear]
  next => exact ⟨rfl, rfl, rfl⟩

/-- The Blocks of the channels that a stack failed to train. -/
def failedBlocks (stack : Nat) (failed : BitVec 32) : BitVec 64 :=
  listMask 64 (((List.range (stackChans stack)).filter (fun i => failed.getLsbD i)).map (fun i => (stackChan stack i).1))

theorem getLsbD_failedBlocks {stack i : Nat} {failed : BitVec 32} (small : stack < 32) (chan : i < stackChans stack) (bad : failed.getLsbD i = true) :
    (failedBlocks stack failed).getLsbD (stackChan stack i).1 = true := by
  rw [failedBlocks, getLsbD_listMask]
  exact decide_eq_true ⟨stackChan_inside small chan, List.mem_map.2 ⟨i, List.mem_filter.2 ⟨List.mem_range.2 chan, bad⟩, rfl⟩⟩

/-- A stack counted as up. -/
def State.stackUp (s : State) (stack : Nat) (full : Bool) : State :=
  { s with boot := { s.boot with stacksUp := s.boot.stacksUp ||| BitVec.ofNat 32 (2 ^ stack), memFull := if full then s.boot.memFull + 1 else s.boot.memFull } }

/-- The channels `l` of a stack noted as trained. -/
def State.chansTrained (s : State) (stack : Nat) (l : List Nat) : State :=
  l.foldl (fun s i => s.updBlk (stackChan stack i).1 (fun b => { b with trained := b.trained ||| BitVec.ofNat 10 (2 ^ (stackChan stack i).2) })) s

theorem State.chansTrained_frame (s : State) (stack : Nat) (l : List Nat) : s.chansTrained stack l = { s with blks := (s.chansTrained stack l).blks } := by
  induction l generalizing s with
  | nil => rfl
  | cons i r ih => exact ih _

theorem State.stackTrained_eq (s : State) (stack : Nat) (full : Bool) (failed : BitVec 32) : s.stackTrained stack full failed
    = ((s.stackUp stack full).chansTrained stack ((List.range (stackChans stack)).filter (fun i => !failed.getLsbD i))).holdOut (failedBlocks stack failed) 7 := rfl

theorem State.stackTrained_effect (s : State) (stack : Nat) (full : Bool) (failed : BitVec 32) : let t := s.stackTrained stack full failed
    t.boot.stacksUp = s.boot.stacksUp ||| BitVec.ofNat 32 (2 ^ stack) ∧ t.boot.blkFail = s.boot.blkFail ||| failedBlocks stack failed
      ∧ t = { s with boot := t.boot, blks := t.blks } := by
  rw [State.stackTrained_eq]
  generalize (List.range (stackChans stack)).filter (fun i => !failed.getLsbD i) = l
  have frame := (s.stackUp stack full).chansTrained_frame stack l
  obtain ⟨fail, up, held⟩ := ((s.stackUp stack full).chansTrained stack l).holdOut_effect (failedBlocks stack failed) 7
  have boot : ((s.stackUp stack full).chansTrained stack l).boot = (s.stackUp stack full).boot := (congrArg State.boot frame :)
  refine ⟨up.trans (congrArg Boot.stacksUp boot), fail.trans (congrArg (fun b => b.blkFail ||| failedBlocks stack failed) boot), ?_⟩
  generalize ((s.stackUp stack full).chansTrained stack l).holdOut (failedBlocks stack failed) 7 = u at held ⊢
  have blks : u.blks = ((s.stackUp stack full).chansTrained stack l).blks := (congrArg State.blks held :)
  rw [blks]
  exact held.trans (congrArg (fun v : State => { v with boot := u.boot }) frame)

/-- Settles O57. -/
theorem resetsAndStartUp : Obligations.ResetsAndStartUp := by
  refine ⟨fun s c src _ => s.warmStart_effect c src, fun s => s.coldStart_effect, ?_, ?_, ?_, ?_, ?_, ?_⟩
  · intro s up on
    refine ⟨fun bad => ⟨fun held => ?_, fun free live => ?_, fun free off => ?_⟩, exec_pwrGoodDeassert, ⟨_, rfl, rfl, rfl, rfl, rfl, rfl, rfl⟩, exec_modResetAssert,
      fun held => ⟨fun bad => ?_, fun good live => ?_, fun good off => ?_⟩, fun alive => if_pos alive, fun src alive watched => if_pos ⟨alive, watched⟩,
      fun alive => ⟨_, if_pos alive, rfl, rfl, rfl, rfl⟩, fun alive => ⟨_, if_pos alive, rfl, rfl, rfl, rfl⟩⟩
    · exact (if_neg (by simp [bad])).trans (if_pos held)
    · exact (if_neg (by simp [bad])).trans ((if_neg (by simp [free])).trans (if_neg (not_off (h := live))))
    · exact (if_neg (by simp [bad])).trans ((if_neg (by simp [free])).trans (if_pos (off_iff.1 off)))
    · exact (if_neg (by simp [held])).trans (if_pos (by simp [bad]))
    · exact (if_neg (by simp [held])).trans ((if_neg (by simp [good])).trans (if_neg (not_off (h := live))))
    · exact (if_neg (by simp [held])).trans ((if_neg (by simp [good])).trans (if_pos (off_iff.1 off)))
  · intro s ms alive t
    exact ⟨exec_startup1 alive, exec_startup2 alive, exec_startup3 alive, exec_startup4 alive, exec_startup5 alive⟩
  · exact fun s b c => ⟨State.step1Done_effect b, s.recovery_effect c⟩
  · intro s stack full failed alive third untrained
    have small : stack.toNat < 32 := stack.isLt
    obtain ⟨up, held, frame⟩ := s.stackTrained_effect stack.toNat full failed
    refine ⟨s.stackTrained stack.toNat full failed, ?_, ?_, fun j inside other => ?_, fun i chan bad => ?_, frame⟩
    · dsimp only [exec, execStackTrainingDone]
      exact if_neg (by rw [not_or, not_or, Classical.not_not, Classical.not_not, Bool.not_eq_true]; exact ⟨alive, third, untrained⟩)
    · rw [up, getLsbD_bitOn _ _ small]
      simp
    · rw [up, getLsbD_bitOn _ _ small]
      simp [Ne.symm other]
    · rw [held, BitVec.getLsbD_or, getLsbD_failedBlocks small chan bad, Bool.or_true]
  · intro s alive first
    refine ⟨if_pos ⟨alive, first⟩, fun off => ⟨_, if_pos ⟨alive, first, by simp [off]⟩, rfl, rfl⟩⟩
  · intro s d alive ramps
    refine ⟨_, if_neg (by simp [alive, ramps]), fun still => (mem_setDel.1 still).2 rfl, fun low => if_pos ?_, rfl⟩
    simp only [Bool.not_eq_true', Bool.and_eq_false_iff, decide_eq_false_iff_not]
    omega

end Sys2Proof.Machine
end

section
/-! Messages of a collective at its root (R53, R264 to R266, R275, R277, R383). -/

namespace Sys2Proof.Machine

/-! ### What a message means -/

/-- A field of the collective header of a message. -/
abbrev Msg.cx (m : Msg) (lo w : Nat) : Nat := bits m.pkt.memx lo w

/-- A message that comes in at an endpoint port of another job. -/
def Msg.strange (s : State) (m : Msg) : Prop := m.ingress = 1 ∧ (s.port m.lane).role = 1 ∧ (s.port m.lane).job ≠ m.pkt.job

/-- A message of the collective's parent. -/
def Coll.fromParent (x : Coll) (m : Msg) : Prop := cdTop x.desc = false ∧ m.pkt.seid.toNat = cdParent x.desc

section
variable {s : State} {b n : Nat} {m : Msg} {x : Coll} (found : s.collAt b m.pkt.job (m.cx 0 16) = some (n, x))
include found

theorem State.collJudge_strange (strange : m.strange s) : s.collJudge b m = .stray := by
  obtain ⟨comes, role, job⟩ := strange
  simp only [State.collJudge, found]
  exact if_pos (.inl (by simp [comes, role, job]))

theorem State.collJudge_deadline (other : dlineOf s.now (m.cx 82 32) ≠ x.dline) (stays : ¬(x.fromParent m ∧ m.pkt.mtype = 2 ∧ x.parentGo = 0)) : s.collJudge b m = .stray := by
  simp only [State.collJudge, found]
  refine if_pos (.inr ⟨other, fun opens => stays ?_⟩)
  obtain ⟨parent, kind, first⟩ := opens
  simp only [Bool.and_eq_true, Bool.not_eq_true', decide_eq_true_eq] at parent
  exact ⟨parent, BitVec.eq_of_toNat_eq kind, first⟩

theorem State.collJudge_late (kind : m.pkt.mtype ≠ 4) (late : dlineOf s.now (m.cx 82 32) ≤ m.stamp) : s.collJudge b m = .stray := by
  have other : m.pkt.mtype.toNat ≠ 4 := fun h => kind (BitVec.eq_of_toNat_eq h)
  simp only [State.collJudge, found]
  exact ite_eq_left_iff.2 fun _ => (if_neg other).trans (if_pos late)

variable (usual : ¬m.strange s) (due : dlineOf s.now (m.cx 82 32) = x.dline ∨ x.fromParent m ∧ m.pkt.mtype = 2 ∧ x.parentGo = 0)
include usual due

/-- A message of the collective's deadline, from its own job, is judged by its kind. -/
theorem State.collJudge_heard :
    let parent : Bool := !cdTop x.desc && m.pkt.seid.toNat = cdParent x.desc
    let dl := dlineOf s.now (m.cx 82 32)
    let st : Status := BitVec.ofNat 5 (m.cx 77 5)
    s.collJudge b m = if m.pkt.mtype.toNat = 4 then (if parent then .ended n st (cdParent x.desc) else if st ≠ stOk then .ended n st m.pkt.seid.toNat else .stray)
      else if dl ≤ m.stamp then .stray
      else if m.pkt.mtype.toNat = 2 then
        if parent ∧ x.parentGo < cdSlices x.desc ∧ m.cx 16 35 = x.parentGo * cdElems x.desc ∧ m.cx 51 13 = cdCount x.desc x.parentGo then .opened n dl else .stray
      else
        let raw : Bool := m.pkt.mtype.toNat = 0
        let short : Bool := (raw || cdOp x.desc ≠ 0) && (slotsBytes m.pkt.data).length < m.cx 51 13 * inWidth (cdIfmt x.desc)
        if 1 < m.pkt.mtype.toNat ∨ x.phase ≠ 1 ∨ cdNsrc x.desc ≤ m.cx 64 12 ∨ m.cx 51 13 = 0 ∨ m.cx 16 35 < x.slice * cdElems x.desc
          ∨ x.slice * cdElems x.desc + cdCount x.desc x.slice < m.cx 16 35 + m.cx 51 13 ∨ short then .stray
        else .take n x (if raw then cdiv (m.cx 51 13) (inRate (cdIfmt x.desc)) else max (cdiv (m.cx 51 13) 64) (cdiv (slotsBytes m.pkt.data).length 256)) raw
          (m.cx 16 35) (m.cx 51 13) (m.cx 64 12) (m.cx 114 13) (m.cx 76 1 = 1) (slotsBytes m.pkt.data) := by
  have heard : ¬((m.ingress = 1 && (s.port m.lane).role = 1 && (s.port m.lane).job ≠ m.pkt.job : Bool) = true
      ∨ (dlineOf s.now (m.cx 82 32) ≠ x.dline ∧ ¬((!cdTop x.desc && m.pkt.seid.toNat = cdParent x.desc : Bool) = true ∧ m.pkt.mtype.toNat = 2 ∧ x.parentGo = 0))) := by
    rintro (strange | ⟨other, closed⟩)
    · simp only [Bool.and_eq_true, decide_eq_true_eq] at strange
      exact usual ⟨strange.1.1, strange.1.2, strange.2⟩
    · obtain ⟨⟨below, own⟩, kind, first⟩ := due.resolve_left other
      exact closed ⟨by simp [below, own], by rw [kind]; rfl, first⟩
  simp only [State.collJudge, found]
  exact if_neg heard

/-- An END from the parent, or from elsewhere with a failure, ends the collective. -/
theorem State.collJudge_end (kind : m.pkt.mtype = 4) :
    (x.fromParent m → s.collJudge b m = .ended n (BitVec.ofNat 5 (m.cx 77 5)) (cdParent x.desc))
      ∧ (¬x.fromParent m → BitVec.ofNat 5 (m.cx 77 5) ≠ stOk → s.collJudge b m = .ended n (BitVec.ofNat 5 (m.cx 77 5)) m.pkt.seid.toNat)
      ∧ (¬x.fromParent m → BitVec.ofNat 5 (m.cx 77 5) = stOk → s.collJudge b m = .stray) := by
  have heard := State.collJudge_heard found usual due
  dsimp only at heard
  rw [if_pos (by rw [kind]; rfl)] at heard
  have parent : (!cdTop x.desc && m.pkt.seid.toNat = cdParent x.desc : Bool) = true ↔ x.fromParent m := by simp [Coll.fromParent]
  refine ⟨fun own => heard.trans (if_pos (parent.2 own)), fun foreign failed => heard.trans ((if_neg (fun h => foreign (parent.1 h))).trans (if_pos failed)),
    fun foreign fine => heard.trans ((if_neg (fun h => foreign (parent.1 h))).trans (if_neg (Classical.not_not.2 fine)))⟩

/-- The parent's SLICEGO for the next slice opens it. -/
theorem State.collJudge_go (kind : m.pkt.mtype = 2) (intime : m.stamp < dlineOf s.now (m.cx 82 32)) (parent : x.fromParent m) (more : x.parentGo < cdSlices x.desc)
    (first : m.cx 16 35 = x.parentGo * cdElems x.desc) (count : m.cx 51 13 = cdCount x.desc x.parentGo) :
    s.collJudge b m = .opened n (dlineOf s.now (m.cx 82 32)) := by
  have heard := State.collJudge_heard found usual due
  dsimp only at heard
  obtain ⟨below, own⟩ := parent
  rw [if_neg (by rw [kind]; decide), if_neg (by omega), if_pos (by rw [kind]; rfl), if_pos ⟨by simp [below, own], more, first, count⟩] at heard
  exact heard

/-- Elements of the open slice, in time and in range, are taken. -/
theorem State.collJudge_elements (kind : m.pkt.mtype = 0 ∨ m.pkt.mtype = 1) (intime : m.stamp < dlineOf s.now (m.cx 82 32)) (runs : x.phase = 1)
    (inRange : m.cx 64 12 < cdNsrc x.desc ∧ m.cx 51 13 ≠ 0 ∧ x.slice * cdElems x.desc ≤ m.cx 16 35
      ∧ m.cx 16 35 + m.cx 51 13 ≤ x.slice * cdElems x.desc + cdCount x.desc x.slice)
    (whole : m.pkt.mtype = 0 ∨ cdOp x.desc ≠ 0 → m.cx 51 13 * inWidth (cdIfmt x.desc) ≤ (slotsBytes m.pkt.data).length) :
    s.collJudge b m = .take n x (if m.pkt.mtype = 0 then cdiv (m.cx 51 13) (inRate (cdIfmt x.desc)) else max (cdiv (m.cx 51 13) 64) (cdiv (slotsBytes m.pkt.data).length 256))
      (m.pkt.mtype = 0) (m.cx 16 35) (m.cx 51 13) (m.cx 64 12) (m.cx 114 13) (m.cx 76 1 = 1) (slotsBytes m.pkt.data) := by
  have heard := State.collJudge_heard found usual due
  dsimp only at heard
  have small : m.pkt.mtype.toNat ≤ 1 := by rcases kind with h | h <;> rw [h] <;> decide
  have raw : decide (m.pkt.mtype.toNat = 0) = decide (m.pkt.mtype = 0) := by rcases kind with h | h <;> rw [h] <;> decide
  obtain ⟨source, some_, low, high⟩ := inRange
  rw [if_neg (by omega), if_neg (by omega), if_neg (by omega), raw, if_neg] at heard
  · refine heard.trans ?_
    simp only [decide_eq_true_eq]
  · rintro (h | h | h | h | h | h | h)
    · omega
    · exact h runs
    · omega
    · exact some_ h
    · omega
    · omega
    · simp only [Bool.and_eq_true, Bool.or_eq_true, decide_eq_true_eq] at h
      have enough := whole h.1
      omega

end

/-! ### What a message does -/

/-- A stray message is counted, and does nothing else. -/
theorem State.collStray_effect (t : State) (b : Nat) : ((t.collStray b).blk b).stray = satAdd (t.blk b).stray 1 ∧ t.collStray b = { t with blks := (t.collStray b).blks } :=
  ⟨by rw [State.collStray, State.blk_updBlk], rfl⟩

section
variable {s t : State} {b : Nat} {m : Msg} {want : Nat → Bool} (head : s.collHead b = some (m, t)) (wanted : want m.pkt.mtype.toNat = true)
include head wanted

theorem State.collMsg_stray (stray : s.collJudge b m = .stray) : s.collMsg b want = t.collStray b := by
  simp only [State.collMsg, head, wanted, stray, not_true_eq_false, if_false]

theorem State.collMsg_ended {n : Nat} {st : Status} {came : Nat} (ended : s.collJudge b m = .ended n st came) : s.collMsg b want = t.collEnd b n st (some came) := by
  simp only [State.collMsg, head, wanted, ended, not_true_eq_false, if_false]

theorem State.collMsg_opened {n dl : Nat} {x : Coll} (opened : s.collJudge b m = .opened n dl) (held : t.coll b n = some x) :
    s.collMsg b want = (t.setColl b n (some { x with parentGo := x.parentGo + 1, dline := if x.parentGo = 0 then dl else x.dline })).collDeliver b n := by
  simp only [State.collMsg, head, wanted, opened, held, not_true_eq_false, if_false]

theorem State.collMsg_take {n cyc first count src nc : Nat} {x : Coll} {raw last : Bool} {body : List Byte}
    (take : s.collJudge b m = .take n x cyc raw first count src nc last body) :
    s.collMsg b want = if s.redTurn b x.ctx cyc then (t.charge x.ctx eRed cyc).collTake b n x raw first count src nc last body else s := by
  simp only [State.collMsg, head, wanted, take, not_true_eq_false, if_false]

end

/-- Settles O50. -/
theorem collectiveMessages : Obligations.CollectiveMessages := by
  refine ⟨?_, ?_, ?_, ?_, ?_⟩
  · intro s b m k f edge
    refine ⟨fun none_ => ?_, fun n x found => ?_⟩
    · unfold State.collJudge
      dsimp only
      rw [show s.collAt b m.pkt.job (bits m.pkt.memx 0 16) = none from none_]
    intro d dl parent lo body inRange
    refine ⟨State.collJudge_strange found, fun usual due kind => State.collJudge_end found usual (.inl due) kind,
      fun usual own due kind intime more first count => State.collJudge_go found usual (due.imp_right fun first => ⟨own, kind, first⟩) kind intime own more first count,
      fun usual due intime runs good => ⟨fun kind whole => ?_, fun kind whole => ?_⟩, fun stays other => State.collJudge_deadline found other (fun h => stays h),
      fun kind late => State.collJudge_late found kind late⟩
    · have taken := State.collJudge_elements found usual (.inl due) (.inl kind) intime runs good (fun _ => whole)
      rw [if_pos kind, decide_eq_true kind] at taken
      exact taken
    · have other : ¬m.pkt.mtype = 0 := fun h => absurd (kind.symm.trans h) (by decide)
      have taken := State.collJudge_elements found usual (.inl due) (.inr kind) intime runs good (fun h => whole (h.resolve_left other))
      rw [if_neg other, decide_eq_false other] at taken
      exact taken
  · intro s t g m n x cyc raw first count src nc last body b r head take taken
    have turn {want : Nat → Bool} (wanted : want m.pkt.mtype.toNat = true) : (r.redTurn b x.ctx cyc = true → (r.collMsg b want).review = taken)
        ∧ (r.redTurn b x.ctx cyc = false → (r.collMsg b want).review = r.review) := by
      rw [State.collMsg_take head wanted take]
      exact ⟨fun now => congrArg State.review (if_pos now), fun later => congrArg State.review (if_neg (by simp [later]))⟩
    refine ⟨fun kind => ?_, fun kind => ?_⟩
    · obtain ⟨now, later⟩ := turn (want := fun k => k = 0 || k = 3) (by rw [kind]; rfl)
      exact ⟨fun h => congrArg Host.Outcome.next (now h), fun h => congrArg Host.Outcome.next (later h)⟩
    · obtain ⟨now, later⟩ := turn (want := fun k => k = 1) (by rw [kind]; rfl)
      exact ⟨fun h => congrArg Host.Outcome.next (now h), fun h => congrArg Host.Outcome.next (later h)⟩
  · intro s t g m n x dl b r head opened held kind
    refine ⟨_, congrArg (fun u : State => Host.Outcome.next u.review) (State.collMsg_opened head (by rw [kind]; rfl) opened held), State.coll_setColl .., rfl⟩
  · intro s t g m n st came head ended kind
    exact congrArg (fun u : State => Host.Outcome.next u.review) (State.collMsg_ended head (by rw [kind]; rfl) ended)
  · intro s t g m b r stray
    have counted {u : State} {want : Nat → Bool} (head : u.collHead b = some (m, t)) (wanted : want m.pkt.mtype.toNat = true) (judged : u.collJudge b m = .stray) :
        stray (u.collMsg b want).review := ⟨_, rfl, by rw [State.collMsg_stray head wanted judged]; exact t.collStray_effect b⟩
    refine ⟨fun head judged => ⟨fun kind => ⟨_, rfl, counted head ?_ judged⟩, fun kind => ⟨_, rfl, counted head ?_ judged⟩, fun kind => ⟨_, rfl, counted head ?_ judged⟩⟩,
      fun head judged kind => ⟨_, rfl, counted head ?_ judged⟩⟩
    · rcases kind with kind | kind <;> rw [kind] <;> rfl
    · rw [kind]; rfl
    · rw [kind]; rfl
    · rw [kind]; rfl

end Sys2Proof.Machine
end

section
/-! What the sequencer's work on contexts leaves alone: memory, partitions, and of ports, trunks and Blocks all but their counts of traffic. -/

namespace Sys2Proof.Machine

/-- The state without its contexts and the counts of traffic: what no operation on a context changes. -/
def State.offCtxs (s : State) : State × (Nat → Port) × (Nat → Trunk) × (Nat → Block) := ({ s.still with ctxs := [] }, s.offTraffic.2)

theorem State.offCtxs_of_offTraffic {s t : State} (h : t.offTraffic = s.offTraffic) : t.offCtxs = s.offCtxs :=
  Prod.ext (congrArg (fun u : State => { u with ctxs := [] }) (State.still_of_offTraffic h)) (congrArg (fun x : State × (Nat → Port) × (Nat → Trunk) × (Nat → Block) => x.2) h :)

theorem State.mem_of_offCtxs {s t : State} (h : t.offCtxs = s.offCtxs) : t.mem = s.mem := (congrArg (·.1.mem) h :)
theorem State.parts_of_offCtxs {s t : State} (h : t.offCtxs = s.offCtxs) : t.parts = s.parts := (congrArg (·.1.parts) h :)
theorem State.offCounts_of_offCtxs {s t : State} (h : t.offCtxs = s.offCtxs) (g : Nat) : (t.blk g).offCounts = (s.blk g).offCounts := (congrArg (·.2.2.2 g) h :)

@[simp] theorem State.setCtx_offCtxs (s : State) (c : Nat) (x : Ctx) : (s.setCtx c x).offCtxs = s.offCtxs := rfl
@[simp] theorem State.updCtx_offCtxs (s : State) (c : Nat) (f : Ctx → Ctx) : (s.updCtx c f).offCtxs = s.offCtxs := rfl
@[simp] theorem State.setOp_offCtxs (s : State) (c e : Nat) (o : Option Op) : (s.setOp c e o).offCtxs = s.offCtxs := rfl
@[simp] theorem State.updQtr_offCtxs (s : State) (q : Nat) (f : Quarter → Quarter) : (s.updQtr q f).offCtxs = s.offCtxs := rfl
@[simp] theorem State.tagSet_offCtxs (s : State) (tag : Tag) (deid : Eid) (h : Holder) : (s.tagSet tag deid h).offCtxs = s.offCtxs := rfl
@[simp] theorem State.entryFreed_offCtxs (s : State) (g : Nat) (e : Nat → Bool) : (s.entryFreed g e).offCtxs = s.offCtxs := rfl
@[simp] theorem State.tagFreed_offCtxs (s : State) (q : Nat) (deid : Eid) : (s.tagFreed q deid).offCtxs = s.offCtxs := rfl
@[simp] theorem State.sendSq_offCtxs (s : State) (m : Msg) : (s.sendSq m).offCtxs = s.offCtxs := State.offCtxs_of_offTraffic (s.sendSq_offTraffic m)
@[simp] theorem State.sendBlk_offCtxs (s : State) (g : Nat) (m : Msg) : (s.sendBlk g m).offCtxs = s.offCtxs := State.offCtxs_of_offTraffic (s.sendBlk_offTraffic g m)
@[simp] theorem State.raise_offCtxs (s : State) (e : Event) : (s.raise e).offCtxs = s.offCtxs := State.offCtxs_of_offTraffic (s.raise_offTraffic e)

/-! ### The end of a program -/

@[simp] theorem State.subdone_offCtxs (s : State) (c : Nat) (st : Status) (idx : BitVec 16) : (s.subdone c st idx).offCtxs = s.offCtxs := State.sendSq_offCtxs ..

@[simp] theorem State.holdTag_offCtxs (s : State) (r : Req) : (s.holdTag r).offCtxs = s.offCtxs := by
  unfold State.holdTag
  split <;> rfl

@[simp] theorem State.emptyCtx_offCtxs (s : State) (c : Nat) (st : Status) (idx : BitVec 16) : (s.emptyCtx c st idx).offCtxs = s.offCtxs := by
  have held := foldl_same (g := State.offCtxs) (fun s r => State.holdTag_offCtxs s r) (s.ctx c).reqs s
  unfold State.emptyCtx
  dsimp only
  split
  next => exact (State.setCtx_offCtxs ..).trans held
  next => exact (State.entryFreed_offCtxs ..).trans ((State.setCtx_offCtxs ..).trans held)

@[simp] theorem State.endCtx_offCtxs (s : State) (c : Nat) (st : Status) (idx : BitVec 16) : (s.endCtx c st idx).offCtxs = s.offCtxs := by
  rw [State.endCtx, State.emptyCtx_offCtxs, State.subdone_offCtxs]

@[simp] theorem State.faultCtx_offCtxs (s : State) (c : Nat) (st : Status) (idx : BitVec 16) : (s.faultCtx c st idx).offCtxs = s.offCtxs := by
  unfold State.faultCtx
  dsimp only
  split <;> rfl

@[simp] theorem State.outcome_offCtxs (s : State) (c : Nat) (idx : BitVec 16) (pred : Nat) (st : Status) (outc : Bool) : (s.outcome c idx pred st outc).offCtxs = s.offCtxs := by
  unfold State.outcome
  dsimp only
  split
  next => exact State.setCtx_offCtxs ..
  next =>
    split
    next => exact (State.faultCtx_offCtxs ..).trans (State.setCtx_offCtxs ..)
    next => exact (State.updCtx_offCtxs ..).trans (State.setCtx_offCtxs ..)

@[simp] theorem State.settleIssue_offCtxs (s : State) (c : Nat) : (s.settleIssue c).offCtxs = s.offCtxs := by
  unfold State.settleIssue
  dsimp only
  split
  next => rfl
  next =>
    split
    next => exact State.endCtx_offCtxs ..
    next =>
      split
      next => split <;> rfl
      next => rfl

@[simp] theorem State.complete_offCtxs (s : State) (c e : Nat) (st : Status) : (s.complete c e st).offCtxs = s.offCtxs := by
  unfold State.complete
  split
  next => rfl
  next =>
    dsimp only
    split
    next => rw [State.updCtx_offCtxs, State.setOp_offCtxs]
    next => rw [State.settleIssue_offCtxs, State.outcome_offCtxs, State.updCtx_offCtxs, State.setOp_offCtxs]

@[simp] theorem State.checkDone_offCtxs (s : State) (c e : Nat) : (s.checkDone c e).offCtxs = s.offCtxs := by
  unfold State.checkDone
  dsimp only
  split
  next => rfl
  next =>
    split
    next => rfl
    next =>
      split
      next => rfl
      next =>
        split
        next => rfl
        next => exact State.complete_offCtxs ..

/-! ### Review -/

@[simp] theorem State.reviewCtx_offCtxs (s : State) (c : Nat) : (s.reviewCtx c).offCtxs = s.offCtxs := by
  unfold State.reviewCtx
  dsimp only
  repeat' split
  all_goals rfl

@[simp] theorem State.reviewCand_offCtxs (was s : State) (c e : Nat) : (was.reviewCand s c e).offCtxs = s.offCtxs := by
  unfold State.reviewCand
  dsimp only
  repeat' split
  all_goals rfl

@[simp] theorem State.review_offCtxs (s : State) : s.review.offCtxs = s.offCtxs := by
  unfold State.review
  rw [foldl_same (g := State.offCtxs) (fun s c => foldl_same (g := State.offCtxs) (fun u e => State.reviewCand_offCtxs ..) _ s)]
  exact foldl_same (fun s c => s.reviewCtx_offCtxs c) _ s

/-! ### Collectives -/

@[simp] theorem State.collWake_offCtxs (s : State) (job : JobId) (cid : Nat) (st : Status) : (s.collWake job cid st).offCtxs = s.offCtxs := by
  refine foldl_same (fun s c => ?_) _ s
  split
  next =>
    dsimp only
    split
    next =>
      split
      next => exact (State.updCtx_offCtxs ..).trans (State.setOp_offCtxs ..)
      next => exact (State.checkDone_offCtxs ..).trans ((State.updCtx_offCtxs ..).trans (State.setOp_offCtxs ..))
    next => rfl
  next => rfl

theorem State.coll_of_offCtxs {s t : State} (h : t.offCtxs = s.offCtxs) (g n : Nat) : t.coll g n = s.coll g n :=
  (congrArg (fun b : Block => tget b.colls n none) (State.offCounts_of_offCtxs h g) :)

@[simp] theorem State.sendColl_offCtxs (s : State) (g : Nat) (x : Coll) (mt deid : Nat) (cx : Slot) (body : List Byte) : (s.sendColl g x mt deid cx body).offCtxs = s.offCtxs :=
  State.sendBlk_offCtxs ..

/-- A collective that ends keeps all but its phase and how and when it ended (R268). -/
theorem State.coll_collEnd {s : State} {b n : Nat} {x : Coll} (held : s.coll b n = some x) (runs : x.endSt = none) (st : Status) (came : Option Nat) :
    (s.collEnd b n st came).coll b n = some { x with phase := 3, endSt := some st, endTick := s.now } := by
  unfold State.collEnd
  rw [held]
  dsimp only
  rw [if_neg (by simp [runs])]
  refine (State.coll_of_offCtxs (State.collWake_offCtxs ..) b n).trans ?_
  refine (State.coll_of_offCtxs (foldl_same (g := State.offCtxs) (fun s e => State.sendColl_offCtxs ..) _ _) b n).trans ?_
  exact State.coll_setColl ..

/-- A collective that overruns is counted, raised, and ended with TICK_OVERRUN (R53). -/
theorem State.collOverrun_effect {s : State} {b n : Nat} {x : Coll} (held : s.coll b n = some x) :
    ∃ u : State, s.collOverrun b n = u.collEnd b n stOverrun none ∧ (u.blk b).overrun = satAdd (s.blk b).overrun 1 ∧ u.coll b n = some x := by
  unfold State.collOverrun
  rw [held]
  dsimp only
  generalize State.collEvent _ x _ = e
  have raised := (s.updBlk b (fun b => { b with overrun := satAdd b.overrun 1 })).raise_offCtxs e
  refine ⟨_, rfl, ?_, (State.coll_of_offCtxs raised b n).trans ?_⟩
  · have counted := congrArg Block.overrun (State.offCounts_of_offCtxs raised b)
    exact counted.trans (by simp [Block.offCounts])
  · rw [State.coll, State.blk_updBlk]
    exact held

/-! ### Slices -/

/-- A collective whose next slice opens. -/
def Coll.opened (x : Coll) : Coll := { x with phase := 1, empty := false, acc := [], taken := 0, lasts := [], dup := false, kinds := [], sent := false, outAt := 0 }

theorem State.coll_collOpen {s : State} {b n : Nat} {x : Coll} (held : s.coll b n = some x) (runs : x.endSt = none) (empty : x.empty = true) (goes : x.waitEnd = false)
    (more : x.slice < cdSlices x.desc) (told : cdTop x.desc = true ∨ x.parentGo ≠ 0) : (s.collOpen b n).coll b n = some x.opened := by
  unfold State.collOpen
  rw [held]
  dsimp only
  rw [if_neg (by simp only [runs, empty, goes]; rcases told with top | go <;> simp [*])]
  change State.coll (if cdGogrp x.desc = 0xFFF then s.setColl b n (some x.opened)
    else (s.setColl b n (some x.opened)).sendColl b x.opened 2 (cdGogrp x.desc) (colx x.opened (x.slice * cdElems x.desc) (cdCount x.desc x.slice) 0 false 0 0) []) b n = some x.opened
  split
  · exact State.coll_setColl ..
  · refine (State.coll_of_offCtxs (s := s.setColl b n (some x.opened)) (State.sendColl_offCtxs ..) b n).trans ?_
    exact State.coll_setColl ..

theorem Coll.of_delivered {s : State} {b : Nat} {x : Coll} (done : s.collDelivered b x = true) :
    x.phase = 2 ∧ x.sent = true ∧ x.empty = false ∧ x.stores = [] ∧ x.endSt = none := by
  simp only [State.collDelivered, Bool.and_eq_true, decide_eq_true_eq, Bool.not_eq_true', Option.isNone_iff_eq_none] at done
  obtain ⟨⟨⟨⟨⟨⟨phase, sent⟩, full⟩, stores⟩, runs⟩, -⟩, -⟩ := done
  exact ⟨phase, sent, full, stores, runs⟩

section
variable {s : State} {b n : Nat} {x : Coll} (held : s.coll b n = some x) (done : s.collDelivered b x = true)
include held done

/-- A delivered slice asks for no store again. -/
theorem State.collResend_delivered : s.collResend b n = s := by
  obtain ⟨-, -, -, stores, -⟩ := Coll.of_delivered done
  cases part : s.partOfJob x.job <;> simp [State.collResend, held, part, stores]

/-- A delivered slice is delivered no further. -/
theorem State.collDeliver_delivered (stored : cdTop x.desc = true → cdStores x.desc = true → x.image.length ≤ x.outAt) : s.collDeliver b n = s := by
  obtain ⟨phase, sent, full, -, runs⟩ := Coll.of_delivered done
  have unripe : x.ripe = false := by simp [Coll.ripe, sent]
  have stay (fuel : Nat) (short : x.image.length ≤ x.outAt) : s.collStores b n x.image fuel = s := by
    cases fuel with
    | zero => rfl
    | succ fuel =>
      rw [State.collStores, held]
      exact if_pos (.inl (by omega))
  unfold State.collDeliver
  rw [held]
  dsimp only
  rw [if_neg (by simp [phase, full, runs]), if_pos (.inl unripe), held]
  dsimp only
  split
  next stores => exact stay _ (stored stores.2.1 stores.2.2)
  next => rfl

/-- What the end of a delivery makes of the collective. -/
theorem State.sliceDone_delivered (stored : cdTop x.desc = true → cdStores x.desc = true → x.image.length ≤ x.outAt) :
    ((s.collResend b n).collDeliver b n).collSliceDone b n = if x.slice + 1 < cdSlices x.desc then s.setColl b n (some { x with slice := x.slice + 1, empty := true, acc := [] })
      else if cdTop x.desc then (if s.now < x.dline then s.collEnd b n stOk none else s.collOverrun b n)
      else s.setColl b n (some { x with empty := true, acc := [], waitEnd := true }) := by
  rw [State.collResend_delivered held done, State.collDeliver_delivered held done stored]
  unfold State.collSliceDone
  rw [held]
  exact if_neg (by simp [done])

end

/-- The tags of a collective's open stores, held as after a timeout (R164). -/
def State.storesHeld (s : State) (l : List CollStore) : State :=
  l.foldl (fun s r => if r.remote then s.tagSet r.msg.pkt.tag r.msg.pkt.deid (.held (endOf s.now 512)) else s) s

theorem State.storesHeld_frame (s : State) (l : List CollStore) : s.storesHeld l = { s with qs := (s.storesHeld l).qs } := by
  induction l generalizing s with
  | nil => rfl
  | cons r l ih =>
    rcases hr : r.remote with _ | _
    · have same : s.storesHeld (r :: l) = s.storesHeld l := by simp [State.storesHeld, hr]
      rw [same]
      exact ih s
    · have next : s.storesHeld (r :: l) = (s.tagSet r.msg.pkt.tag r.msg.pkt.deid (.held (endOf s.now 512))).storesHeld l := by simp [State.storesHeld, hr]
      rw [next]
      exact ih _

/-- An ended collective leaves its Block, its tags and those that waited for its buffer. -/
theorem exec_collRelease {s : State} {g : BlockId} {m : BitVec 5} {x : Coll} (held : s.coll g.toNat m.toNat = some x) (ended : x.endSt.isSome = true) (late : x.endTick < s.now) :
    ∃ t : State, exec (.collReservationRelease g m) s = .next t ∧ t.coll g.toNat m.toNat = none ∧ t = { s with blks := t.blks, qs := t.qs, ctxs := t.ctxs } := by
  refine ⟨((s.storesHeld x.stores).setColl g.toNat m.toNat none).entryFreed g.toNat (fun e => e = eRed && x.openStores ≠ 0), ?_, State.coll_setColl (s.storesHeld x.stores) .., ?_⟩
  · dsimp only [exec, execCollReservationRelease]
    rw [held]
    exact if_pos ⟨ended, late⟩
  · have frame := s.storesHeld_frame x.stores
    generalize s.storesHeld x.stores = u at frame ⊢
    rw [frame]
    rfl

/-- Settles O52. -/
theorem slicesOpenAndClose : Obligations.SlicesOpenAndClose := by
  intro s g m x b n d held
  have reviewed (u : State) : u.review.coll b n = u.coll b n := State.coll_of_offCtxs u.review_offCtxs b n
  refine ⟨fun runs empty goes more told => ⟨(s.collOpen b n).review, x.opened, rfl, (reviewed _).trans (State.coll_collOpen held runs empty goes more told), rfl, rfl, rfl, rfl, rfl, rfl, rfl⟩,
    fun done stored => ?_, fun runs unsent late => ?_, fun runs sent late => ?_, fun ended late => exec_collRelease held ended late, fun runs => State.collOverrun_effect held,
    fun st came runs => State.coll_collEnd held runs st came⟩
  · have over_ := State.sliceDone_delivered ((reviewed s).trans held) done stored
    have access : exec (.sliceDeliveryDone g m) s = .next (((s.review.collResend b n).collDeliver b n).collSliceDone b n).review := rfl
    have now : s.review.now = s.now := (congrArg (fun u => u.1.tb.tick.toNat) s.review_offCtxs :)
    rw [access, over_]
    refine ⟨fun more => ⟨_, by rw [if_pos more], State.coll_setColl .., rfl⟩, fun last top => ?_, fun last below => ⟨_, ?_, State.coll_setColl .., rfl⟩⟩
    · rw [if_neg (Nat.not_lt.2 last), if_pos top, now]
    · rw [if_neg (Nat.not_lt.2 last), if_neg (by rw [below]; decide)]
  · dsimp only [exec, execCollectiveDeadline]
    rw [held]
    exact if_pos ⟨by simp [runs], by simp [unsent], late⟩
  · dsimp only [exec, execEndWaitTimeout]
    rw [held]
    exact if_pos ⟨by simp [runs], sent, late⟩

end Sys2Proof.Machine
end

section
/-! Answers to this device's requests, resends and timeouts (R155 to R167, R178, R180, R362 to R365, R393, R472). -/

namespace Sys2Proof.Machine

/-! ### The requests of a context -/

theorem State.reqs_entryFreed (s : State) (g : Nat) (e : Nat → Bool) (c : Nat) : ((s.entryFreed g e).ctx c).reqs = (s.ctx c).reqs := by rw [State.ctx_entryFreed]

/-- What a freed tag lets go of in context `k`. -/
def Ctx.tagFreed (q : Nat) (deid : Eid) (k : Nat) (x : Ctx) : Ctx := if k / 256 = q then { x with causes := x.causes.filter (fun k => k.eid ≠ some deid.toNat) } else x

theorem State.ctx_tagFreed (s : State) (q : Nat) (deid : Eid) (c : Nat) : (s.tagFreed q deid).ctx c = Ctx.tagFreed q deid c (s.ctx c) := by
  rw [State.ctx, State.ctx, ← tget_map (f := Ctx.tagFreed q deid) (by simp [Ctx.tagFreed])]
  simp only [State.tagFreed, Ctx.tagFreed]
  congr 2
  funext x
  split <;> rfl

theorem State.reqs_tagFreed (s : State) (q : Nat) (deid : Eid) (c : Nat) : ((s.tagFreed q deid).ctx c).reqs = (s.ctx c).reqs := by
  rw [State.ctx_tagFreed, Ctx.tagFreed]
  split <;> rfl

theorem State.req_congr {s t : State} {c : Nat} (h : (t.ctx c).reqs = (s.ctx c).reqs) (id : Nat) : t.req c id = s.req c id := by rw [State.req, State.req, h]

theorem State.req_id {s : State} {c id : Nat} {r : Req} (held : s.req c id = some r) : r.id = id := by
  simpa using List.find?_some held

theorem find?_map_own {l : List Req} {id : Nat} {r : Req} (held : l.find? (fun r => r.id = id) = some r) {f : Req → Req} (same : ∀ r, (f r).id = r.id) :
    (l.map (fun r => if r.id = id then f r else r)).find? (fun r => r.id = id) = some (f r) := by
  have kept (x : Req) : (if x.id = id then f x else x).id = x.id := by
    split
    next => exact same x
    next => rfl
  have own : r.id = id := by simpa using List.find?_some held
  rw [List.find?_map]
  simp only [Function.comp_def, kept, held, Option.map_some, own, if_true]

/-- A request changed under its own number is found there. -/
theorem State.req_updReq {s : State} {c id : Nat} {r : Req} (held : s.req c id = some r) {f : Req → Req} (same : ∀ r, (f r).id = r.id) :
    (s.updReq c id f).req c id = some (f r) := by
  rw [State.req, State.updReq, State.ctx_updCtx]
  exact find?_map_own held same

/-! ### An answer -/

section
variable {s t : State} {g mt : Nat} {m : Msg} (taken : s.takeTc3 g mt = some (m, t))
include taken

theorem State.takeAnswer_asked {c id : Nat} (asked : m.asker = .req c id ∨ (m.asker = .wire ∧ ∃ d, t.answerTo m.pkt = some (d, .req c id))) :
    ∃ b, s.takeAnswer g mt = (t.takeFor c id m.pkt mt b).review := by
  rcases asked with own | ⟨wire, d, held⟩
  · exact ⟨m.pkt.mtype.toNat = rAT, by simp only [State.takeAnswer, taken, own]⟩
  · exact ⟨true, by simp only [State.takeAnswer, taken, wire, held]⟩

theorem State.takeAnswer_late (wire : m.asker = .wire) (unknown : t.answerTo m.pkt = none) : s.takeAnswer g mt = (t.lateRsp m.pkt.tag).review := by
  simp only [State.takeAnswer, taken, wire, unknown]

variable {c id : Nat} {r : Req} (asked : m.asker = .req c id ∨ (m.asker = .wire ∧ ∃ d, t.answerTo m.pkt = some (d, .req c id))) (held : t.req c id = some r)
include asked held

theorem State.takeAnswer_performed (kind : answerOf r.msg.pkt = mt) : s.takeAnswer g mt = (t.performed c r m.pkt).review := by
  obtain ⟨b, took⟩ := State.takeAnswer_asked taken asked
  have other : mt ≠ rNAK := by
    rw [← kind]
    unfold answerOf
    split <;> decide
  rw [took, State.takeFor, held]
  dsimp only
  rw [if_neg other, if_pos kind.symm]

theorem State.takeAnswer_refused (nak : mt = rNAK) : s.takeAnswer g mt = (t.refused c r m.pkt.status).review := by
  obtain ⟨b, took⟩ := State.takeAnswer_asked taken asked
  rw [took, State.takeFor, held]
  dsimp only
  rw [if_pos nak]

end

section
variable {s : State} {c : Nat} {r : Req} (open_ : r.aband = false)
include open_

theorem State.refused_retry {st : Status} (later : st = stRetry ∨ st = stPoliced) : s.refused c r st = s.updReq c r.id (fun r => { r with retry := true }) := by
  rw [State.refused, if_neg (by simp [open_]), if_pos later]

theorem State.refused_stale (first : r.stale1 = false) :
    s.refused c r stMapStale = (s.updReq c r.id (fun r => { r with stale1 := true })).resend c { r with stale1 := true } := by
  rw [State.refused, if_neg (by simp [open_]), if_neg (by decide), if_pos ⟨rfl, by simp [first]⟩]

theorem State.refused_ends {st : Status} (retry : st ≠ stRetry) (policed : st ≠ stPoliced) (stale : st = stMapStale → r.stale1 = true) :
    s.refused c r st = s.failReq c r st false := by
  rw [State.refused, if_neg (by simp [open_]), if_neg (not_or.2 ⟨retry, policed⟩), if_neg (fun h => h.2 (stale h.1))]

theorem State.performed_bank {k : Pkt} {o n : Nat} (dest : r.dest = .bank o n) :
    s.performed c r k = ((s.bankLand c o r.msg.pkt.addr (payload k.data r.msg.pkt.addr n) (if k.status = stPoison then bits k.memx 0 32 else 0)).clashLand c r o n).reqDone c r k.status [] false false := by
  simp only [State.performed, open_, dest, State.finishReq, Bool.false_eq_true, if_false]

theorem State.performed_old {k : Pkt} {o w : Nat} (dest : r.dest = .old o w none) :
    s.performed c r k = ((s.bankWrite c o (bytesAt (slotsBytes k.data) 0 w) false).clashLand c r o w).reqDone c r k.status [] false false := by
  simp only [State.performed, open_, dest, State.finishReq, Bool.false_eq_true, if_false]

theorem State.performed_later {k : Pkt} {offs : List Nat} (dest : r.dest = .pf offs) (later : k.status = stRetry ∨ k.status = stPoliced) :
    s.performed c r k = s.updReq c r.id (fun r => { r with retry := true }) := by
  have retried : k.status = stRetry ∨ k.status = stPoliced ∨ (k.status = stMapStale ∧ ¬r.stale1 = true) := later.imp_right .inl
  simp only [State.performed, open_, dest, Bool.false_eq_true, if_false]
  rw [if_pos retried]
  exact State.refused_retry open_ later

end

/-! ### A request that ends -/

/-- A context without one of its requests. -/
def State.unasked (s : State) (c : Nat) (r : Req) : State := s.updCtx c (fun x => { x with reqs := x.reqs.filter (fun y => y.id ≠ r.id) })

/-- What becomes of the tag of a request that ends. -/
def State.untagged (s : State) (r : Req) (keep : Bool) : State := if r.tagged then (if keep then s.holdTag r else s.tagDrop r.msg.pkt.tag r.msg.pkt.deid) else s

theorem State.freeReq_eq (s : State) (c : Nat) (r : Req) (keep : Bool) : s.freeReq c r keep = let u := (s.unasked c r).untagged r keep
    if r.remote ∧ ¬(u.ctx c).parked then u.entryFreed (c / 16) (fun e => e = r.eng.toNat) else u := rfl

theorem State.reqs_untagged (s : State) (r : Req) (keep : Bool) (c : Nat) : ((s.untagged r keep).ctx c).reqs = (s.ctx c).reqs := by
  unfold State.untagged
  split
  next =>
    split
    next =>
      unfold State.holdTag
      split <;> rfl
    next => exact State.reqs_tagFreed ..
  next => rfl

theorem State.freeReq_req (s : State) (c : Nat) (r : Req) (keep : Bool) : ((s.freeReq c r keep).ctx c).reqs = (s.ctx c).reqs.filter (fun y => y.id ≠ r.id) := by
  have freed : (((s.unasked c r).untagged r keep).ctx c).reqs = (s.ctx c).reqs.filter (fun y => y.id ≠ r.id) :=
    (State.reqs_untagged ..).trans (congrArg Ctx.reqs (State.ctx_updCtx ..))
  rw [State.freeReq_eq]
  dsimp only
  split
  next => exact (State.reqs_entryFreed ..).trans freed
  next => exact freed

theorem State.tagHolder_tagDrop (s : State) (tag : Tag) (deid : Eid) : (s.tagDrop tag deid).tagHolder tag deid = none := by
  have tags : ((s.tagDrop tag deid).qtr (tag.toNat / 1024)).tags = tdel (s.qtr (tag.toNat / 1024)).tags (tagKey deid tag.toNat) :=
    (congrArg Quarter.tags (tget_tset_same ..) :)
  rw [State.tagHolder, tags, tfind_tdel, if_pos rfl]

theorem State.freeReq_tag (s : State) (c : Nat) (r : Req) (tagged : r.tagged = true) : (s.freeReq c r false).tagHolder r.msg.pkt.tag r.msg.pkt.deid = none := by
  have dropped : (s.unasked c r).untagged r false = (s.unasked c r).tagDrop r.msg.pkt.tag r.msg.pkt.deid := (if_pos tagged).trans (if_neg (by decide))
  rw [State.freeReq_eq, dropped]
  dsimp only
  split <;> exact State.tagHolder_tagDrop (s.unasked c r) ..

/-! ### Resends and timeouts -/

theorem State.times_eq {s : State} {c p : Nat} (part : s.partOfBlk (c / 16) = some p) : s.times c = ((s.part p).rto.toNat, (s.part p).tout.toNat) := by
  simp only [State.times, part]

/-- A request of another Block is sent again as it is, under the current generation. -/
theorem State.resend_remote {s : State} {c p : Nat} {r : Req} (part : s.partOfBlk (c / 16) = some p) (remote : r.remote = true) : s.resend c r
    = (s.updReq c r.id (fun x => { x with msg := { r.msg with pkt := { r.msg.pkt with gen := (s.part p).gen } }, last := s.now, retry := false })).sendBlk (c / 16)
        { r.msg with pkt := { r.msg.pkt with gen := (s.part p).gen } } := by
  simp only [State.resend, remote, State.resendOne, part, if_true]

theorem exec_requestResend {s : State} {c : CtxId} {id p : Nat} {r : Req} (held : s.req c.toNat id = some r) (part : s.partOfBlk (c.toNat / 16) = some p)
    (remote : r.remote = true) (due : r.last + (s.part p).rto.toNat ≤ s.now) (soon : s.now < endOf r.first (s.part p).tout.toNat) :
    ∃ (u : State) (q : Req), exec (.requestResend c id) s = .next (u.sendBlk (c.toNat / 16) q.msg).review ∧ u.req c.toNat id = some q
      ∧ q = { r with msg := { r.msg with pkt := { r.msg.pkt with gen := (s.part p).gen } }, last := s.now, retry := false } ∧ u = { s with ctxs := u.ctxs } := by
  obtain rfl := State.req_id held
  refine ⟨s.updReq c.toNat r.id (fun x => { x with msg := { r.msg with pkt := { r.msg.pkt with gen := (s.part p).gen } }, last := s.now, retry := false }), _, ?_, ?_, rfl, rfl⟩
  · dsimp only [exec, execRequestResend]
    rw [held]
    dsimp only
    rw [State.times_eq part, if_pos ⟨due, soon, .inl remote⟩, State.resend_remote part remote]
  · exact State.req_updReq held (f := fun x => { x with msg := { r.msg with pkt := { r.msg.pkt with gen := (s.part p).gen } }, last := s.now, retry := false }) (fun _ => rfl)

theorem State.timedOut_timeout (s : State) (g p : Nat) (k : Pkt) (c : Option Nat) : ((s.timedOut g p k c).blk g).timeout = satAdd (s.blk g).timeout 1 := by
  unfold State.timedOut
  dsimp only
  have counted : ((s.updBlk g (fun b => { b with timeout := satAdd b.timeout 1 })).blk g).timeout = satAdd (s.blk g).timeout 1 := by rw [State.blk_updBlk]
  split
  next => exact counted
  next =>
    refine Eq.trans ?_ counted
    exact (congrArg Block.timeout (State.offCounts_of_offCtxs (State.raise_offCtxs ..) g) :)

/-- A pool rebuilt for one EID: the tags that no request holds are free (R472). -/
def State.rebuilt (s : State) (q : Nat) (deid : Eid) : State := s.updQtr q (fun x => { x with
  rebuild := tdel x.rebuild deid.toNat
  tags := x.tags.filter (fun k => k.1 / 1024 ≠ deid.toNat || (match k.2 with
    | .req c id => (s.ctx c).reqs.any (fun r => r.id = id && r.tagged)
    | _ => true)) })

theorem State.mem_rebuilt (s : State) (deid : Eid) {l : Tbl Holder} {k : Nat × Holder} : k ∈ l.filter (fun k => k.1 / 1024 ≠ deid.toNat || (match k.2 with
    | .req c id => (s.ctx c).reqs.any (fun r => r.id = id && r.tagged)
    | _ => true)) ↔ k ∈ l ∧ (k.1 / 1024 = deid.toNat → ∀ c id, k.2 = .req c id → (s.ctx c).reqs.any (fun r => r.id = id && r.tagged) = true) := by
  rw [List.mem_filter]
  refine and_congr_right fun _ => ?_
  obtain ⟨n, h⟩ := k
  by_cases own : n / 1024 = deid.toNat
  · cases h <;> simp [own]
  · simp [own]

/-- Settles O53. -/
theorem answersEndRequests : Obligations.AnswersEndRequests := by
  refine ⟨?_, ?_, ?_, ?_, ?_, ?_, ?_, ?_⟩
  · intro s t g m c id r k asked held drops done
    have performed {mt : Nat} (taken : s.takeTc3 g.toNat mt = some (m, t)) (kind : answerOf r.msg.pkt = mt) : s.takeAnswer g.toNat mt = done :=
      State.takeAnswer_performed taken asked held kind
    have number := State.req_id held
    refine ⟨fun taken kind => congrArg (fun u => Host.Outcome.next (drops u)) (performed taken kind), fun taken kind => congrArg Host.Outcome.next (performed taken kind),
      fun taken kind => congrArg Host.Outcome.next (performed taken kind), fun taken kind => congrArg Host.Outcome.next (performed taken kind),
      fun taken kind => congrArg Host.Outcome.next (performed taken kind), fun taken open_ => ?_⟩
    have nak : exec (.nakResponse g) s = .next (t.refused c r k.status).review := congrArg Host.Outcome.next (State.takeAnswer_refused taken asked held rfl)
    refine ⟨fun later => ?_, fun stale first => ?_, fun retry policed stale => ?_⟩
    · rw [nak, State.refused_retry open_ later, number]
    · rw [nak, stale, State.refused_stale open_ first]
    · rw [nak, State.refused_ends open_ retry policed stale]
  · intro s c r k open_
    exact ⟨fun o n => State.performed_bank open_, fun o w => State.performed_old open_, fun offs => State.performed_later open_⟩
  · intro s k h held
    simp only [State.answerTo, held]
  · intro s t g m wire unknown u
    have late {mt : Nat} (taken : s.takeTc3 g.toNat mt = some (m, t)) : s.takeAnswer g.toNat mt = u := State.takeAnswer_late taken wire unknown
    refine ⟨by rw [State.lateRsp, State.blk_updBlk], fun taken => congrArg Host.Outcome.next (late taken), fun taken => congrArg Host.Outcome.next (late taken),
      fun taken => congrArg Host.Outcome.next (late taken), fun taken => congrArg Host.Outcome.next (late taken), fun taken => congrArg Host.Outcome.next (late taken)⟩
  · intro s c r keep
    refine ⟨?_, fun tagged drop => ?_, fun id other => ?_⟩
    · rw [State.req, State.freeReq_req, List.find?_eq_none]
      simp
    · rw [drop]
      exact State.freeReq_tag s c r tagged
    · rw [State.req, State.freeReq_req, State.req, List.find?_filter]
      congr 1
      funext x
      by_cases own : x.id = id
      · simp [own, other]
      · simp [own]
  · intro s c id p r held part
    have number := State.req_id held
    have times := State.times_eq part
    refine ⟨fun remote due soon => ?_, fun late => ⟨?_, State.timedOut_timeout ..⟩, fun soon => ?_⟩
    · exact exec_requestResend held part remote due soon
    · dsimp only [exec, execRequestTimeout]
      rw [held]
      dsimp only
      rw [times, if_neg (by simpa using late), part]
    · dsimp only [exec, execRequestTimeout]
      rw [held]
      dsimp only
      rw [times, if_pos soon]
  · intro s q deid tag e t held
    have access : exec (.tagHoldEnd q deid tag) s = .next (if e ≤ s.now then (s.tagDrop t deid).review else s) := by
      dsimp only [exec, execTagHoldEnd]
      rw [held]
    refine ⟨fun late => ⟨s.tagDrop t deid, access.trans (congrArg _ (if_pos late)), s.tagHolder_tagDrop t deid, rfl⟩, fun soon => access.trans (congrArg _ (if_neg (by omega)))⟩
  · intro s q deid e held late
    refine ⟨s.rebuilt q.toNat deid, ?_, ?_, fun k => ?_, rfl⟩
    · dsimp only [exec, execTagPoolRebuild]
      rw [held]
      dsimp only
      rw [if_neg (by omega)]
      rfl
    · rw [State.rebuilt, State.qtr_updQtr, tfind_tdel, if_pos rfl]
    · rw [State.rebuilt, State.qtr_updQtr]
      exact s.mem_rebuilt deid

end Sys2Proof.Machine
end

section
/-! A context brought in need be neither READY nor BLOCKED (R390, R391). -/

namespace Sys2Proof.Machine

/-- An RCOLLECT whose collective has ended with TICK_OVERRUN. -/
def overrunCollect : Op := { seq := 0, idx := 0, word := 0x11 <<< 120, done := some stOverrun }

/-- A parked context with no mail, whose RCOLLECT ended while it was away. -/
def overrunParked : State := { ctxs := [(0, { state := .swapped, parked := true, ops := [(eRed, some overrunCollect)] })] }

theorem overrunParked_bringCand : overrunParked.bringCand 0 = some (0, overrunParked.ctx 0) := by rfl

theorem overrunParked_fits : overrunParked.entriesFit 0 (overrunParked.ctx 0) (fun _ => 0) = true := by decide

/-- Brought in, the context completes its instruction with the failure, which faults it. -/
theorem overrunParked_faults : ((overrunParked.bringIn 0).ctx 0).state = .faulted := by rfl

/-- Refutes O28: a parked context without mail may hold an instruction that a collective's END has completed with a failure; brought in, it is FAULTED. -/
theorem not_contextsSettleAndSwap : ¬ Obligations.ContextsSettleAndSwap := by
  rintro ⟨-, -, bring⟩
  obtain ⟨-, states, -⟩ := bring overrunParked 0 0 _ overrunParked_bringCand overrunParked_fits
  rcases states rfl with ready | blocked
  · exact absurd (overrunParked_faults.symm.trans ready) (by decide)
  · exact absurd (overrunParked_faults.symm.trans blocked) (by decide)

end Sys2Proof.Machine
end

section
/-! The sequencer's instructions (R345, R346, R356 to R359). -/

namespace Sys2Proof.Machine

/-! ### What a review says of contexts -/

/-- A context without what a review sets: READY or BLOCKED and why, and its candidacy. -/
def Ctx.offReview (x : Ctx) : Ctx := { x with state := if x.state = .blocked then .ready else x.state, why := 0, wsrc := 0, since := 0, blkT := 0, cand := 0, v := [] }

theorem State.offReview_setCtx {s : State} {c : Nat} {y : Ctx} (same : y.offReview = (s.ctx c).offReview) (k : Nat) : ((s.setCtx c y).ctx k).offReview = (s.ctx k).offReview := by
  by_cases own : k = c
  · rw [own, State.ctx_setCtx, same]
  · rw [State.ctx_setCtx_other _ _ own]

/-- A context that can issue runs, holds nothing back and is not about to end. -/
theorem State.open_of_canIssue {s : State} {c : Nat} (can : s.canIssue c = true) :
    ((s.ctx c).state = .ready ∨ (s.ctx c).state = .blocked) ∧ (s.ctx c).parked = false ∧ (s.ctx c).hold = none ∧ (s.ctx c).fence = none ∧ (s.ctx c).ending = false := by
  simp only [State.canIssue, State.issueOpen, Bool.and_eq_true, Bool.or_eq_true, decide_eq_true_eq, Bool.not_eq_true', Option.isNone_iff_eq_none] at can
  obtain ⟨⟨⟨⟨⟨⟨runs, here⟩, hold⟩, fence⟩, ending⟩, -⟩, -⟩ := can
  exact ⟨runs, here, hold, fence, ending⟩

theorem State.offReview_reviewCtx (s : State) (c k : Nat) : ((s.reviewCtx c).ctx k).offReview = (s.ctx k).offReview := by
  unfold State.reviewCtx
  dsimp only
  split
  next => rfl
  next live =>
    have runs : (s.ctx c).state = .ready ∨ (s.ctx c).state = .blocked := Classical.byContradiction fun idle => live (.inr idle)
    split
    next =>
      split
      next =>
        split
        next => rfl
        next ready => exact State.offReview_setCtx (by simp [Ctx.offReview, runs.resolve_left ready]) k
      next =>
        split
        next blocked => exact State.offReview_setCtx (by simp [Ctx.offReview]) k
        next blocked => exact State.offReview_setCtx (by simp [Ctx.offReview, runs.resolve_right blocked]) k
    next =>
      split
      next => rfl
      next ready => exact State.offReview_setCtx (by simp [Ctx.offReview, runs.resolve_left ready]) k

theorem State.offReview_reviewCand (was s : State) (c e k : Nat) : ((was.reviewCand s c e).ctx k).offReview = (s.ctx k).offReview := by
  unfold State.reviewCand
  dsimp only
  split
  next => rfl
  next =>
    split
    next =>
      refine State.offReview_setCtx ?_ k
      rfl
    next =>
      refine State.offReview_setCtx ?_ k
      rfl

/-- A review sets of a context whether it is READY or BLOCKED, why and since when, and its candidacy. -/
theorem State.offReview_review (s : State) (k : Nat) : (s.review.ctx k).offReview = (s.ctx k).offReview := by
  have all : (fun k => (s.review.ctx k).offReview) = fun k => (s.ctx k).offReview := by
    unfold State.review
    rw [foldl_same (g := fun s : State => fun k => (s.ctx k).offReview) (fun s c => foldl_same (g := fun s : State => fun k => (s.ctx k).offReview)
      (fun u e => funext fun k => State.offReview_reviewCand ..) _ s)]
    exact foldl_same (g := fun s : State => fun k => (s.ctx k).offReview) (fun s c => funext fun k => s.offReview_reviewCtx c k) _ s
  exact congrFun all k

theorem State.review_state_off {s : State} {k : Nat} (off : (s.ctx k).state ≠ .ready) (held : (s.ctx k).state ≠ .blocked) : (s.review.ctx k).state = (s.ctx k).state := by
  have same := congrArg Ctx.state (s.offReview_review k)
  simp only [Ctx.offReview, held, if_false] at same
  split at same
  next => exact absurd same.symm off
  next => exact same

/-- A field that no review sets. -/
theorem State.review_field {β : Type} {f : Ctx → β} (keeps : ∀ x, f x.offReview = f x) (s : State) (k : Nat) : f (s.review.ctx k) = f (s.ctx k) := by
  rw [← keeps, State.offReview_review, keeps]

theorem State.ctxs_frame_foldl {α : Type} {f : State → α → State} (one : ∀ s x, f s x = { s with ctxs := (f s x).ctxs }) (l : List α) (s : State) :
    l.foldl f s = { s with ctxs := (l.foldl f s).ctxs } := by
  induction l generalizing s with
  | nil => rfl
  | cons x l ih =>
    refine (ih (f s x)).trans ?_
    rw [List.foldl_cons]
    generalize (l.foldl f (f s x)).ctxs = cs
    exact congrArg (fun u : State => { u with ctxs := cs }) (one s x)

theorem State.reviewCtx_frame (s : State) (c : Nat) : s.reviewCtx c = { s with ctxs := (s.reviewCtx c).ctxs } := by
  unfold State.reviewCtx
  dsimp only
  repeat' split
  all_goals rfl

theorem State.reviewCand_frame (was s : State) (c e : Nat) : was.reviewCand s c e = { s with ctxs := (was.reviewCand s c e).ctxs } := by
  unfold State.reviewCand
  dsimp only
  repeat' split
  all_goals rfl

theorem State.ctxs_frame_trans {s t u : State} (first : t = { s with ctxs := t.ctxs }) (second : u = { t with ctxs := u.ctxs }) : u = { s with ctxs := u.ctxs } :=
  second.trans (congrArg (fun v : State => { v with ctxs := u.ctxs }) first)

/-- A review changes contexts alone. -/
theorem State.review_frame (s : State) : s.review = { s with ctxs := s.review.ctxs } := by
  unfold State.review
  exact State.ctxs_frame_trans (State.ctxs_frame_foldl State.reviewCtx_frame _ s)
    (State.ctxs_frame_foldl (fun u c => State.ctxs_frame_foldl (fun u e => State.reviewCand_frame _ u c e) _ u) _ _)

/-! ### The stage -/

section
variable {s : State} {c : Nat} {i : Insn} {o : Op} (issues : Issues s c i o)
include issues

/-- An instruction that issues is carried out behind the program's advance. -/
theorem State.stage_issues {row : Insn → Bool} (mine : row i = true) (go : State → Insn → Op → State) : s.stage c row go = (go (s.advance c i) i o).review := by
  obtain ⟨can, word, rfl, legal, clean, fresh, made⟩ := issues
  have quiet : s.fetchClash c (s.names c (insnOf o.word)) = (false, s) := if_neg (by simp [fresh])
  unfold State.stage
  rw [if_neg (by simp [can]), word]
  dsimp only
  rw [if_neg (by simp [mine]), quiet]
  dsimp only
  rw [if_neg (by decide), if_neg (by simp [legal]), if_neg (by simp [clean]), ← made]

/-- A context whose instruction issues runs, holds nothing back and is not about to end. -/
theorem issues_open : ((s.ctx c).state = .ready ∨ (s.ctx c).state = .blocked) ∧ (s.ctx c).parked = false ∧ (s.ctx c).hold = none ∧ (s.ctx c).fence = none ∧ (s.ctx c).ending = false := by
  obtain ⟨can, -⟩ := issues
  exact State.open_of_canIssue can

end

theorem issues_pred {s : State} {c : Nat} {i : Insn} {o : Op} (issues : Issues s c i o) : i.pred < 16 := by
  obtain ⟨-, -, rfl, -⟩ := issues
  exact Nat.mod_lt _ (by decide)

/-- The context of a program that has gone on past an instruction. -/
theorem State.ctx_advance (s : State) (c : Nat) (i : Insn) : (s.advance c i).ctx c = { s.ctx c with
    pcx := (s.ctx c).pcx + 1, seq := (s.ctx c).seq + 1
    predSeq := if i.predW = 0 then (s.ctx c).predSeq else tins (tdel (s.ctx c).predSeq i.predW) i.predW (s.ctx c).seq } := s.ctx_updCtx c _

theorem State.desc_advance (s : State) (c : Nat) (i : Insn) (k : Nat) : (s.advance c i).desc c k = s.desc c k := by
  unfold State.desc
  rw [State.ctx_advance]
  rfl

theorem State.names_advance (s : State) (c : Nat) (i j : Insn) : (s.advance c i).names c j = s.names c j := by
  have same : (s.advance c i).desc c = s.desc c := funext (s.desc_advance c i)
  unfold State.names
  rw [same]

/-! ### What holds a program back -/

theorem State.settleIssue_quiet {s : State} {c : Nat} (going : (s.ctx c).ending = false) (free : (s.ctx c).fence = none) : s.settleIssue c = s := by
  unfold State.settleIssue
  dsimp only
  split
  next => rfl
  next => simp [going, free]

section
variable {s : State} {c : Nat} (here : (s.ctx c).parked = false)
include here

/-- A FENCE ends when all that was before it has completed, and sets its predicate (R358). -/
theorem State.settleIssue_fence {p : BitVec 4} (going : (s.ctx c).ending = false) (fenced : (s.ctx c).fence = some p) :
    s.settleIssue c = if (s.ctx c).inFlight = [] ∧ (s.ctx c).reqs = [] then
        s.setCtx c { s.ctx c with fence := none, preds := if p = 0 then (s.ctx c).preds else (s.ctx c).preds ||| BitVec.ofNat 16 (2 ^ p.toNat) }
      else s := by
  unfold State.settleIssue
  dsimp only
  by_cases flight : (s.ctx c).inFlight = []
  · rw [if_neg (by simp [flight, here]), if_neg (by simp [going]), fenced]
    dsimp only
    by_cases open_ : (s.ctx c).reqs = []
    · rw [if_neg (Classical.not_not.2 open_), if_pos (And.intro flight open_)]
    · rw [if_pos open_, if_neg (fun h => open_ h.2)]
  · rw [if_pos (.inl flight), if_neg (fun h => flight h.1)]

/-- An END ends the program when nothing is in flight (R359). -/
theorem State.settleIssue_end (ending : (s.ctx c).ending = true) : s.settleIssue c = if (s.ctx c).inFlight = [] then s.endCtx c stOk 0xFFFF else s := by
  unfold State.settleIssue
  dsimp only
  by_cases flight : (s.ctx c).inFlight = []
  · rw [if_neg (by simp [flight, here]), if_pos ending, if_pos flight]
  · rw [if_pos (.inl flight), if_neg flight]

end

/-- A program that ends leaves its status in the slot. -/
theorem State.ctx_endCtx (s : State) (c : Nat) (st : Status) (idx : BitVec 16) :
    ((s.endCtx c st idx).ctx c).state = .empty ∧ ((s.endCtx c st idx).ctx c).status = st ∧ ((s.endCtx c st idx).ctx c).index = idx := by
  unfold State.endCtx State.emptyCtx
  dsimp only
  split
  · rw [State.ctx_setCtx]
    exact ⟨rfl, rfl, rfl⟩
  · rw [State.ctx_entryFreed, State.ctx_setCtx]
    exact ⟨rfl, rfl, rfl⟩

/-- A fatal status faults a context that runs. -/
theorem State.outcome_fatal {s : State} {c : Nat} {idx : BitVec 16} {pred : Nat} {st : Status} {outc : Bool} (dies : fatal st = true)
    (runs : (s.ctx c).state = .ready ∨ (s.ctx c).state = .blocked) :
    let t := s.outcome c idx pred st outc
    (t.ctx c).state = .faulted ∧ (t.ctx c).status = st ∧ (t.ctx c).index = idx ∧ (t.ctx c).ending = false ∧ (t.ctx c).fence = none ∧ t = { s with ctxs := t.ctxs } := by
  have bad : st ≠ stOk := fun fine => absurd (fine ▸ dies) (by decide)
  unfold State.outcome
  dsimp only
  rw [if_neg bad, if_pos (.inr dies)]
  generalize made : (if pred = 0 then s.ctx c else _ : Ctx) = y
  have state : y.state = (s.ctx c).state := by
    rw [← made]
    split <;> rfl
  unfold State.faultCtx
  dsimp only
  rw [State.ctx_setCtx, if_neg (by rw [state]; rcases runs with h | h <;> simp [h]), State.ctx_setCtx]
  exact ⟨rfl, rfl, rfl, rfl, rfl, rfl⟩

/-- An instruction that completes with a status that is fatal faults its context (R353). -/
theorem State.ctx_endInsn_fatal {s : State} {c : Nat} {idx : BitVec 16} {pred : Nat} {st : Status} (dies : fatal st = true)
    (runs : (s.ctx c).state = .ready ∨ (s.ctx c).state = .blocked) (outc : Bool) :
    ((s.endInsn c idx pred st outc).ctx c).state = .faulted ∧ ((s.endInsn c idx pred st outc).ctx c).status = st ∧ ((s.endInsn c idx pred st outc).ctx c).index = idx
      ∧ s.endInsn c idx pred st outc = { s with ctxs := (s.endInsn c idx pred st outc).ctxs } := by
  obtain ⟨state, status, index, ending, fence, frame⟩ := State.outcome_fatal (idx := idx) (pred := pred) (outc := outc) dies runs
  rw [State.endInsn, State.settleIssue_quiet ending fence]
  exact ⟨state, status, index, frame⟩

/-- A held program: until when, and behind which instruction. -/
theorem State.ctx_holdIssue (s : State) (c t pred : Nat) : ((s.holdIssue c t pred).ctx c).hold = some t ∧ ((s.holdIssue c t pred).ctx c).pcx = (s.ctx c).pcx := by
  unfold State.holdIssue
  rw [State.ctx_updCtx, Ctx.block]
  split <;> exact ⟨rfl, rfl⟩

/-- A WAITT whose time has come only writes its predicate. -/
theorem State.ctx_waittPast {s : State} {c : Nat} (idx : BitVec 16) (pred : Nat) (going : (s.ctx c).ending = false) (free : (s.ctx c).fence = none) :
    let y := (s.endInsn c idx pred stOk false).ctx c
    y.pcx = (s.ctx c).pcx ∧ y.hold = (s.ctx c).hold ∧ (0 < pred → y.preds.getLsbD pred = false) := by
  have done : s.outcome c idx pred stOk false = s.setCtx c (if pred = 0 then s.ctx c else { s.ctx c with preds := (s.ctx c).preds &&& ~~~(BitVec.ofNat 16 (2 ^ pred)) }) := by
    unfold State.outcome
    exact if_pos rfl
  have quiet : (s.outcome c idx pred stOk false).settleIssue c = s.outcome c idx pred stOk false := by
    refine State.settleIssue_quiet ?_ ?_
    all_goals
      rw [done, State.ctx_setCtx]
      split <;> assumption
  rw [State.endInsn, quiet, done, State.ctx_setCtx]
  split
  next zero => exact ⟨rfl, rfl, fun some_ => absurd zero (by omega)⟩
  next => exact ⟨rfl, rfl, fun _ => (getLsbD_bitOff ..).trans (by simp)⟩

/-! ### The instructions -/

section
variable {s : State} {c : CtxId} {i : Insn} {o : Op} (issues : Issues s c.toNat i o)
include issues

/-- A sequencer instruction is carried out behind the program's advance. -/
theorem stage_sequencer {n : Nat} (kind : i.opc = n) (go : State → Insn → Op → State) :
    s.stage c.toNat (fun i => i.opc = n) go = (go (s.advance c.toNat i) i o).review := State.stage_issues issues (by simp [kind]) go

theorem exec_loop (kind : i.opc = 0x28) (steps : (s.names c.toNat i).all ((s.advance c.toNat i).steppable c.toNat) = true) (room : (s.ctx c.toNat).loops.length < 4) :
    ∃ t, exec (.loop c) s = .next t ∧ (t.ctx c.toNat).loops = { start := (s.ctx c.toNat).pcx + 1, last := i.imm, iter := 0, steps := s.names c.toNat i } :: (s.ctx c.toNat).loops
      ∧ (t.ctx c.toNat).pcx = (s.ctx c.toNat).pcx + 1 := by
  have opened : (s.advance c.toNat i).seqLoop c.toNat i o
      = (s.advance c.toNat i).updCtx c.toNat (fun x => { x with loops := { start := x.pcx, last := i.imm, iter := 0, steps := s.names c.toNat i } :: x.loops }) := by
    unfold State.seqLoop
    rw [State.names_advance, if_pos ⟨steps, by rw [State.ctx_advance]; exact room⟩]
  refine ⟨_, congrArg Host.Outcome.next ((stage_sequencer issues kind _).trans (congrArg State.review opened)), ?_, ?_⟩
  · rw [State.review_field (f := Ctx.loops) (fun _ => rfl), State.ctx_updCtx, State.ctx_advance]
  · rw [State.review_field (f := Ctx.pcx) (fun _ => rfl), State.ctx_updCtx, State.ctx_advance]

theorem exec_endloop {f : LoopFr} {r : List LoopFr} (kind : i.opc = 0x29) (inside : (s.ctx c.toNat).loops = f :: r) :
    ∃ t, exec (.endloop c) s = .next t ∧ if (i.mod = 1 ∧ (s.ctx c.toNat).pred i.pred = decide (i.imm = 1)) ∨ f.last = 0
      then (t.ctx c.toNat).loops = r ∧ (t.ctx c.toNat).pcx = (s.ctx c.toNat).pcx + 1
      else (t.ctx c.toNat).loops = { f with last := f.last - 1, iter := f.iter + 1 } :: r ∧ (t.ctx c.toNat).pcx = f.start := by
  refine ⟨_, congrArg Host.Outcome.next (stage_sequencer issues kind _), ?_⟩
  rw [State.review_field (f := Ctx.loops) (fun _ => rfl), State.review_field (f := Ctx.pcx) (fun _ => rfl)]
  have pred : ((s.advance c.toNat i).ctx c.toNat).pred i.pred = (s.ctx c.toNat).pred i.pred := by rw [State.ctx_advance]; rfl
  have loops : ((s.advance c.toNat i).ctx c.toNat).loops = f :: r := by rw [State.ctx_advance]; exact inside
  unfold State.seqEndloop
  dsimp only
  rw [loops, pred]
  dsimp only
  split
  · rw [State.ctx_setCtx, State.ctx_advance]
    exact ⟨rfl, rfl⟩
  · rw [State.ctx_setCtx]
    exact ⟨rfl, rfl⟩

theorem exec_skip (kind : i.opc = 0x2A) : ∃ t, exec (.skip c) s = .next t
    ∧ (t.ctx c.toNat).pcx = (s.ctx c.toNat).pcx + 1 + (if (s.ctx c.toNat).pred i.pred = decide (bits i.imm 8 1 = 1) then bits i.imm 0 8 else 0) := by
  refine ⟨_, congrArg Host.Outcome.next (stage_sequencer issues kind _), ?_⟩
  have pred : ((s.advance c.toNat i).ctx c.toNat).pred i.pred = (s.ctx c.toNat).pred i.pred := by rw [State.ctx_advance]; rfl
  rw [State.review_field (f := Ctx.pcx) (fun _ => rfl)]
  unfold State.seqSkip
  rw [State.ctx_updCtx, pred]
  split <;> rw [State.ctx_advance] <;> rfl

theorem exec_yield (kind : i.opc = 0x2D) :
    ∃ t, exec (.yield c) s = .next t ∧ (t.ctx c.toNat).pcx = (s.ctx c.toNat).pcx + 1 ∧ (t.ctx c.toNat).hold = some (s.now + 1) := by
  refine ⟨_, congrArg Host.Outcome.next (stage_sequencer issues kind _), ?_⟩
  obtain ⟨hold, pcx⟩ := (s.advance c.toNat i).ctx_holdIssue c.toNat ((s.advance c.toNat i).now + 1) 0
  rw [State.review_field (f := Ctx.hold) (fun _ => rfl), State.review_field (f := Ctx.pcx) (fun _ => rfl)]
  exact ⟨pcx.trans (by rw [State.ctx_advance]), hold⟩

theorem exec_waitt (kind : i.opc = 0x2B) : ∃ t, exec (.waitt c) s = .next t ∧ (t.ctx c.toNat).pcx = (s.ctx c.toNat).pcx + 1 ∧
    (i.mod = 0 → (t.ctx c.toNat).hold = some (s.now + i.imm)) ∧ (i.mod = 1 → s.now < i.imm → (t.ctx c.toNat).hold = some i.imm)
    ∧ (i.mod = 1 → i.imm ≤ s.now → (t.ctx c.toNat).hold = none ∧ (0 < i.pred → (t.ctx c.toNat).preds.getLsbD i.pred = false)) := by
  obtain ⟨-, here, unheld, unfenced, going⟩ := issues_open issues
  refine ⟨_, congrArg Host.Outcome.next (stage_sequencer issues kind _), ?_⟩
  rw [State.review_field (f := Ctx.hold) (fun _ => rfl), State.review_field (f := Ctx.pcx) (fun _ => rfl), State.review_field (f := Ctx.preds) (fun _ => rfl)]
  have pcx : ((s.advance c.toNat i).ctx c.toNat).pcx = (s.ctx c.toNat).pcx + 1 := by rw [State.ctx_advance]
  have hold : ((s.advance c.toNat i).ctx c.toNat).hold = none := by rw [State.ctx_advance]; exact unheld
  have now : (s.advance c.toNat i).now = s.now := rfl
  unfold State.seqWaitt
  rw [now]
  split
  next zero =>
    obtain ⟨held, behind⟩ := (s.advance c.toNat i).ctx_holdIssue c.toNat (s.now + i.imm) i.pred
    exact ⟨behind.trans pcx, fun _ => held, fun one => absurd (zero.symm.trans one) (by decide), fun one => absurd (zero.symm.trans one) (by decide)⟩
  next some_ =>
    split
    next past =>
      obtain ⟨behind, free, preds⟩ := State.ctx_waittPast (s := s.advance c.toNat i) o.idx i.pred (by rw [State.ctx_advance]; exact going) (by rw [State.ctx_advance]; exact unfenced)
      exact ⟨behind.trans pcx, fun zero => absurd zero some_, fun _ early => by omega, fun _ _ => ⟨free.trans hold, preds⟩⟩
    next early =>
      obtain ⟨held, behind⟩ := (s.advance c.toNat i).ctx_holdIssue c.toNat i.imm i.pred
      exact ⟨behind.trans pcx, fun zero => absurd zero some_, fun _ _ => held, fun _ late => absurd late early⟩

theorem exec_fence (kind : i.opc = 0x2C) : ∃ t, exec (.fence c) s = .next t ∧ (t.ctx c.toNat).pcx = (s.ctx c.toNat).pcx + 1 ∧
    ((t.ctx c.toNat).fence = none ↔ (s.ctx c.toNat).inFlight = [] ∧ (s.ctx c.toNat).reqs = [])
    ∧ ((t.ctx c.toNat).fence = none → 0 < i.pred → (t.ctx c.toNat).preds.getLsbD i.pred = true) := by
  obtain ⟨-, here, unheld, unfenced, going⟩ := issues_open issues
  have small : i.pred < 16 := issues_pred issues
  refine ⟨_, congrArg Host.Outcome.next (stage_sequencer issues kind _), ?_⟩
  rw [State.review_field (f := Ctx.fence) (fun _ => rfl), State.review_field (f := Ctx.pcx) (fun _ => rfl), State.review_field (f := Ctx.preds) (fun _ => rfl)]
  have fenced : ((s.advance c.toNat i).updCtx c.toNat (fun x => { x with fence := some (BitVec.ofNat 4 i.pred) })).ctx c.toNat
      = { (s.advance c.toNat i).ctx c.toNat with fence := some (BitVec.ofNat 4 i.pred) } := State.ctx_updCtx ..
  have settled := State.settleIssue_fence (s := (s.advance c.toNat i).updCtx c.toNat (fun x => { x with fence := some (BitVec.ofNat 4 i.pred) })) (c := c.toNat)
    (p := BitVec.ofNat 4 i.pred) (by rw [fenced, State.ctx_advance]; exact here) (by rw [fenced, State.ctx_advance]; exact going) (by rw [fenced])
  have flight : ({ (s.advance c.toNat i).ctx c.toNat with fence := some (BitVec.ofNat 4 i.pred) } : Ctx).inFlight = (s.ctx c.toNat).inFlight := by rw [State.ctx_advance]; rfl
  have reqs : ((s.advance c.toNat i).ctx c.toNat).reqs = (s.ctx c.toNat).reqs := by rw [State.ctx_advance]
  have pcx : ((s.advance c.toNat i).ctx c.toNat).pcx = (s.ctx c.toNat).pcx + 1 := by rw [State.ctx_advance]
  rw [State.seqFence, settled, fenced]
  dsimp only
  rw [flight, reqs]
  split
  next clear =>
    rw [State.ctx_setCtx]
    refine ⟨pcx, ⟨fun _ => clear, fun _ => rfl⟩, fun _ some_ => ?_⟩
    have bit : (BitVec.ofNat 4 i.pred).toNat = i.pred := (BitVec.toNat_ofNat ..).trans (Nat.mod_eq_of_lt small)
    have named : ¬BitVec.ofNat 4 i.pred = 0 := fun zero => (Nat.ne_of_gt some_) (bit.symm.trans (congrArg BitVec.toNat zero))
    dsimp only
    rw [if_neg named, bit, getLsbD_bitOn _ _ small]
    simp
  next busy =>
    rw [fenced]
    exact ⟨pcx, ⟨fun none_ => absurd none_ (by simp), fun clear => absurd clear busy⟩, fun none_ => absurd none_ (by simp)⟩

theorem exec_endProg (kind : i.opc = 0x2E) : ∃ t, exec (.endProg c) s = .next t ∧
    ((s.ctx c.toNat).inFlight ≠ [] → (t.ctx c.toNat).ending = true ∧ (t.ctx c.toNat).state ≠ .empty)
    ∧ ((s.ctx c.toNat).inFlight = [] → (t.ctx c.toNat).state = .empty ∧ (t.ctx c.toNat).status = stOk ∧ (t.ctx c.toNat).index = 0xFFFF) := by
  obtain ⟨runs, here, unheld, unfenced, going⟩ := issues_open issues
  refine ⟨_, congrArg Host.Outcome.next (stage_sequencer issues kind _), ?_⟩
  have ended : ((s.advance c.toNat i).updCtx c.toNat (fun x => { x with ending := true })).ctx c.toNat = { (s.advance c.toNat i).ctx c.toNat with ending := true } := State.ctx_updCtx ..
  have settled := State.settleIssue_end (s := (s.advance c.toNat i).updCtx c.toNat (fun x => { x with ending := true })) (c := c.toNat)
    (by rw [ended, State.ctx_advance]; exact here) (by rw [ended])
  have flight : ({ (s.advance c.toNat i).ctx c.toNat with ending := true } : Ctx).inFlight = (s.ctx c.toNat).inFlight := by rw [State.ctx_advance]; rfl
  have state : ((s.advance c.toNat i).ctx c.toNat).state = (s.ctx c.toNat).state := by rw [State.ctx_advance]
  rw [State.seqEnd, settled, ended, flight]
  refine ⟨fun busy => ?_, fun clear => ?_⟩
  · rw [if_neg busy]
    refine ⟨?_, fun empty => ?_⟩
    · rw [State.review_field (f := Ctx.ending) (fun _ => rfl), ended]
    · have same := congrArg Ctx.state (((s.advance c.toNat i).updCtx c.toNat (fun x => { x with ending := true })).offReview_review c.toNat)
      simp only [Ctx.offReview, ended, state, empty] at same
      rcases runs with h | h <;> simp [h] at same
  · rw [if_pos clear]
    obtain ⟨empty, status, index⟩ := ((s.advance c.toNat i).updCtx c.toNat (fun x => { x with ending := true })).ctx_endCtx c.toNat stOk 0xFFFF
    rw [State.review_state_off (by rw [empty]; decide) (by rw [empty]; decide), State.review_field (f := Ctx.status) (fun _ => rfl), State.review_field (f := Ctx.index) (fun _ => rfl)]
    exact ⟨empty, status, index⟩

end

/-- The boundary lets a held program go on, and sets WAITT's predicate (R357). -/
theorem exec_waittExpiry {s : State} {c : CtxId} {h : Nat} (held : (s.ctx c.toNat).hold = some h) (due : h ≤ s.now) :
    ∃ t, exec (.waittExpiry c) s = .next t ∧ (t.ctx c.toNat).hold = none
      ∧ (0 < (s.ctx c.toNat).holdPred.toNat → (t.ctx c.toNat).preds.getLsbD (s.ctx c.toNat).holdPred.toNat = true) := by
  have ended : exec (.waittExpiry c) s = .next (s.endHold c.toNat) := rfl
  have small : (s.ctx c.toNat).holdPred.toNat < 16 := (s.ctx c.toNat).holdPred.isLt
  refine ⟨_, ended, ?_⟩
  unfold State.endHold
  dsimp only
  rw [held]
  dsimp only
  rw [if_pos due, State.review_field (f := Ctx.hold) (fun _ => rfl), State.review_field (f := Ctx.preds) (fun _ => rfl), State.ctx_setCtx, Ctx.unblock, Ctx.setPred]
  dsimp only
  split
  next zero => exact ⟨rfl, fun some_ => absurd zero (Nat.ne_of_gt some_)⟩
  next => exact ⟨rfl, fun _ => (getLsbD_bitOn _ _ small).trans (by simp)⟩

/-- A reserved opcode faults its context with INVALID_INSTRUCTION (R346). -/
theorem exec_reservedOpcode {s : State} {c : CtxId} {w : BitVec 128} (can : s.canIssue c.toNat = true) (word : s.fetch c.toNat = .insn w) (reserved : (insnOf w).form = none)
    (fresh : s.fetchWritten c.toNat (s.names c.toNat (insnOf w)) = false) :
    ∃ t, exec (.reservedOpcode c) s = .next t ∧ (t.ctx c.toNat).state = .faulted ∧ (t.ctx c.toNat).status = stInvalid
      ∧ (t.ctx c.toNat).index = BitVec.ofNat 16 (s.ctx c.toNat).pcx ∧ t = { s with ctxs := t.ctxs } := by
  have illegal : (insnOf w).legal = false := by
    unfold Insn.legal
    rw [reserved]
  have quiet : s.fetchClash c.toNat (s.names c.toNat (insnOf w)) = (false, s) := if_neg (by simp [fresh])
  have runs : ((s.advance c.toNat (insnOf w)).ctx c.toNat).state = .ready ∨ ((s.advance c.toNat (insnOf w)).ctx c.toNat).state = .blocked := by
    rw [State.ctx_advance]
    exact (State.open_of_canIssue can).1
  obtain ⟨state, status, index, frame⟩ := State.ctx_endInsn_fatal (s := s.advance c.toNat (insnOf w)) (c := c.toNat) (idx := BitVec.ofNat 16 (s.ctx c.toNat).pcx)
    (pred := (insnOf w).predW) (st := stInvalid) (by decide) runs false
  have staged : exec (.reservedOpcode c) s = .next
      (((s.advance c.toNat (insnOf w)).endInsn c.toNat (BitVec.ofNat 16 (s.ctx c.toNat).pcx) (insnOf w).predW stInvalid false).review) := by
    refine congrArg Host.Outcome.next ?_
    unfold State.stage
    rw [if_neg (by simp [can]), word]
    dsimp only
    rw [if_neg (by simp [reserved]), quiet]
    dsimp only
    rw [if_neg (by decide), if_pos illegal]
  refine ⟨_, staged, ?_, ?_, ?_, ?_⟩
  · rw [State.review_state_off (by rw [state]; decide) (by rw [state]; decide), state]
  · rw [State.review_field (f := Ctx.status) (fun _ => rfl), status]
  · rw [State.review_field (f := Ctx.index) (fun _ => rfl), index]
  · exact State.ctxs_frame_trans (State.ctxs_frame_trans rfl frame) (State.review_frame _)

/-- Settles O25. -/
theorem sequencerInstructions : Obligations.SequencerInstructions := by
  intro s c x
  refine ⟨fun i o issues => ⟨exec_loop issues, fun f r => exec_endloop issues, exec_skip issues, exec_waitt issues, exec_fence issues, exec_yield issues, exec_endProg issues⟩,
    fun h => exec_waittExpiry, fun w => exec_reservedOpcode⟩

end Sys2Proof.Machine
end

section
/-! Engine instructions take their engine (R46, R350, R355, R379, R362 to R368). -/

namespace Sys2Proof.Machine

/-- An operation is in flight on engine `e` of context `c`, and the program has gone on behind it; nothing but contexts has changed. -/
def State.Entered (s : State) (c e : Nat) (o : Op) (t : State) : Prop :=
  (t.ctx c).op e = some o ∧ (t.ctx c).pcx = (s.ctx c).pcx + 1 ∧ (t.ctx c).seq = (s.ctx c).seq + 1
    ∧ (∀ k, k ≠ e → (t.ctx c).op k = (s.ctx c).op k) ∧ t = { s with ctxs := t.ctxs }

theorem State.Entered.review {s t : State} {c e : Nat} {o : Op} (entered : s.Entered c e o t) : s.Entered c e o t.review := by
  obtain ⟨own, pcx, seq, others, frame⟩ := entered
  have op (k : Nat) : (t.review.ctx c).op k = (t.ctx c).op k := State.review_field (f := fun x => x.op k) (fun _ => rfl) t c
  exact ⟨(op e).trans own, (State.review_field (f := Ctx.pcx) (fun _ => rfl) t c).trans pcx, (State.review_field (f := Ctx.seq) (fun _ => rfl) t c).trans seq,
    fun k other => (op k).trans (others k other), State.ctxs_frame_trans frame (State.review_frame t)⟩

/-- A wait of an operation holds nothing else of it. -/
theorem State.Entered.waitOpen {s t : State} {c e : Nat} {o : Op} (entered : s.Entered c e o t) : s.Entered c e o (t.waitOpen c) := by
  have waits (k : Cause) : s.Entered c e o (t.updCtx c (fun x => x.block k)) := by
    obtain ⟨own, pcx, seq, others, frame⟩ := entered
    have kept : ((t.updCtx c (fun x => x.block k)).ctx c).ops = (t.ctx c).ops ∧ ((t.updCtx c (fun x => x.block k)).ctx c).pcx = (t.ctx c).pcx
        ∧ ((t.updCtx c (fun x => x.block k)).ctx c).seq = (t.ctx c).seq := by
      rw [State.ctx_updCtx, Ctx.block]
      split <;> exact ⟨rfl, rfl, rfl⟩
    obtain ⟨ops, at_, number⟩ := kept
    have op (j : Nat) : ((t.updCtx c (fun x => x.block k)).ctx c).op j = (t.ctx c).op j := congrArg (fun l => tget l j none) ops
    exact ⟨(op e).trans own, at_.trans pcx, number.trans seq, fun j other => (op j).trans (others j other), State.ctxs_frame_trans frame rfl⟩
  unfold State.waitOpen
  repeat' split
  all_goals first
    | exact entered
    | exact waits _

section
variable {s : State} {c : CtxId} {i : Insn} {o : Op} {p : Plan} (issues : Issues s c.toNat i o) (fits : p.past + p.top ≤ i.c) (budget : i.c ≤ s.budgetMax) (owned : p.owned = true)
include fits budget owned

/-- A planned instruction that fits and whose banks are its context's own takes its engine. -/
theorem State.enter_ok {r : Except Status Plan} (planned : r = .ok p) :
    s.Entered c.toNat (engineOf i.opc) p.op ((s.advance c.toNat i).enter c.toNat i o r) := by
  have taken : (s.advance c.toNat i).enter c.toNat i o r = (s.advance c.toNat i).setOp c.toNat (engineOf i.opc) (some p.op) := by
    have most : (s.advance c.toNat i).budgetMax = s.budgetMax := rfl
    rw [planned]
    unfold State.enter
    dsimp only
    rw [most, if_neg (by omega), if_neg (by simp [owned])]
  have ctx : ((s.advance c.toNat i).setOp c.toNat (engineOf i.opc) (some p.op)).ctx c.toNat
      = { (s.advance c.toNat i).ctx c.toNat with ops := tset ((s.advance c.toNat i).ctx c.toNat).ops (engineOf i.opc) (some p.op) none } := State.ctx_updCtx ..
  rw [taken]
  refine ⟨?_, ?_, ?_, fun e other => ?_, rfl⟩ <;> rw [ctx]
  · simp only [Ctx.op, tget_tset_same]
  · dsimp only
    rw [State.ctx_advance]
  · dsimp only
    rw [State.ctx_advance]
  · simp only [Ctx.op, tget_tset_other _ _ _ other, State.ctx_advance]

include issues

theorem State.issue_enters {row : Insn → Bool} (mine : row i = true) {plan : State → Nat → Insn → Op → Except Status Plan}
    (planned : plan (s.advance c.toNat i) c.toNat i o = .ok p) : ∃ t, s.issue c row plan = .next t ∧ s.Entered c.toNat (engineOf i.opc) p.op t :=
  ⟨_, congrArg Host.Outcome.next (State.stage_issues issues mine _), (State.enter_ok fits budget owned planned).review⟩

/-- RCONTRIB waits where its slice is not open (R261). -/
theorem execRcontrib_enters (kind : i.opc = 0x11) (planned : (s.advance c.toNat i).planRcontrib c.toNat i o = .ok p) :
    ∃ t, exec (.rcontrib c) s = .next t ∧ s.Entered c.toNat (engineOf i.opc) p.op t :=
  ⟨_, congrArg Host.Outcome.next (stage_sequencer issues kind _), (State.enter_ok fits budget owned planned).waitOpen.review⟩

end

/-- Settles O23. -/
theorem engineInstructionIssues : Obligations.EngineInstructionIssues := by
  intro s c i o p issues fits budget owned a entered
  have one {n : Nat} (kind : i.opc = n) : (decide (i.opc = n)) = true := decide_eq_true kind
  have formed {n m k : Nat} (kind : i.opc = n) (form : i.mod % m = k) : decide (i.opc = n ∧ i.mod % m = k) = true := decide_eq_true ⟨kind, form⟩
  have plain {plan : State → Nat → Insn → Op → Except Status Plan} {n : Nat} (kind : i.opc = n) (planned : plan a c.toNat i o = .ok p) :=
    State.issue_enters issues fits budget owned (row := fun i => decide (i.opc = n)) (one kind) planned
  have moded {plan : State → Nat → Insn → Op → Except Status Plan} {n m k : Nat} (kind : i.opc = n) (form : i.mod % m = k) (planned : plan a c.toNat i o = .ok p) :=
    State.issue_enters issues fits budget owned (row := fun i => decide (i.opc = n ∧ i.mod % m = k)) (formed kind form) planned
  exact ⟨plain, moded, moded, plain, plain, plain, plain, plain, plain, plain, plain, execRcontrib_enters issues fits budget owned, plain, plain, plain, plain, plain,
    moded, moded, moded, moded, moded, plain, plain, plain, plain, plain⟩

end Sys2Proof.Machine
end

section
/-! PUBLISH at its root's home (R237, R238). -/

namespace Sys2Proof.Machine

/-! ### The decision is due -/

/-- A root line that no cache holds needs no snoop. -/
theorem State.needs_none {s : State} {g l : Nat} (idle : (s.ent g l).mode = .none) (k : Nat) (r : Eid) (ri : Inc) : s.needs g l k r ri = (0, [], false) := by
  unfold State.needs
  rw [idle]

theorem State.settleOwner_none {s : State} {g l : Nat} (idle : (s.ent g l).mode = .none) (p : Nat) : s.settleOwner g p l = s := by
  unfold State.settleOwner
  rw [idle]

theorem exec_publishDecision {s : State} {g : BlockId} {u : Pub} {p : Nat} (next : (s.blk g.toNat).nextPub g.toNat = some u) (owner : s.partOfBlk g.toNat = some p)
    (lives : (s.part p).killed = false) (open_ : (s.part p).state ≠ .fenced) (there : tget (s.part p).arriving u.root none = none)
    (home : (s.part p).isHome s.now g.toNat u.root = true) (free : (s.ent g.toNat u.root).txn = none) (settled : (s.ent g.toNat u.root).due = none)
    (idle : (s.ent g.toNat u.root).mode = .none) : exec (.publishDecision g) s = .next (s.pubDecide g.toNat p u) := by
  dsimp only [exec, execPublishDecision]
  rw [next, owner]
  dsimp only
  rw [if_neg (by simp [lives]), if_neg open_, if_neg (by simp [there]), if_neg (by simp [home]), free]
  dsimp only
  rw [if_neg (by simp [settled]), State.settleOwner_none idle, State.needs_none idle]
  exact if_pos (.inl rfl)

/-! ### The rows of the decision (R238) -/

section
variable {s t : State} {g p : Nat} {u : Pub} (asked : s.askPages p g (u.root / 2 ^ 21 :: u.pages) = (t, false))
  (whole : ((t.part p).page (u.root / 2 ^ 21)).state ≠ .lostPage)
  (good : (t.blk g).roots.contains u.root = true → ((u.root / 2 ^ 21 :: u.pages).foldl (fun s n => s.xlateUsed p g n) t).lineBad g p u.root = false)
include asked whole good

/-- Content that covers a large page in part is refused. -/
theorem State.pubDecide_split (split : t.contentPart p g u = true) :
    s.pubDecide g p u = ((u.root / 2 ^ 21 :: u.pages).foldl (fun s n => s.xlateUsed p g n) t).pubEnd g u stInvalid := by
  unfold State.pubDecide
  dsimp only
  rw [asked]
  dsimp only
  rw [if_neg (by decide), if_neg (fun bad => bad.elim whole fun h => absurd h.2 (by rw [good h.1]; decide)), if_pos split]

variable (one : t.contentPart p g u = false) (known : (t.blk g).roots.contains u.root = true)
include one known

theorem State.pubDecide_stale (old : u.version.toNat < natAt (t.lineBytes g p u.root) 0 8) :
    s.pubDecide g p u = ((u.root / 2 ^ 21 :: u.pages).foldl (fun s n => s.xlateUsed p g n) t).pubEnd g u stStaleVersion := by
  unfold State.pubDecide
  dsimp only
  rw [asked]
  dsimp only
  rw [if_neg (by decide), if_neg (fun bad => bad.elim whole fun h => absurd h.2 (by rw [good h.1]; decide)), if_neg (by simp [one]), if_pos known, if_pos old]

theorem State.pubDecide_same (now : u.version.toNat = natAt (t.lineBytes g p u.root) 0 8) (base : natAt (t.lineBytes g p u.root) 8 8 = u.base)
    (length : natAt (t.lineBytes g p u.root) 16 8 = u.length) (tag : natAt (t.lineBytes g p u.root) 24 8 = u.ctag.toNat) :
    s.pubDecide g p u = ((u.root / 2 ^ 21 :: u.pages).foldl (fun s n => s.xlateUsed p g n) t).pubEnd g u stOk := by
  unfold State.pubDecide
  dsimp only
  rw [asked]
  dsimp only
  rw [if_neg (by decide), if_neg (fun bad => bad.elim whole fun h => absurd h.2 (by rw [good h.1]; decide)), if_neg (by simp [one]), if_pos known, if_neg (by omega),
    if_pos ⟨now, known, by simp [base, length, tag]⟩]

end

/-! ### An accepted version -/

/-- Sealing pages seals each of them and unseals none. -/
theorem State.sealed_foldl (p : Nat) (ks : List (Nat × Bool)) (s : State) (k : Nat) (named : k ∈ ks.map (·.1) ∨ (tget (s.part p).pages k {}).sealed = true) :
    (tget ((ks.foldl (fun s k => s.updPage p k.1 (fun y => { y with sealed := true, big := y.big || k.2 })) s).part p).pages k {}).sealed = true := by
  induction ks generalizing s with
  | nil => exact named.resolve_left (by simp)
  | cons a ks ih =>
    refine ih _ ?_
    by_cases own : k = a.1
    · rw [own, State.page_updPage]
      exact .inr rfl
    · rw [State.page_updPage_other _ _ _ own]
      simpa [own] using named

/-- An accepted version seals its content pages. -/
theorem State.sealed_pubAccept {s t : State} {g p : Nat} {u : Pub} {ks : List (Nat × Bool)} (taken : s.pubAccept g p u ks = some t)
    (quiet : (s.needs g u.root tST 0xFFF 0).2.1 = []) (room : s.wayLess g u.root = false) {k : Nat} (named : k ∈ ks.map (·.1)) :
    (tget (t.part p).pages k {}).sealed = true := by
  unfold State.pubAccept at taken
  dsimp only at taken
  rw [if_neg (by simp [room]), if_pos quiet] at taken
  cases taken
  rw [State.part_updBlk, foldl_same (g := fun s : State => s.part p) (fun s h => State.part_updBlk ..)]
  exact State.sealed_foldl _ _ _ _ (.inl named)

/-! ### Its completion -/

theorem exec_publishComplete {s : State} {g : BlockId} {u : Pub} {p : Nat} (owner : s.partOfBlk g.toNat = some p) (front : (s.blk g.toNat).pubs.head? = some u)
    (decided : u.decided = true) (walked : u.walking = []) (free : (s.ent g.toNat u.root).txn = none) :
    exec (.publishComplete g) s = .next ((((s.lineWrite g.toNat p u.root 0 (s.rootBytes u) false).updBlk g.toNat (fun b => { b with roots := setIns b.roots u.root })).updEnt
      g.toNat u.root (fun e => { e with mode := .none })).pubEnd g.toNat u stOk) := by
  dsimp only [exec, execPublishComplete]
  obtain ⟨r, queue⟩ : ∃ r, (s.blk g.toNat).pubs = u :: r := List.head?_eq_some_iff.1 front
  rw [queue, List.find?_cons_of_pos (by simp [decided, walked, free]), owner]

/-- Settles O29. -/
theorem publishIsDecided : Obligations.PublishIsDecided := by
  refine ⟨fun s g u p next owner lives open_ there home free settled idle => ⟨s, (State.settleOwner_none idle p).symm,
    exec_publishDecision next owner lives open_ there home free settled idle⟩, ?_, fun s g p u ks t taken quiet room k named => State.sealed_pubAccept taken quiet room named,
    fun s g u p owner front decided walked free => ⟨_, _, exec_publishComplete owner front decided walked free, rfl, rfl⟩⟩
  intro s g p u t v old known ready whole good
  have asked : s.askPages p g (u.root / 2 ^ 21 :: u.pages) = (t, false) := Prod.ext rfl ready
  exact ⟨State.pubDecide_split asked whole good, fun one listed => ⟨State.pubDecide_stale asked whole good one listed, State.pubDecide_same asked whole good one listed⟩⟩

end Sys2Proof.Machine
end

section
/-! SUBMIT and the images of programs (R370 to R372, R380). -/

namespace Sys2Proof.Machine

/-! ### A context that nothing blocks -/

theorem State.ctx_reviewCtx_ready {s : State} {k : Nat} (ready : (s.ctx k).state = .ready) (free : (s.ctx k).causes = []) (c : Nat) : (s.reviewCtx c).ctx k = s.ctx k := by
  by_cases own : k = c
  · rw [← own]
    unfold State.reviewCtx
    dsimp only
    split
    next => rfl
    next =>
      simp [free]
  · unfold State.reviewCtx
    dsimp only
    repeat' split
    all_goals first
      | rfl
      | exact State.ctx_setCtx_other _ _ own

theorem State.state_reviewCand (was s : State) (c e k : Nat) : ((was.reviewCand s c e).ctx k).state = (s.ctx k).state := by
  have same (y : Ctx) (kept : y.state = (s.ctx c).state) : ((s.setCtx c y).ctx k).state = (s.ctx k).state := by
    by_cases own : k = c
    · rw [own, State.ctx_setCtx, kept]
    · rw [State.ctx_setCtx_other _ _ own]
  unfold State.reviewCand
  dsimp only
  split
  next => rfl
  next =>
    split
    · exact same _ rfl
    · exact same _ rfl

/-- A review leaves a READY context that nothing blocks READY. -/
theorem State.review_ready {s : State} {k : Nat} (ready : (s.ctx k).state = .ready) (free : (s.ctx k).causes = []) : (s.review.ctx k).state = .ready := by
  have first (l : List Nat) (t : State) (same : t.ctx k = s.ctx k) : (l.foldl State.reviewCtx t).ctx k = s.ctx k := by
    induction l generalizing t with
    | nil => exact same
    | cons c l ih => exact ih _ ((State.ctx_reviewCtx_ready (by rw [same]; exact ready) (by rw [same]; exact free) c).trans same)
  unfold State.review
  dsimp only
  rw [foldl_same (g := fun u : State => (u.ctx k).state) (fun u c => foldl_same (g := fun u : State => (u.ctx k).state) (fun v e => State.state_reviewCand _ v c e k) _ u),
    first _ s rfl]
  exact ready

/-! ### The submission -/

/-- A context that an accepted submission names: its source and where its image lies. -/
def Ctx.submitted (k : Pkt) (l : Nat) (segs : List Segment) (x : Ctx) : Ctx :=
  { x with segs := segs, srcEid := k.seid, srcInc := k.sinc, srcTag := k.tag, image := some { addr := sbits ((k.data[0]?).getD 0) 16 48, lane := l } }


section
variable {s t : State} {q : QId} {h : QPkt} (head : (s.dropSinks q.toNat (s.queue q.toNat nSquare).pkts.length).takeHead q.toNat nSquare = some (h, t)) (kind : h.msg.pkt.mtype = 2)
include head kind

theorem exec_submit_taken {l : Nat} (sound : t.submitCheck h.msg = .ok l) :
    exec (.submit q) s = .next ((t.updCtx (sbits ((h.msg.pkt.data[0]?).getD 0) 0 10) (Ctx.submitted h.msg.pkt l (t.port l).segs)).imageRead (sbits ((h.msg.pkt.data[0]?).getD 0) 0 10)) := by
  dsimp only [exec, execSubmit]
  rw [head]
  dsimp only
  rw [if_neg (Classical.not_not.2 kind), sound]
  rfl

theorem exec_submit_refused {st : Status} (bad : t.submitCheck h.msg = .error st) :
    exec (.submit q) s = .next (t.sendSq { pkt := t.ctlDone h.msg.pkt 3 (packSlot [(16, st.toNat), (16, 0xFFFF), (10, sbits ((h.msg.pkt.data[0]?).getD 0) 0 10), (22, 0), (64, t.now)]) }) := by
  dsimp only [exec, execSubmit]
  rw [head]
  dsimp only
  rw [if_neg (Classical.not_not.2 kind), bad]

end

/-! ### The image -/

/-- A program that starts is READY at its first instruction. -/
theorem State.ctx_startProg (s : State) (c : Nat) (v : List Byte) :
    ((s.startProg c v).ctx c).state = .ready ∧ ((s.startProg c v).ctx c).pcx = 0 ∧ ((s.startProg c v).ctx c).proff = BitVec.ofNat 32 (imProff v)
      ∧ ((s.startProg c v).ctx c).ninstr = BitVec.ofNat 16 (imN v) ∧ ((s.startProg c v).ctx c).image = none := by
  have off (u : State) : u.leaveP1.ctx c = u.ctx c := by
    unfold State.leaveP1
    split <;> rfl
  unfold State.startProg
  dsimp only
  refine ⟨State.review_ready ?_ ?_, ?_, ?_, ?_, ?_⟩
  · rw [off, State.ctx_setCtx]
  · rw [off, State.ctx_setCtx]
  · rw [State.review_field (f := Ctx.pcx) (fun _ => rfl), off, State.ctx_setCtx]
  · rw [State.review_field (f := Ctx.proff) (fun _ => rfl), off, State.ctx_setCtx]
  · rw [State.review_field (f := Ctx.ninstr) (fun _ => rfl), off, State.ctx_setCtx]
  · rw [State.review_field (f := Ctx.image) (fun _ => rfl), off, State.ctx_setCtx]

/-- A refused image leaves the slot as it was. -/
theorem State.ctx_submitRefuse (s : State) (c : Nat) (st : Status) : ((s.submitRefuse c st).ctx c).state = (s.ctx c).state ∧ ((s.submitRefuse c st).ctx c).image = none := by
  have same : (s.subdone c st 0xFFFF).ctx c = s.ctx c := by
    have ctxs : (s.subdone c st 0xFFFF).ctxs = s.ctxs := (congrArg (·.1.ctxs) (State.sendSq_offTraffic s _) :)
    unfold State.ctx
    rw [ctxs]
  unfold State.submitRefuse
  rw [State.ctx_updCtx, same]
  exact ⟨rfl, rfl⟩

theorem exec_programImageLoaded {s : State} {c : CtxId} {m : Image} (image : (s.ctx c.toNat).image = some m) (whole : m.pieces.any (fun p => !m.has p.1) = false)
    (quiet : (s.ctx c.toNat).reqs = []) (clean : m.pieces.all (fun p => tget m.bst p.1 stOk = stOk) = true) :
    let v := m.pieces.flatMap (fun p => bytesAt (tget m.got p.1 []) 0 p.2)
    exec (.programImageLoaded c) s = .next (if s.imageCheck c.toNat v = stOk then s.startProg c.toNat v else s.submitRefuse c.toNat (s.imageCheck c.toNat v)) := by
  intro v
  have good : m.pieces.findSome? (fun p => if tget m.bst p.1 stOk = stOk then none else some (tget m.bst p.1 stOk)) = none := by
    rw [List.findSome?_eq_none_iff]
    intro p mem
    exact if_pos (of_decide_eq_true (List.all_eq_true.1 clean p mem))
  dsimp only [exec, execProgramImageLoaded]
  rw [image]
  dsimp only
  rw [if_neg (by simp [whole]), if_neg (Classical.not_not.2 quiet), good]

/-- Settles O26. -/
theorem programsAreSubmitted : Obligations.ProgramsAreSubmitted := by
  refine ⟨fun s q h t l head kind sound => ?_, fun s q h t st head kind bad => exec_submit_refused head kind bad, fun s c m image whole quiet clean => ?_⟩
  · intro w c
    refine ⟨_, exec_submit_taken head kind sound, ?_⟩
    rw [State.ctx_updCtx]
    exact ⟨rfl, rfl, rfl, rfl, rfl, fun k other => State.ctx_updCtx_other _ _ other⟩
  · intro v st
    refine ⟨_, exec_programImageLoaded image whole quiet clean, fun fine => ?_, fun bad => ?_⟩
    · obtain ⟨state, pcx, proff, ninstr, image⟩ := s.ctx_startProg c.toNat v
      rw [if_pos fine]
      exact ⟨state, pcx, (congrArg BitVec.toNat proff).trans (BitVec.toNat_ofNat ..), (congrArg BitVec.toNat ninstr).trans (BitVec.toNat_ofNat ..), image⟩
    · rw [if_neg bad]
      exact s.ctx_submitRefuse c.toNat st

end Sys2Proof.Machine
end

section
/-! Steps that leave pool memory and the fuses alone: traffic, homes and translation. -/

namespace Sys2Proof.Machine

/-- Pool memory and the fuses are the same in both states. -/
@[simp] abbrev State.Anchored (s t : State) : Prop := t.mem = s.mem ∧ t.fuse = s.fuse

theorem State.Anchored.trans {s t u : State} (first : s.Anchored t) (second : t.Anchored u) : s.Anchored u := ⟨second.1.trans first.1, second.2.trans first.2⟩

@[simp] theorem State.Anchored.foldl {α : Type} {f : State → α → State} (one : ∀ (s : State) x, s.Anchored (f s x)) (l : List α) (s : State) : s.Anchored (l.foldl f s) :=
  ⟨foldl_same (fun s x => (one s x).1) l s, foldl_same (fun s x => (one s x).2) l s⟩

theorem State.Anchored.foldl_fst {α β : Type} {f : State × β → α → State × β} (one : ∀ (a : State × β) x, a.1.Anchored (f a x).1) (l : List α) (a : State × β) :
    a.1.Anchored (l.foldl f a).1 := by
  induction l generalizing a with
  | nil => exact ⟨rfl, rfl⟩
  | cons x l ih => exact (one a x).trans (ih _)

/-- The state that a match takes out of a result. -/
theorem State.Anchored.of_fst {β : Type} {s t : State} {b : β} {r : State × β} (all : s.Anchored r.1) (got : r = (t, b)) : s.Anchored t := by
  rw [got] at all
  exact all

theorem State.Anchored.of_still {s t : State} (h : t.still = s.still) : s.Anchored t := ⟨(congrArg State.mem h :), (congrArg State.fuse h :)⟩

theorem State.Anchored.of_offCtxs {s t : State} (h : t.offCtxs = s.offCtxs) : s.Anchored t := ⟨(congrArg (·.1.mem) h :), (congrArg (·.1.fuse) h :)⟩

@[simp] theorem State.mem_ite (c : Prop) [Decidable c] (s t : State) : (if c then s else t).mem = if c then s.mem else t.mem := apply_ite State.mem ..
@[simp] theorem State.fuse_ite (c : Prop) [Decidable c] (s t : State) : (if c then s else t).fuse = if c then s.fuse else t.fuse := apply_ite State.fuse ..

@[simp] theorem State.send_anchored (s : State) (o : Output) : s.Anchored (s.send o) := by simp [State.send]
@[simp] theorem State.free_anchored (s : State) : s.Anchored (s.free).2 := ⟨rfl, rfl⟩
@[simp] theorem State.nsFree_anchored (s : State) : s.Anchored (s.nsFree).2 := ⟨rfl, rfl⟩
@[simp] theorem State.notePool_anchored (s : State) (q : Nat) : s.Anchored (s.notePool q) := ⟨rfl, rfl⟩
@[simp] theorem State.noteDepth_anchored (s : State) (q n : Nat) : s.Anchored (s.noteDepth q n) := by simp [State.noteDepth]
@[simp] theorem State.takeTurn_anchored (s : State) (q n : Nat) (p : Pkt) : s.Anchored (s.takeTurn q n p) := by simp [State.takeTurn]

@[simp] theorem State.enqueue_anchored (s : State) (q n : Nat) (m : Msg) (cells fromMin : Nat) (mc : Option Nat) :
    s.Anchored (s.enqueue q n m cells fromMin mc) := by simp [State.enqueue]

@[simp] theorem State.countRefused_anchored (s : State) (q n : Nat) : s.Anchored (s.countRefused q n) := ⟨rfl, rfl⟩
theorem State.admitUni_anchored {s : State} {q n : Nat} {m : Msg} {t : State} (h : s.admitUni q n m = some t) : s.Anchored t := .of_still (State.admitUni_still h)
theorem State.admitMc_anchored {s : State} {q : Nat} {ts : List (Nat × Msg)} {c : Nat} {lossless : Bool} {t : State} (h : s.admitMc q ts c lossless = some t) : s.Anchored t := .of_still (State.admitMc_still h)

@[simp] theorem State.releaseMc_anchored (s : State) (q : Nat) (p : QPkt) : s.Anchored (s.releaseMc q p) := by
  unfold State.releaseMc
  split <;> simp

@[simp] theorem State.noteLeave_anchored (s : State) (q n : Nat) (p : QPkt) (ns : Nat) : s.Anchored (s.noteLeave q n p ns) := ⟨rfl, rfl⟩
theorem State.takeHead_anchored {s : State} {q n : Nat} {t : QPkt × State} (h : s.takeHead q n = some t) : s.Anchored t.2 := .of_still (State.takeHead_still h)

@[simp] theorem State.releaseSent_anchored (s : State) (q n : Nat) : s.Anchored (s.releaseSent q n) := by
  unfold State.releaseSent
  split <;> simp

@[simp] theorem State.dropQueues_anchored (s : State) (l : Nat) : s.Anchored (s.dropQueues l) := by simp [State.dropQueues]
@[simp] theorem State.sendEvent_anchored (s : State) (e : Event) (mgr : Nat) : s.Anchored (s.sendEvent e mgr) := .of_still (State.sendEvent_still ..)
@[simp] theorem State.raise_anchored (s : State) (e : Event) : s.Anchored (s.raise e) := by simp [State.raise]
@[simp] theorem State.journal_anchored (s : State) (e : JEntry) : s.Anchored (s.journal e) := ⟨rfl, rfl⟩
@[simp] theorem State.journalZero_anchored (s : State) : s.Anchored (s.journalZero) := ⟨rfl, rfl⟩

@[simp] theorem State.journalOne_anchored (s : State) (src : BitVec 8) (target : BitVec 32) (old new : BitVec 64) :
    s.Anchored (s.journalOne src target old new) := ⟨rfl, rfl⟩

theorem State.tagTake_anchored {s : State} {g : Nat} {deid : Eid} {h : Holder} {atom : Bool} {t : Tag × State} (got : s.tagTake g deid h atom = some t) : s.Anchored t.2 := .of_still (State.tagTake_still got)
@[simp] theorem State.tagFreed_anchored (s : State) (q : Nat) (deid : Eid) : s.Anchored (s.tagFreed q deid) := ⟨rfl, rfl⟩
@[simp] theorem State.tagDrop_anchored (s : State) (tag : Tag) (deid : Eid) : s.Anchored (s.tagDrop tag deid) := ⟨rfl, rfl⟩
@[simp] theorem State.tagSet_anchored (s : State) (tag : Tag) (deid : Eid) (h : Holder) : s.Anchored (s.tagSet tag deid h) := ⟨rfl, rfl⟩
@[simp] theorem State.creditBack_anchored (s : State) (m : Msg) : s.Anchored (s.creditBack m) := by simp [State.creditBack]
@[simp] theorem State.fenceDrop_anchored (s : State) (g : Nat) : s.Anchored (s.fenceDrop g) := by simp [State.fenceDrop]

@[simp] theorem State.stamp_anchored (s : State) (r : Route) (m : Msg) : s.Anchored (s.stamp r m).2 := by
  unfold State.stamp
  dsimp only
  (repeat' split) <;> simp [*]

theorem State.admitAt_anchored {s : State} {q : Nat} {r : Route} {ns : List Nat} {m : Msg} {t : State} (h : s.admitAt q r ns m = some t) : s.Anchored t := .of_still (State.admitAt_still h)
@[simp] theorem State.lose_anchored (s : State) (q : Nat) (m : Msg) (r : Route) : s.Anchored (s.lose q m r) := by simp [State.lose]
theorem State.cross_anchored {s : State} {q x : Nat} {even : Bool} {r : Route} {ns : List Nat} {m w : Msg} {t : State} (h : s.cross q x even r ns m w = some t) : s.Anchored t := .of_still (State.cross_still h)
theorem State.offer_anchored {s : State} {q : Nat} {even : Bool} {m : Msg} {r : Route} {t : State} (h : s.offer q even m r = some t) : s.Anchored t := .of_still (State.offer_still h)
@[simp] theorem State.offerSome_anchored (s : State) (q : Nat) (even : Bool) (m : Msg) (r : Route) : s.Anchored (s.offerSome q even m r).1 := .of_still (State.offerSome_still ..)
@[simp] theorem State.beginWait_anchored (s : State) (m : Msg) (r : Route) : s.Anchored (s.beginWait m r) := by simp [State.beginWait]
@[simp] theorem State.sendBlk_anchored (s : State) (g : Nat) (m : Msg) : s.Anchored (s.sendBlk g m) := .of_still (State.sendBlk_still ..)
@[simp] theorem State.sendSq_anchored (s : State) (m : Msg) : s.Anchored (s.sendSq m) := .of_still (State.sendSq_still ..)
@[simp] theorem State.updPage_anchored (s : State) (p k : Nat) (f : Page → Page) : s.Anchored (s.updPage p k f) := ⟨rfl, rfl⟩
@[simp] theorem State.pickFrame_anchored (s : State) (p tier t n : Nat) (also : List Nat) : s.Anchored (s.pickFrame p tier t n also).2 := ⟨rfl, rfl⟩

@[simp] theorem State.takeFrames_anchored (s : State) (p : Nat) (tier : Nat) (n : Nat) (skip : Option Nat) : s.Anchored (s.takeFrames p tier n skip).1 := by
  have picks (total : Nat) : s.Anchored ((List.range n).foldl (fun (a : State × List Nat) _ => ((a.1.pickFrame p tier 0 total a.2).2, a.2 ++ [(a.1.pickFrame p tier 0 total a.2).1])) (s, [])).1 :=
    State.Anchored.foldl_fst (f := fun (a : State × List Nat) _ => ((a.1.pickFrame p tier 0 total a.2).2, a.2 ++ [(a.1.pickFrame p tier 0 total a.2).1]))
      (fun a _ => a.1.pickFrame_anchored p tier 0 total a.2) _ (s, [])
  unfold State.takeFrames
  split
  next => simpa using picks _
  next => simpa using picks _
  next =>
    refine State.Anchored.foldl_fst (fun a _ => ?_) _ (s, [], [])
    split <;> simp

@[simp] theorem State.dirtyFrames_anchored (s : State) (p tier n : Nat) (trays frms : List Nat) : s.Anchored (s.dirtyFrames p tier n trays frms) := by
  unfold State.dirtyFrames
  split <;> simp

@[simp] theorem State.placeIn_anchored (s : State) (p k t : Nat) (big : Bool) : s.Anchored (s.placeIn p k t big) := by simp [State.placeIn]

theorem State.placePage_anchored {s : State} {p k tier : Nat} {big : Bool} {t : State} (h : s.placePage p k tier big = some t) : s.Anchored t := by
  obtain ⟨n, -, rfl⟩ := Option.map_eq_some_iff.1 h
  exact State.placeIn_anchored ..

@[simp] theorem State.noCapacity_anchored (s : State) (p page : Nat) : s.Anchored (s.noCapacity p page) := by simp [State.noCapacity]
@[simp] theorem State.touchPage_anchored (s : State) (p page n : Nat) : s.Anchored (s.touchPage p page n) := by simp [State.touchPage]
@[simp] theorem State.pteInvalid_anchored (s : State) (job : JobId) (n : Nat) : s.Anchored (s.pteInvalid job n) := by simp [State.pteInvalid]
@[simp] theorem State.xlateUsed_anchored (s : State) (p u n : Nat) : s.Anchored (s.xlateUsed p u n) := ⟨rfl, rfl⟩
@[simp] theorem State.tookDev_anchored (s : State) (p n : Nat) (dev : Eid) : s.Anchored (s.tookDev p n dev) := by simp [State.tookDev]
@[simp] theorem State.pteTake_anchored (s : State) (p k : Nat) (e : Pte) (st : Status) : s.Anchored (s.pteTake p k e st) := by simp [State.pteTake]
@[simp] theorem State.setEnt_anchored (s : State) (g l : Nat) (e : DirEnt) : s.Anchored (s.setEnt g l e) := ⟨rfl, rfl⟩
@[simp] theorem State.updEnt_anchored (s : State) (g l : Nat) (f : DirEnt → DirEnt) : s.Anchored (s.updEnt g l f) := ⟨rfl, rfl⟩
@[simp] theorem State.setMode_anchored (s : State) (g l : Nat) (m : DirMode) : s.Anchored (s.setMode g l m) := by simp [State.setMode]
@[simp] theorem State.setHot_anchored (s : State) (g k : Nat) (h : Option Hot) : s.Anchored (s.setHot g k h) := ⟨rfl, rfl⟩

@[simp] theorem State.lineUnlost_anchored (s : State) (g p l : Nat) : s.Anchored (s.lineUnlost g p l) := by
  unfold State.lineUnlost
  split <;> simp

@[simp] theorem State.markLost_anchored (s : State) (g p l : Nat) (e : Eid) (i : Inc) : s.Anchored (s.markLost g p l e i) := ⟨rfl, rfl⟩

@[simp] theorem State.settleOwner_anchored (s : State) (g p l : Nat) : s.Anchored (s.settleOwner g p l) := by
  unfold State.settleOwner
  split <;> simp

@[simp] theorem State.reply_anchored (s : State) (g : Nat) (m : Msg) (mt : Nat) (st : Status) (x data : List Slot) :
    s.Anchored (s.reply g m mt st x data) := by simp [State.reply]

@[simp] theorem State.grant_anchored (s : State) (g p : Nat) (m : Msg) (mt l : Nat) : s.Anchored (s.grant g p m mt l) := by simp [State.grant]

@[simp] theorem State.answer_anchored (s : State) (g : Nat) (m : Msg) (order : List Nat) (got : Tbl (List Byte)) (pois : List Nat) (fails : Tbl Status) (bad : Option Status) :
    s.Anchored (s.answer g m order got pois fails bad) := by
  unfold State.answer
  (repeat' split) <;> simp [*]

@[simp] theorem State.joinPart_anchored (s : State) (g j first : Nat) (st : Status) (got : Tbl (List Byte)) (pois : List Nat) (fails : Tbl Status) :
    s.Anchored (s.joinPart g j first st got pois fails) := by
  unfold State.joinPart
  split <;> simp

@[simp] theorem State.refuse_anchored (s : State) (g : Nat) (m : Msg) (st : Status) : s.Anchored (s.refuse g m st) := by
  unfold State.refuse
  split <;> simp

@[simp] theorem State.finish_anchored (s : State) (g : Nat) (w : Work) : s.Anchored (s.finish g w) := by
  unfold State.finish
  (repeat' split) <;> simp [*]

@[simp] theorem State.atDone_anchored (s : State) (g : Nat) (m : Msg) (v : BitVec 128) : s.Anchored (s.atDone g m v) := by simp [State.atDone]

theorem State.atEarly_anchored {s : State} {g : Nat} {m : Msg} {tn : Nat} {t : State} (h : s.atEarly g m tn = some t) : s.Anchored t := by
  unfold State.atEarly at h
  split at h <;> cases h <;> simp

theorem State.snoop_anchored {s : State} {g p l mt e : Nat} {own : Bool} {fwd : Option Pkt} {t : Snoop × State} (h : s.snoop g p l mt e own fwd = some t) : s.Anchored t.2 := by
  unfold State.snoop at h
  dsimp only at h
  split at h
  next => cases h
  next got =>
    cases h
    simpa using State.tagTake_anchored got

theorem State.snoops_anchored {s : State} {g p l mt : Nat} {own : Bool} {fwd : Option Pkt} {es : List Nat} {t : List Snoop × State} (h : s.snoops g p l mt own fwd es = some t) :
    s.Anchored t.2 := by
  induction es generalizing s t with
  | nil =>
    rw [State.snoops_nil] at h
    cases h
    exact ⟨rfl, rfl⟩
  | cons e es ih =>
    rw [State.snoops_cons] at h
    split at h
    next => cases h
    next one =>
      split at h
      next => cases h
      next rest =>
        cases h
        have last := ih rest
        exact (State.snoop_anchored one).trans last

theorem State.recallLine_anchored {s : State} {g p l : Nat} {k : TxnKind} {t : State} (h : s.recallLine g p l k = some t) : s.Anchored t := by
  unfold State.recallLine at h
  dsimp only at h
  split at h
  next => cases h; simp
  next =>
    split at h
    next => cases h; simp
    next =>
      split at h
      next => cases h
      next =>
        split at h
        next => cases h
        next got =>
          cases h
          simpa using State.snoops_anchored got

theorem State.evictWay_anchored {s : State} {g p l : Nat} {t : State} (h : s.evictWay g p l = some t) : s.Anchored t := by
  unfold State.evictWay at h
  dsimp only at h
  split at h
  next => cases h
  next =>
    split at h
    next => cases h
    next =>
      obtain ⟨u, recalled, rfl⟩ := Option.map_eq_some_iff.1 h
      simpa using State.recallLine_anchored recalled

@[simp] theorem State.enterHot_anchored (s : State) (g p l k : Nat) : s.Anchored (s.enterHot g p l k) := by simp [State.enterHot]

@[simp] theorem State.startHot_anchored (s : State) (g : Nat) (p : Nat) (l : Nat) : s.Anchored (s.startHot g p l) := by
  unfold State.startHot
  dsimp only
  split
  next =>
    split
    next =>
      cases evicted : (s.settleOwner g p l).evictWay g p l with
      | none => simp
      | some u => simpa using State.evictWay_anchored evicted
    next =>
      split
      next => simp
      next =>
        split
        next => simp
        next =>
          split
          next => simp
          next got => simpa using State.snoops_anchored got
  next => simp

@[simp] theorem State.countAside_anchored (s : State) (g p l : Nat) : s.Anchored (s.countAside g p l) := by
  unfold State.countAside
  dsimp only
  (repeat' split) <;> simp [*]

@[simp] theorem State.countServed_anchored (s : State) (g l : Nat) : s.Anchored (s.countServed g l) := by
  unfold State.countServed
  split <;> simp

@[simp] theorem State.countTaken_anchored (s : State) (g l : Nat) : s.Anchored (s.countTaken g l) := by
  unfold State.countTaken
  split <;> simp

@[simp] theorem State.setWork_anchored (s : State) (g i : Nat) (w : Option Work) : s.Anchored (s.setWork g i w) := ⟨rfl, rfl⟩

theorem State.homeGate_anchored {s : State} {g p : Nat} {m : Msg} {t : State} (h : s.homeGate g p m = some t) : s.Anchored t := by
  unfold State.homeGate at h
  dsimp only at h
  repeat' split at h
  all_goals cases h
  all_goals simp

theorem State.takeTc3_anchored {s : State} {g mt : Nat} {t : Msg × State} (h : s.takeTc3 g mt = some t) : s.Anchored t.2 := by
  unfold State.takeTc3 at h
  split at h
  next got =>
    split at h
    next =>
      cases h
      exact State.takeHead_anchored got
    next => cases h
  next => cases h

@[simp] theorem State.lateRsp_anchored (s : State) (tag : Tag) : s.Anchored (s.lateRsp tag) := ⟨rfl, rfl⟩

@[simp] theorem State.timedOut_anchored (s : State) (g p : Nat) (k : Pkt) (c : Option Nat) : s.Anchored (s.timedOut g p k c) := by
  unfold State.timedOut
  dsimp only
  (repeat' split) <;> simp [*]

@[simp] theorem State.pteSend_anchored (s : State) (p : Nat) (n : Nat) : s.Anchored (s.pteSend p n) := by
  unfold State.pteSend
  dsimp only
  split
  next =>
    split
    next => simp
    next =>
      split
      next sent => simpa using State.offer_anchored sent
      next => simp
  next =>
    split
    next => simp
    next got => simpa using State.tagTake_anchored got

@[simp] theorem State.pteRead_anchored (s : State) (p n : Nat) : s.Anchored (s.pteRead p n) := by
  unfold State.pteRead
  dsimp only
  (repeat' split) <;> simp [*]

@[simp] theorem State.translate_anchored (s : State) (p u n : Nat) : s.Anchored (s.translate p u n).1 := by
  unfold State.translate
  dsimp only
  (repeat' split) <;> simp [*]

@[simp] theorem State.checkAddr_anchored (s : State) (p u : Nat) (segs : Option (List Segment)) (a n : Nat) (rd wr : Bool) :
    s.Anchored (s.checkAddr p u segs a n rd wr).1 := by
  unfold State.checkAddr
  dsimp only
  (repeat' split) <;> simp [*]

@[simp] theorem State.askAddrs_anchored (s : State) (p : Nat) (u : Nat) (segs : Option (List Segment)) (rd : Bool) (wr : Bool) (l : List Nat) : s.Anchored (s.askAddrs p u segs rd wr l).1 := by
  induction l generalizing s with
  | nil => exact ⟨rfl, rfl⟩
  | cons a l ih =>
    unfold State.askAddrs
    dsimp only
    split
    next => exact ih s
    next => exact (State.translate_anchored ..).trans (ih _)

@[simp] theorem State.forward_anchored (s : State) (p : Nat) (u : Nat) (m : Msg) (segs : Option (List Segment)) : s.Anchored (s.forward p u m segs).1 := by
  unfold State.forward
  dsimp only
  split
  next =>
    have asked := State.checkAddr_anchored s p u segs m.pkt.addr m.pkt.reqSize (reqPerm m.pkt.mtype.toNat).1 (reqPerm m.pkt.mtype.toNat).2
    split
    · exact asked
    · exact asked
    · repeat' split
      all_goals exact asked
  next =>
    have asked := State.askAddrs_anchored s p u segs (reqPerm m.pkt.mtype.toNat).1 (reqPerm m.pkt.mtype.toNat).2 m.pkt.listAddrs
    split
    next =>
      repeat' split
      all_goals exact asked
    next =>
      have checked := asked.trans (State.Anchored.foldl_fst (f := fun (a : State × List Chk) x =>
        ((a.1.checkAddr p u segs x 128 (reqPerm m.pkt.mtype.toNat).1 (reqPerm m.pkt.mtype.toNat).2).1,
          a.2 ++ [(a.1.checkAddr p u segs x 128 (reqPerm m.pkt.mtype.toNat).1 (reqPerm m.pkt.mtype.toNat).2).2]))
        (fun a x => State.checkAddr_anchored ..) m.pkt.listAddrs (_, []))
      repeat' split
      all_goals exact checked

@[simp] theorem State.newJoin_anchored (s : State) (m : Msg) (n : Nat) (order : List Nat) (fails : Tbl Status) : s.Anchored (s.newJoin m n order fails).2 := ⟨rfl, rfl⟩

theorem State.toHomes_anchored {s : State} {q : Nat} {even : Bool} {m : Msg} {order : List Nat} {fails : Tbl Status} {t : State} (h : s.toHomes q even m order fails = some t) :
    s.Anchored t := by
  unfold State.toHomes at h
  dsimp only at h
  split at h
  next => exact State.offer_anchored h
  next => simpa using State.offer_anchored h

theorem State.toProxy_anchored {s : State} {q : Nat} {even : Bool} {m : Msg} {order : List Nat} {fails : Tbl Status} {t : State} (h : s.toProxy q even m order fails = some t) :
    s.Anchored t := by
  unfold State.toProxy at h
  dsimp only at h
  split at h
  next => cases h
  next got => exact (State.newJoin_anchored ..).trans ((State.tagTake_anchored got).trans (State.offer_anchored h))

end Sys2Proof.Machine
end

section
/-! Links, collectives and contexts leave pool memory and the fuses alone. -/

namespace Sys2Proof.Machine

@[simp] theorem State.dropLanded_anchored (s : State) (m : Msg) (f : Port → Port) : s.Anchored (s.dropLanded m f) := by simp [State.dropLanded]
@[simp] theorem State.staleDrop_anchored (s : State) (l : Nat) (seid : Eid) : s.Anchored (s.staleDrop l seid) := by simp [State.staleDrop]

@[simp] theorem State.police_anchored (s : State) (l : Nat) (k : Pkt) : s.Anchored (s.police l k).2 := by
  unfold State.police
  dsimp only
  (repeat' split) <;> simp [*]

@[simp] theorem State.verdict_anchored (s : State) (l : Nat) (k : Pkt) : s.Anchored (s.verdict l k).2 := by
  unfold State.verdict
  dsimp only
  (repeat' split) <;> simp [*]

@[simp] theorem State.setRing_anchored (s : State) (l k : Nat) (r : List Msg) : s.Anchored (s.setRing l k r) := ⟨rfl, rfl⟩
@[simp] theorem State.putRing_anchored (s : State) (l k i : Nat) (m : Option Msg) : s.Anchored (s.putRing l k i m) := ⟨rfl, rfl⟩

@[simp] theorem State.checkBinding_anchored (s : State) (l : Nat) (k : Pkt) : s.Anchored (s.checkBinding l k).1 := by
  unfold State.checkBinding
  dsimp only
  (repeat' split) <;> simp [*]

@[simp] theorem State.declareGap_anchored (s : State) (t k : Nat) : s.Anchored (s.declareGap t k) := by
  unfold State.declareGap
  dsimp only
  (repeat' split) <;> simp [*]

@[simp] theorem State.checkGap_anchored (s : State) (t k : Nat) : s.Anchored (s.checkGap t k) := by simp [State.checkGap]
@[simp] theorem State.checkGaps_anchored (s : State) (t : Nat) : s.Anchored (s.checkGaps t) := by simp [State.checkGaps]

@[simp] theorem State.judge_anchored (s : State) (l k i : Nat) (m : Msg) : s.Anchored (s.judge l k i m) := by
  unfold State.judge
  (repeat' split) <;> simp [*]

@[simp] theorem State.released_anchored (s : State) (t k : Nat) : s.Anchored (s.released t k) := by simp [State.released]

/-- The states in which an offer leaves a landed packet. -/
def Offer.state : Offer → State
  | .gone t => t
  | .stay t _ => t

theorem offerOf_anchored {a : Option State} {s : State} {outs : List (Nat × Nat)} (given : ∀ t, a = some t → s.Anchored t) : s.Anchored (offerOf a s outs).state := by
  cases a with
  | none => exact ⟨rfl, rfl⟩
  | some t => exact given t rfl

@[simp] theorem State.offerLanded_anchored (s : State) (l : Nat) (m : Msg) : s.Anchored (s.offerLanded l m).state := offerOf_anchored (fun _ => State.offer_anchored)

@[simp] theorem State.offerCopies_anchored (s : State) (l : Nat) (m : Msg) : s.Anchored (s.offerCopies l m).1.state := by
  have landed := s.offerLanded_anchored l m
  unfold State.offerCopies
  split
  next got => simpa [got, Offer.state] using landed
  next got =>
    rw [got] at landed
    dsimp only
    split
    next => exact landed
    next => exact landed.trans (State.offerSome_anchored ..)

@[simp] theorem State.offerRequest_anchored (s : State) (l : Nat) (m : Msg) : s.Anchored (s.offerRequest l m).1.state := by
  unfold State.offerRequest
  dsimp only
  split
  next =>
    repeat' split
    all_goals exact State.offerLanded_anchored ..
  next =>
    have bound := s.checkBinding_anchored l m.pkt
    split
    next got => exact (bound.of_fst got).trans (State.offerLanded_anchored ..)
    next got =>
      refine (bound.of_fst got).trans ?_
      split
      next got => exact ((State.forward_anchored ..).of_fst got).trans (State.offerLanded_anchored ..)
      next got => exact (State.forward_anchored ..).of_fst got
      next got => exact ((State.forward_anchored ..).of_fst got).trans (offerOf_anchored fun _ => State.toHomes_anchored)
      next got =>
        refine ((State.forward_anchored ..).of_fst got).trans ?_
        split
        · exact State.offerLanded_anchored ..
        · exact offerOf_anchored fun _ => State.toHomes_anchored
      next got =>
        refine ((State.forward_anchored ..).of_fst got).trans ?_
        split
        · exact State.offerLanded_anchored ..
        · split
          · dsimp only
            exact offerOf_anchored fun t given => State.toProxy_anchored given
          · exact State.offerLanded_anchored ..
      next got =>
        refine ((State.forward_anchored ..).of_fst got).trans ?_
        split
        · exact State.offerLanded_anchored ..
        · dsimp only
          exact offerOf_anchored fun t given => State.toProxy_anchored given

@[simp] theorem State.admitHead_anchored (s : State) (l : Nat) (k : Nat) : s.Anchored (s.admitHead l k) := by
  have offered (m : Msg) : s.Anchored (if m.ingress = 1 ∧ m.pkt.tc = 2 then s.offerRequest l m else s.offerCopies l m).1.state := by
    split
    · exact State.offerRequest_anchored ..
    · exact State.offerCopies_anchored ..
  unfold State.admitHead
  split
  next => exact ⟨rfl, rfl⟩
  next m rest _ =>
    split
    next => exact ⟨rfl, rfl⟩
    next =>
      split
      next => simp
      next => simp
      next =>
        have moved := offered m
        dsimp only
        split
        next got =>
          rw [got] at moved
          split <;> simpa [Offer.state] using moved
        next got =>
          rw [got] at moved
          split
          next => split <;> simpa [Offer.state] using moved
          next => simpa [Offer.state] using moved

@[simp] theorem State.ingress_anchored (s : State) (l k : Nat) : s.Anchored (s.ingress l k) := by
  unfold State.ingress
  dsimp only
  (repeat' split) <;> simp [*]

@[simp] theorem State.advanceTransit_anchored (s : State) (q : Nat) (upper : Bool) (k : Nat) : s.Anchored (s.advanceTransit q upper k) := by
  refine State.Anchored.foldl (fun s m => ?_) _ s
  dsimp only
  split
  · split <;> simp
  · exact ⟨rfl, rfl⟩

@[simp] theorem State.admitDirect_anchored (s : State) (q : Nat) (upper : Bool) (k : Nat) : s.Anchored (s.admitDirect q upper k) := by
  unfold State.admitDirect
  dsimp only
  repeat' split
  all_goals first
    | simp; done
    | simpa using State.admitAt_anchored ‹State.admitAt _ _ _ _ _ = some _›

@[simp] theorem State.admitBlk_anchored (s : State) (g : Nat) (k : Nat) : s.Anchored (s.admitBlk g k) := by
  unfold State.admitBlk
  dsimp only
  split
  next => exact ⟨rfl, rfl⟩
  next =>
    split
    next => exact ⟨rfl, rfl⟩
    next =>
      split
      next sent => simpa using State.offer_anchored sent
      next => simp

@[simp] theorem State.admitSq_anchored (s : State) (q : Nat) : s.Anchored (s.admitSq q) := by
  unfold State.admitSq
  split
  next => exact ⟨rfl, rfl⟩
  next =>
    split
    next => exact ⟨rfl, rfl⟩
    next =>
      split
      next sent => simpa using State.offer_anchored sent
      next => exact ⟨rfl, rfl⟩

@[simp] theorem State.retryAt_anchored (s : State) (p : Place) : s.Anchored (s.retryAt p) := by
  unfold State.retryAt
  split <;> simp

@[simp] theorem State.gapTimeout_anchored (s : State) (t k : Nat) : s.Anchored (s.gapTimeout t k) := by
  unfold State.gapTimeout
  split <;> simp

@[simp] theorem State.noteTrunk_anchored (s : State) (l : Nat) : s.Anchored (s.noteTrunk l) := by
  unfold State.noteTrunk
  split <;> simp

@[simp] theorem State.noteGaps_anchored (s : State) (l : Nat) : s.Anchored (s.noteGaps l) := by
  unfold State.noteGaps
  split <;> simp

@[simp] theorem State.toState_anchored (s : State) (l : Nat) (st : PortState) : s.Anchored (s.toState l st) := by simp [State.toState]
@[simp] theorem State.dropPoliced_anchored (s : State) (l : Nat) : s.Anchored (s.dropPoliced l) := by simp [State.dropPoliced]
@[simp] theorem State.flush_anchored (s : State) (l : Nat) : s.Anchored (s.flush l) := by simp [State.flush]
@[simp] theorem State.goDown_anchored (s : State) (l : Nat) : s.Anchored (s.goDown l) := by simp [State.goDown]
@[simp] theorem State.toTrain_anchored (s : State) (l : Nat) (fresh : Bool) : s.Anchored (s.toTrain l fresh) := by simp [State.toTrain]
@[simp] theorem State.toHello_anchored (s : State) (l : Nat) : s.Anchored (s.toHello l) := by simp [State.toHello]
@[simp] theorem State.toRetrain_anchored (s : State) (l : Nat) : s.Anchored (s.toRetrain l) := by simp [State.toRetrain]
@[simp] theorem State.resendFlits_anchored (s : State) (l : Nat) : s.Anchored (s.resendFlits l) := by simp [State.resendFlits]
@[simp] theorem State.replay_anchored (s : State) (l : Nat) : s.Anchored (s.replay l) := by simp [State.replay]

@[simp] theorem State.acked_anchored (s : State) (l : Nat) (a : BitVec 12) : s.Anchored (s.acked l a) := by
  unfold State.acked
  split <;> simp

@[simp] theorem State.linkHeader_anchored (s : State) (l : Nat) (h : BitVec 64) : s.Anchored (s.linkHeader l h) := by simp [State.linkHeader]
@[simp] theorem State.land_anchored (s : State) (l : Nat) (ss : List Slot) : s.Anchored (s.land l ss) := by simp [State.land]
@[simp] theorem State.judgeHeader_anchored (s : State) (l : Nat) (got : List Slot) : s.Anchored (s.judgeHeader l got) := by simp [State.judgeHeader]
@[simp] theorem State.takeSlot_anchored (s : State) (l : Nat) (first : Bool) (x : Slot) : s.Anchored (s.takeSlot l first x) := by simp [State.takeSlot]
@[simp] theorem State.crcCount_anchored (s : State) (l : Nat) : s.Anchored (s.crcCount l) := ⟨rfl, rfl⟩
@[simp] theorem State.crcDrop_anchored (s : State) (l : Nat) : s.Anchored (s.crcDrop l) := ⟨rfl, rfl⟩
@[simp] theorem State.badFlit_anchored (s : State) (l : Nat) (f : Flit) : s.Anchored (s.badFlit l f) := by simp [State.badFlit]
@[simp] theorem State.rxData_anchored (s : State) (l : Nat) (f : Flit) : s.Anchored (s.rxData l f) := by simp [State.rxData]
@[simp] theorem State.rxIdle_anchored (s : State) (l : Nat) (f : Flit) : s.Anchored (s.rxIdle l f) := by simp [State.rxIdle]

theorem State.rxJoin_anchored {act : Nat → JoinMsg → State → State} (acts : ∀ (s : State) l m, s.Anchored (act l m s)) (s : State) (l : Nat) (f : Flit) :
    s.Anchored (s.rxJoin l f act) := by
  unfold State.rxJoin
  split
  next => simp
  next =>
    split
    next => exact ⟨rfl, rfl⟩
    next =>
      split
      next => simp
      next =>
        refine State.Anchored.trans ?_ (acts ..)
        split <;> simp

@[simp] theorem State.nextHeader_anchored (s : State) (l ftype seq map : Nat) (cont : Bool) : s.Anchored (s.nextHeader l ftype seq map cont).2 := by
  unfold State.nextHeader
  dsimp only
  (repeat' split) <;> simp [*]

@[simp] theorem State.sendJoinFlit_anchored (s : State) (l : Nat) (m : JoinMsg) : s.Anchored (s.sendJoinFlit l m) := by
  unfold State.sendJoinFlit
  dsimp only
  (repeat' split) <;> simp [*]

@[simp] theorem State.sendJoin_anchored (s : State) (l jtype : Nat) (eid : Eid) (inc : Inc) (reason : Nat) (nonce : BitVec 32) :
    s.Anchored (s.sendJoin l jtype eid inc reason nonce) := by simp [State.sendJoin]

@[simp] theorem State.grantJoin_anchored (s : State) (l : Nat) (eid : Eid) (inc : Inc) (job : JobId) : s.Anchored (s.grantJoin l eid inc job) := by
  unfold State.grantJoin
  split <;> simp

@[simp] theorem State.toAdmit_anchored (s : State) (l : Nat) : s.Anchored (s.toAdmit l) := by
  unfold State.toAdmit
  split <;> simp

@[simp] theorem State.rxJreq_anchored (s : State) (l : Nat) (m : JoinMsg) : s.Anchored (s.rxJreq l m) := by
  unfold State.rxJreq
  dsimp only
  (repeat' split) <;> simp [*]

@[simp] theorem State.sendSlots_anchored (s : State) (l : Nat) (queue : Nat) (release : Bool) (first : Bool) (n : Nat) (ss : List Slot) :
    s.Anchored (s.sendSlots l queue release first n ss) := by
  induction n generalizing s first ss with
  | zero => exact ⟨rfl, rfl⟩
  | succ n ih =>
    unfold State.sendSlots
    dsimp only
    exact State.Anchored.trans (by simp) (ih ..)

@[simp] theorem State.useCredit_anchored (s : State) (l k n : Nat) : s.Anchored (s.useCredit l k n) := ⟨rfl, rfl⟩

@[simp] theorem State.startPkt_anchored (s : State) (l k ns : Nat) : s.Anchored (s.startPkt l k ns) := by
  unfold State.startPkt
  extract_lets q n
  split
  next => exact ⟨rfl, rfl⟩
  next =>
    refine State.Anchored.trans ?_ (State.sendSlots_anchored ..)
    simp

@[simp] theorem State.drrPick_anchored (s : State) (l : Nat) (tc0 : Bool) (n : Nat) : s.Anchored (s.drrPick l tc0 n).1 := by
  induction n generalizing s with
  | zero => exact ⟨rfl, rfl⟩
  | succ n ih =>
    unfold State.drrPick
    dsimp only
    repeat' split
    all_goals first
      | simp; done
      | exact State.Anchored.trans (by simp) (ih _)

@[simp] theorem State.pickClass_anchored (s : State) (l : Nat) : s.Anchored (s.pickClass l).1 := by
  unfold State.pickClass
  dsimp only
  (repeat' split) <;> simp [*]

@[simp] theorem State.egress_anchored (s : State) (l : Nat) (ns : Nat) : s.Anchored (s.egress l ns) := by
  unfold State.egress
  split
  next => exact ⟨rfl, rfl⟩
  next =>
    extract_lets p due noted u room idle v
    have notes (t : State) : t.Anchored (noted t) := ⟨rfl, rfl⟩
    split
    next => exact (notes s).trans (State.sendJoinFlit_anchored ..)
    next =>
      split
      next => exact ⟨rfl, rfl⟩
      next =>
        have idles (t : State) : t.Anchored (idle t) := by simp [idle]
        have started : s.Anchored u := ⟨rfl, rfl⟩
        clear_value u idle noted
        split
        next => exact started.trans (by simp)
        next =>
          split
          next => exact started.trans ((notes u).trans (by simp))
          next =>
            have due : s.Anchored v := by
              unfold v
              split
              · exact started.trans (notes u)
              · exact started
            clear_value v
            split
            next => exact due.trans (idles v)
            next got =>
              have picked := due.trans ((State.pickClass_anchored ..).of_fst got)
              dsimp only
              repeat' split
              all_goals first
                | exact picked.trans (State.startPkt_anchored ..)
                | exact due.trans (idles v)

@[simp] theorem State.bankWrite_anchored (s : State) (c o : Nat) (v : List Byte) (pois : Bool) : s.Anchored (s.bankWrite c o v pois) := ⟨rfl, rfl⟩
@[simp] theorem State.bankLand_anchored (s : State) (c o a : Nat) (v : List Byte) (bad : Nat) : s.Anchored (s.bankLand c o a v bad) := by simp [State.bankLand]
@[simp] theorem State.setBudget_anchored (s : State) (g e : Nat) (n : Int) : s.Anchored (s.setBudget g e n) := ⟨rfl, rfl⟩
@[simp] theorem State.chargeCtx_anchored (s : State) (c e n : Nat) : s.Anchored (s.chargeCtx c e n) := ⟨rfl, rfl⟩
@[simp] theorem State.charge_anchored (s : State) (c e n : Nat) : s.Anchored (s.charge c e n) := ⟨rfl, rfl⟩
@[simp] theorem State.entryFreed_anchored (s : State) (g : Nat) (e : Nat → Bool) : s.Anchored (s.entryFreed g e) := ⟨rfl, rfl⟩

@[simp] theorem State.sendHomes_anchored (s : State) (g : Nat) (m : Msg) (order : List Nat) (fails : Tbl Status) : s.Anchored (s.sendHomes g m order fails) := by
  unfold State.sendHomes
  dsimp only
  split
  all_goals
    dsimp only
    split
    next => simp
    next =>
      split
      next sent => simpa using State.offer_anchored sent
      next => simp

@[simp] theorem State.addReq_anchored (s : State) (c : Nat) (r : Req) : s.Anchored (s.addReq c r) := ⟨rfl, rfl⟩

@[simp] theorem State.request_anchored (s : State) (c : Nat) (e : Nat) (idx : BitVec 16) (seq : Nat) (k : Pkt) (pos : Nat) (dest : Dest) :
    s.Anchored (s.request c e idx seq k pos dest).1 := by
  unfold State.request
  dsimp only
  split
  next => exact ⟨rfl, rfl⟩
  next p _ =>
    have asked := s.forward_anchored p (c / 16) { pkt := s.ownPkt p k, asker := .req c (s.ctx c).reqNext } (some (s.ctx c).segs)
    split
    next =>
      split
      next => exact asked
      next =>
        split
        next =>
          split
          next => exact asked
          next got => exact asked.trans (by simpa using State.tagTake_anchored got)
        next => exact asked.trans (by simp)
    next => exact asked
    next =>
      split
      next =>
        split
        next => exact asked
        next got => exact asked.trans (by simpa using State.tagTake_anchored got)
      next => exact asked.trans (by simp)
    next =>
      split
      next => exact asked
      next =>
        split
        next => exact asked
        next =>
          split
          next => exact asked
          next got => exact asked.trans (by simpa using State.tagTake_anchored got)
    next => exact asked
    next => exact asked

@[simp] theorem State.setOp_anchored (s : State) (c e : Nat) (o : Option Op) : s.Anchored (s.setOp c e o) := ⟨rfl, rfl⟩

@[simp] theorem State.reviewCtx_anchored (s : State) (c : Nat) : s.Anchored (s.reviewCtx c) := by
  unfold State.reviewCtx
  dsimp only
  (repeat' split) <;> simp [*]

@[simp] theorem State.subdone_anchored (s : State) (c : Nat) (st : Status) (idx : BitVec 16) : s.Anchored (s.subdone c st idx) := by simp [State.subdone]
@[simp] theorem State.holdTag_anchored (s : State) (r : Req) : s.Anchored (s.holdTag r) := by simp [State.holdTag]
@[simp] theorem State.emptyCtx_anchored (s : State) (c : Nat) (st : Status) (idx : BitVec 16) : s.Anchored (s.emptyCtx c st idx) := by simp [State.emptyCtx]
@[simp] theorem State.endCtx_anchored (s : State) (c : Nat) (st : Status) (idx : BitVec 16) : s.Anchored (s.endCtx c st idx) := by simp [State.endCtx]
@[simp] theorem State.faultCtx_anchored (s : State) (c : Nat) (st : Status) (idx : BitVec 16) : s.Anchored (s.faultCtx c st idx) := by simp [State.faultCtx]

@[simp] theorem State.settleIssue_anchored (s : State) (c : Nat) : s.Anchored (s.settleIssue c) := by
  unfold State.settleIssue
  dsimp only
  (repeat' split) <;> simp [*]

@[simp] theorem State.outcome_anchored (s : State) (c : Nat) (idx : BitVec 16) (pred : Nat) (st : Status) (outc : Bool) :
    s.Anchored (s.outcome c idx pred st outc) := by simp [State.outcome]

@[simp] theorem State.complete_anchored (s : State) (c e : Nat) (st : Status) : s.Anchored (s.complete c e st) := by
  unfold State.complete
  split <;> simp

@[simp] theorem State.checkDone_anchored (s : State) (c e : Nat) : s.Anchored (s.checkDone c e) := by
  unfold State.checkDone
  dsimp only
  (repeat' split) <;> simp [*]

@[simp] theorem State.failAt_anchored (s : State) (c e pos : Nat) (st : Status) : s.Anchored (s.failAt c e pos st) := by
  unfold State.failAt
  split <;> simp

@[simp] theorem State.freeReq_anchored (s : State) (c : Nat) (r : Req) (keepTag : Bool) : s.Anchored (s.freeReq c r keepTag) := by simp [State.freeReq]
@[simp] theorem State.tableRead_anchored (s : State) (p : Nat) : s.Anchored (s.tableRead p) := ⟨rfl, rfl⟩

@[simp] theorem State.takeReply_anchored (s : State) (c : Nat) (r : Req) (st : Status) (data : List Byte) (eq : Bool) : s.Anchored (s.takeReply c r st data eq) := by
  unfold State.takeReply
  dsimp only
  (repeat' split) <;> simp [*]

@[simp] theorem State.reqDone_anchored (s : State) (c : Nat) (r : Req) (st : Status) (data : List Byte) (eq keepTag : Bool) :
    s.Anchored (s.reqDone c r st data eq keepTag) := by simp [State.reqDone]

@[simp] theorem State.setColl_anchored (s : State) (g n : Nat) (x : Option Coll) : s.Anchored (s.setColl g n x) := ⟨rfl, rfl⟩

@[simp] theorem State.sendColl_anchored (s : State) (g : Nat) (x : Coll) (mt deid : Nat) (cx : Slot) (body : List Byte) :
    s.Anchored (s.sendColl g x mt deid cx body) := by simp [State.sendColl]

@[simp] theorem State.collWake_anchored (s : State) (job : JobId) (cid : Nat) (st : Status) : s.Anchored (s.collWake job cid st) := .of_offCtxs (State.collWake_offCtxs ..)

@[simp] theorem State.collEnd_anchored (s : State) (g n : Nat) (st : Status) (came : Option Nat) : s.Anchored (s.collEnd g n st came) := by
  unfold State.collEnd
  split <;> simp

@[simp] theorem State.collLost_anchored (s : State) (g n part : Nat) (st : Status) (dataHit : Bool) : s.Anchored (s.collLost g n part st dataHit) := by
  unfold State.collLost
  split <;> simp

@[simp] theorem State.collCount_anchored (s : State) (g n : Nat) : s.Anchored (s.collCount g n) := by
  unfold State.collCount
  split <;> simp

@[simp] theorem State.collOverrun_anchored (s : State) (g n : Nat) : s.Anchored (s.collOverrun g n) := by
  unfold State.collOverrun
  split <;> simp

/-- The state in which a store of a collective's result leaves its Block. -/
def StoreRes.state : StoreRes → State
  | .ok t => t
  | .bad t _ => t
  | .wait t => t

@[simp] theorem State.collStore_anchored (s : State) (g n : Nat) (x : Coll) (a : Nat) (v : List Byte) : s.Anchored (s.collStore g n x a v).state := by
  unfold State.collStore
  dsimp only
  split
  next => exact ⟨rfl, rfl⟩
  next =>
    split
    next got =>
      have asked := (State.forward_anchored ..).of_fst got
      split <;> exact asked
    next got => exact (State.forward_anchored ..).of_fst got
    next got => exact ((State.forward_anchored ..).of_fst got).trans (by simp [StoreRes.state])
    next got =>
      refine ((State.forward_anchored ..).of_fst got).trans ?_
      split
      next => exact ⟨rfl, rfl⟩
      next =>
        split
        next => exact ⟨rfl, rfl⟩
        next =>
          split
          next => exact ⟨rfl, rfl⟩
          next got => simpa [StoreRes.state] using State.tagTake_anchored got
    next got => exact (State.forward_anchored ..).of_fst got

@[simp] theorem State.collStores_anchored (s : State) (g : Nat) (n : Nat) (v : List Byte) (fuel : Nat) : s.Anchored (s.collStores g n v fuel) := by
  induction fuel generalizing s with
  | zero => exact ⟨rfl, rfl⟩
  | succ fuel ih =>
    unfold State.collStores
    dsimp only
    split
    next => exact ⟨rfl, rfl⟩
    next x _ =>
      split
      next => exact ⟨rfl, rfl⟩
      next =>
        have stored := s.collStore_anchored g n x (cdResaddr x.desc + x.slice * cdElems x.desc * x.memWidth + x.outAt)
          (bytesAt v x.outAt (nextPiece (cdResaddr x.desc + x.slice * cdElems x.desc * x.memWidth + x.outAt) (v.length - x.outAt)))
        split
        all_goals
          next got =>
            rw [got] at stored
            first
              | exact stored.trans (ih _)
              | exact stored.trans (State.collLost_anchored ..)
              | exact stored

theorem State.collHead_anchored {s : State} {g : Nat} {t : Msg × State} (h : s.collHead g = some t) : s.Anchored t.2 := by
  obtain ⟨x, taken, rfl⟩ := Option.map_eq_some_iff.1 h
  exact State.takeHead_anchored taken

@[simp] theorem State.collDeliver_anchored (s : State) (g n : Nat) : s.Anchored (s.collDeliver g n) := by
  unfold State.collDeliver
  dsimp only
  (repeat' split) <;> simp [*]

@[simp] theorem State.collSliceDone_anchored (s : State) (g n : Nat) : s.Anchored (s.collSliceDone g n) := by
  unfold State.collSliceDone
  split <;> simp

@[simp] theorem State.updStore_anchored (s : State) (g n id : Nat) (f : CollStore → CollStore) : s.Anchored (s.updStore g n id f) := by
  unfold State.updStore
  split <;> simp

@[simp] theorem State.collSend_anchored (s : State) (g : Nat) (n : Nat) (x : Coll) (r : CollStore) : s.Anchored (s.collSend g n x r) := by
  unfold State.collSend
  dsimp only
  split
  next => exact ⟨rfl, rfl⟩
  next =>
    split
    next => simp
    next =>
      split
      next got => exact ((State.forward_anchored ..).of_fst got).trans (by simp)
      next got => exact ((State.forward_anchored ..).of_fst got).trans (by split <;> simp)
      next got =>
        refine ((State.forward_anchored ..).of_fst got).trans ?_
        split
        next => simp
        next =>
          split
          next => simp
          next =>
            split
            next => simp
            next got => simpa using State.tagTake_anchored got
      next got => exact ((State.forward_anchored ..).of_fst got).trans (by simp)
      next got => exact (State.forward_anchored ..).of_fst got

@[simp] theorem State.storeGone_anchored (s : State) (g n : Nat) (r : CollStore) : s.Anchored (s.storeGone g n r) := by
  unfold State.storeGone
  split <;> simp

@[simp] theorem State.collResend_anchored (s : State) (g n : Nat) : s.Anchored (s.collResend g n) := by
  unfold State.collResend
  dsimp only
  (repeat' split) <;> simp [*]

@[simp] theorem State.collStored_anchored (s : State) (g n id : Nat) (st : Status) : s.Anchored (s.collStored g n id st) := by
  unfold State.collStored
  (repeat' split) <;> simp [*]

@[simp] theorem State.collOpen_anchored (s : State) (g n : Nat) : s.Anchored (s.collOpen g n) := by
  unfold State.collOpen
  split <;> simp

@[simp] theorem State.collComplete_anchored (s : State) (g n : Nat) : s.Anchored (s.collComplete g n) := by
  unfold State.collComplete
  split <;> simp

@[simp] theorem State.collTake_anchored (s : State) (g n : Nat) (x : Coll) (raw : Bool) (first count src ncontr : Nat) (last : Bool) (body : List Byte) :
    s.Anchored (s.collTake g n x raw first count src ncontr last body) := by
  unfold State.collTake
  dsimp only
  (repeat' split) <;> simp [*]

@[simp] theorem State.collStray_anchored (s : State) (g : Nat) : s.Anchored (s.collStray g) := ⟨rfl, rfl⟩

@[simp] theorem State.collMsg_anchored (s : State) (g : Nat) (want : Nat → Bool) : s.Anchored (s.collMsg g want) := by
  unfold State.collMsg
  split
  next => exact ⟨rfl, rfl⟩
  next head =>
    have taken := State.collHead_anchored head
    split
    next => exact ⟨rfl, rfl⟩
    next =>
      split
      next => exact taken.trans (by simp)
      next => exact taken.trans (by simp)
      next => exact taken.trans (by split <;> simp)
      next =>
        split
        next => exact taken.trans (by simp)
        next => exact ⟨rfl, rfl⟩

@[simp] theorem State.rootWork_anchored (s : State) (g : Nat) : s.Anchored (s.rootWork g) := by
  unfold State.rootWork
  (repeat' split) <;> simp [*]

@[simp] theorem State.collJoin_anchored (s : State) (c : Nat) (idx : BitVec 16) (d : BitVec 512) : s.Anchored (s.collJoin c idx d).1 := by
  unfold State.collJoin
  dsimp only
  (repeat' split) <;> simp [*]

end Sys2Proof.Machine
end

section
/-! Partitions, power, health and control instructions leave pool memory and the fuses alone. -/

namespace Sys2Proof.Machine

@[simp] theorem State.review_anchored (s : State) : s.Anchored s.review := .of_offCtxs (State.review_offCtxs ..)
@[simp] theorem State.parkCtx_anchored (s : State) (c : Nat) (st : CtxState) : s.Anchored (s.parkCtx c st) := ⟨rfl, rfl⟩
@[simp] theorem State.bringIn_anchored (s : State) (c : Nat) : s.Anchored (s.bringIn c) := by simp [State.bringIn]

@[simp] theorem State.bringNext_anchored (s : State) (g : Nat) : s.Anchored (s.bringNext g) := by
  unfold State.bringNext
  split <;> simp

@[simp] theorem State.parkNext_anchored (s : State) (g : Nat) : s.Anchored (s.parkNext g) := by
  unfold State.parkNext
  split <;> simp

@[simp] theorem State.settled_anchored (s : State) (c : Nat) : s.Anchored (s.settled c) := by simp [State.settled]
@[simp] theorem State.faultPart_anchored (s : State) (p : Nat) (st : Status) : s.Anchored (s.faultPart p st) := by simp [State.faultPart]

@[simp] theorem State.fencePart_anchored (s : State) (p code : Nat) (cls : BitVec 8) (seq : BitVec 64) :
    s.Anchored (s.fencePart p code cls seq) := by simp [State.fencePart]

@[simp] theorem State.purgeBlk_anchored (s : State) (g : Nat) : s.Anchored (s.purgeBlk g) := by simp [State.purgeBlk]
@[simp] theorem State.joinBlk_anchored (s : State) (a g : Nat) : s.Anchored (s.joinBlk a g) := ⟨rfl, rfl⟩
@[simp] theorem State.leaveBlk_anchored (s : State) (g : Nat) : s.Anchored (s.leaveBlk g) := by simp [State.leaveBlk]
@[simp] theorem State.countScrub_anchored (s : State) (p : Nat) : s.Anchored (s.countScrub p) := ⟨rfl, rfl⟩
@[simp] theorem State.partClear_anchored (s : State) (p : Nat) : s.Anchored (s.partClear p) := by simp [State.partClear]
@[simp] theorem State.freeTray_anchored (s : State) (t : Nat) : s.Anchored (s.freeTray t) := ⟨rfl, rfl⟩
@[simp] theorem State.create_anchored (s : State) (p : Nat) (blocks : BitVec 64) (area : Nat) : s.Anchored (s.create p blocks area) := by simp [State.create]
@[simp] theorem State.resizeStep_anchored (s : State) (p : Nat) : s.Anchored (s.resizeStep p) := by simp [State.resizeStep]
@[simp] theorem State.resize_anchored (s : State) (p : Nat) (new : BitVec 64) : s.Anchored (s.resize p new) := by simp [State.resize]
@[simp] theorem State.release_anchored (s : State) (p : Nat) : s.Anchored (s.release p) := by simp [State.release]
@[simp] theorem State.scrub_anchored (s : State) (p : Nat) : s.Anchored (s.scrub p) := by simp [State.scrub]
@[simp] theorem State.trayPut_anchored (s : State) (p t : Nat) (assign : Bool) : s.Anchored (s.trayPut p t assign) := by simp [State.trayPut]

@[simp] theorem State.bind_anchored (s : State) (p : Nat) (job : JobId) (dev : Eid) (ptpn : BitVec 24) (tout : BitVec 16) (rto : BitVec 8) (drainw : BitVec 10) (g : Gen) :
    s.Anchored (s.bind p job dev ptpn tout rto drainw g) := by
  unfold State.bind
  extract_lets t
  have bound : s.Anchored t := ⟨rfl, rfl⟩
  clear_value t
  split
  · exact bound.trans (by simp)
  · exact bound

@[simp] theorem State.commit_anchored (s : State) (p : Nat) (moveh : Bool) (times : Option (BitVec 16 × BitVec 8 × BitVec 10)) :
    s.Anchored (s.commit p moveh times) := by
  unfold State.commit
  dsimp only
  (repeat' split) <;> simp [*]

@[simp] theorem State.forgetLine_anchored (s : State) (g : Nat) (p : Nat) (l : Nat) : s.Anchored (s.forgetLine g p l) := by
  unfold State.forgetLine
  extract_lets e t u v
  have freed : s.Anchored t := by
    unfold t
    split
    · exact State.Anchored.foldl (fun s w => State.tagSet_anchored ..) _ s
    · exact ⟨rfl, rfl⟩
  have owned : s.Anchored v := freed.trans (State.Anchored.trans (State.updEnt_anchored ..) (State.settleOwner_anchored ..))
  clear_value v
  split
  refine owned.trans (State.Anchored.foldl (fun s t => ?_) _ v)
  split
  next got => exact (State.snoop_anchored got).trans (State.tagSet_anchored ..)
  next => exact ⟨rfl, rfl⟩

theorem State.updBlk_anchored (s : State) (g : Nat) (f : Block → Block) : s.Anchored (s.updBlk g f) := ⟨rfl, rfl⟩

@[simp] theorem State.unbindBlk_anchored (s : State) (p : Nat) (g : Nat) : s.Anchored (s.unbindBlk p g) := by
  unfold State.unbindBlk
  dsimp only
  refine State.Anchored.trans ?_ (State.purgeBlk_anchored ..)
  refine State.Anchored.trans ?_ (State.updBlk_anchored ..)
  refine State.Anchored.trans ?_ (State.Anchored.foldl (fun s l => State.forgetLine_anchored ..) _ _)
  refine State.Anchored.trans (State.Anchored.foldl (fun s c => State.refuse_anchored ..) _ s) (State.Anchored.foldl (fun s w => ?_) _ _)
  split <;> simp

@[simp] theorem State.killCtx_anchored (s : State) (c : Nat) : s.Anchored (s.killCtx c) := by simp [State.killCtx]
@[simp] theorem State.killPart_anchored (s : State) (p : Nat) : s.Anchored (s.killPart p) := by simp [State.killPart]
@[simp] theorem State.chanPenalty_anchored (s : State) (q c n : Nat) : s.Anchored (s.chanPenalty q c n) := ⟨rfl, rfl⟩

@[simp] theorem State.lineUe_anchored (s : State) (p l : Nat) (x : Spot) : s.Anchored (s.lineUe p l x) := by
  unfold State.lineUe
  dsimp only
  (repeat' split) <;> simp [*]

@[simp] theorem State.halt_anchored (s : State) (unit : BitVec 16) (cause : Option (Nat × BitVec 64)) : s.Anchored (s.halt unit cause) := by simp [State.halt]

@[simp] theorem State.partFault_anchored (s : State) (g : Nat) (e : Event) : s.Anchored (s.partFault g e) := by
  unfold State.partFault
  split <;> simp

theorem State.startMove_anchored {s : State} {p k tier : Nat} {t : State} (h : s.startMove p k tier = some t) : s.Anchored t := by
  unfold State.startMove at h
  dsimp only at h
  split at h
  next => cases h
  next =>
    cases h
    simp

@[simp] theorem State.trayEmpty_anchored (s : State) (t : Nat) : s.Anchored (s.trayEmpty t) := by simp [State.trayEmpty]

@[simp] theorem State.evacNext_anchored (s : State) (p : Nat) : s.Anchored (s.evacNext p) := by
  unfold State.evacNext
  dsimp only
  split
  next => exact ⟨rfl, rfl⟩
  next =>
    split
    next => exact ⟨rfl, rfl⟩
    next k g _ =>
      split
      next => exact ⟨rfl, rfl⟩
      next t _ =>
        cases moved : s.startMove p k t with
        | none => exact ⟨rfl, rfl⟩
        | some u => exact State.startMove_anchored moved

@[simp] theorem State.afterMove_anchored (s : State) (p : Nat) : s.Anchored (s.afterMove p) := by simp [State.afterMove]
@[simp] theorem State.migrated_anchored (s : State) (p k tier : Nat) : s.Anchored (s.migrated p k tier) := by simp [State.migrated]
@[simp] theorem State.finishMove_anchored (s : State) (p k : Nat) : s.Anchored (s.finishMove p k) := by simp [State.finishMove]

@[simp] theorem State.chunkUe_anchored (s : State) (p : Nat) (k : Nat) (g : Page) (ue : BitVec 32) : s.Anchored (s.chunkUe p k g ue) := by
  refine State.Anchored.foldl (fun s i => ?_) _ s
  dsimp only
  split <;> simp

@[simp] theorem State.relayFrames_anchored (s : State) (p : Nat) (k : Nat) : s.Anchored (s.relayFrames p k) := by
  unfold State.relayFrames
  dsimp only
  split
  next => exact ⟨rfl, rfl⟩
  next =>
    have picked (tier total n : Nat) : s.Anchored ((List.range n).foldl (fun (a : State × List Nat) _ =>
        ((a.1.pickFrame p tier 0 total a.2).2, a.2 ++ [(a.1.pickFrame p tier 0 total a.2).1])) (s, [])).1 :=
      State.Anchored.foldl_fst (f := fun (a : State × List Nat) _ => ((a.1.pickFrame p tier 0 total a.2).2, a.2 ++ [(a.1.pickFrame p tier 0 total a.2).1]))
        (fun a _ => a.1.pickFrame_anchored p tier 0 total a.2) _ (s, [])
    exact (picked ..).trans (State.updPage_anchored ..)

@[simp] theorem State.copyChunk_anchored (s : State) (p n : Nat) (ue : BitVec 32) : s.Anchored (s.copyChunk p n ue) := by simp [State.copyChunk]

@[simp] theorem State.evictPage_anchored (s : State) (p : Nat) (tier : Nat) : s.Anchored (s.evictPage p tier) := by
  unfold State.evictPage
  dsimp only
  repeat' split
  all_goals first
    | exact ⟨rfl, rfl⟩
    | simpa using State.startMove_anchored ‹State.startMove _ _ _ _ = some _›

@[simp] theorem State.promote_anchored (s : State) (p : Nat) (n : Nat) : s.Anchored (s.promote p n) := by
  unfold State.promote
  dsimp only
  split
  next => exact ⟨rfl, rfl⟩
  next =>
    cases moved : s.startMove p ((s.part p).pageKey n) (((s.part p).page n).tier.toNat - 1) with
    | none => exact ⟨rfl, rfl⟩
    | some u => exact State.startMove_anchored moved

@[simp] theorem State.frameScrubbed_anchored (s : State) (p tier : Nat) : s.Anchored (s.frameScrubbed p tier) := by
  unfold State.frameScrubbed
  dsimp only
  (repeat' split) <;> simp [*]

@[simp] theorem State.evacuate_anchored (s : State) (t : Nat) : s.Anchored (s.evacuate t) := by simp [State.evacuate]
@[simp] theorem State.evacStop_anchored (s : State) (t : Nat) : s.Anchored (s.evacStop t) := ⟨rfl, rfl⟩
@[simp] theorem State.losePage_anchored (s : State) (p t k : Nat) : s.Anchored (s.losePage p t k) := by simp [State.losePage]
@[simp] theorem State.loseTray_anchored (s : State) (t : Nat) : s.Anchored (s.loseTray t) := by simp [State.loseTray]
@[simp] theorem State.moveReplay_anchored (s : State) (g h : Nat) (r : Replay) : s.Anchored (s.moveReplay g h r) := by simp [State.moveReplay]

@[simp] theorem State.drainEnd_anchored (s : State) (p : Nat) : s.Anchored (s.drainEnd p) := by
  unfold State.drainEnd
  dsimp only
  (repeat' split) <;> simp [*]

@[simp] theorem State.tbEnter_anchored (s : State) (st : TbState) (up : Nat) : s.Anchored (s.tbEnter st up) := by simp [State.tbEnter]
@[simp] theorem State.tbChange_anchored (s : State) (st : TbState) (up : Nat) : s.Anchored (s.tbChange st up) := by simp [State.tbChange]

@[simp] theorem State.newSource_anchored (s : State) : s.Anchored (s.newSource) := by
  unfold State.newSource
  (repeat' split) <;> simp [*]

@[simp] theorem State.dropSinks_anchored (s : State) (q : Nat) (n : Nat) : s.Anchored (s.dropSinks q n) := .of_still (State.dropSinks_still ..)

@[simp] theorem State.sinks_anchored (s : State) (via : Via) : s.Anchored (s.sinks via) := by
  unfold State.sinks
  split <;> simp

@[simp] theorem State.dropCtl_anchored (s : State) (via : Via) : s.Anchored (s.dropCtl via) := .of_still (State.dropCtl_still ..)

@[simp] theorem State.ctlAnswer_anchored (s : State) (c : Caller) (rec : Slot) : s.Anchored (s.ctlAnswer c rec) := by
  unfold State.ctlAnswer
  split <;> simp

@[simp] theorem looks_anchored (f : State → Status) (s : State) : s.Anchored (looks f s).1 := ⟨rfl, rfl⟩
theorem plain_anchored {f : State → State} (one : ∀ s : State, s.Anchored (f s)) (s : State) (x : Caller) : s.Anchored (plain f s x).1 := one s
@[simp] theorem State.advance_anchored (s : State) (c : Nat) (i : Insn) : s.Anchored (s.advance c i) := ⟨rfl, rfl⟩

@[simp] theorem State.endInsn_anchored (s : State) (c : Nat) (idx : BitVec 16) (pred : Nat) (st : Status) (outc : Bool) :
    s.Anchored (s.endInsn c idx pred st outc) := by simp [State.endInsn]

@[simp] theorem State.fetchClash_anchored (s : State) (c : Nat) (ks : List Nat) : s.Anchored (s.fetchClash c ks).2 := by
  unfold State.fetchClash
  split <;> simp

theorem State.stage_anchored {go : State → Insn → Op → State} (goes : ∀ (s : State) i o, s.Anchored (go s i o)) (s : State) (c : Nat) (row : Insn → Bool) : s.Anchored (s.stage c row go) := by
  unfold State.stage
  split
  next => exact ⟨rfl, rfl⟩
  next =>
    dsimp only
    split
    next => exact ⟨rfl, rfl⟩
    next => simp
    next =>
      split
      next => exact ⟨rfl, rfl⟩
      next =>
        refine State.Anchored.trans ?_ (State.review_anchored _)
        repeat' split
        all_goals first
          | simp; done
          | exact State.Anchored.trans (by simp) (goes ..)

@[simp] theorem State.seqLoop_anchored (c : Nat) (s : State) (i : Insn) (o : Op) : s.Anchored (State.seqLoop c s i o) := by simp [State.seqLoop]

@[simp] theorem State.seqEndloop_anchored (c : Nat) (s : State) (i : Insn) (o : Op) : s.Anchored (State.seqEndloop c s i o) := by
  unfold State.seqEndloop
  dsimp only
  (repeat' split) <;> simp [*]

@[simp] theorem State.seqSkip_anchored (c : Nat) (s : State) (i : Insn) (x : Op) : s.Anchored (State.seqSkip c s i x) := ⟨rfl, rfl⟩
@[simp] theorem State.holdIssue_anchored (s : State) (c t pred : Nat) : s.Anchored (s.holdIssue c t pred) := ⟨rfl, rfl⟩
@[simp] theorem State.seqWaitt_anchored (c : Nat) (s : State) (i : Insn) (o : Op) : s.Anchored (State.seqWaitt c s i o) := by simp [State.seqWaitt]

@[simp] theorem State.endHold_anchored (s : State) (c : Nat) : s.Anchored (s.endHold c) := by
  unfold State.endHold
  dsimp only
  (repeat' split) <;> simp [*]

@[simp] theorem State.seqFence_anchored (c : Nat) (s : State) (i : Insn) (x : Op) : s.Anchored (State.seqFence c s i x) := by simp [State.seqFence]
@[simp] theorem State.seqYield_anchored (c : Nat) (s : State) (i : Insn) (o : Op) : s.Anchored (s.seqYield c i o) := by simp [State.seqYield]
@[simp] theorem State.seqEnd_anchored (c : Nat) (s : State) (i : Insn) (o : Op) : s.Anchored (s.seqEnd c i o) := by simp [State.seqEnd]

@[simp] theorem State.enter_anchored (s : State) (c : Nat) (i : Insn) (o : Op) (r : Except Status Plan) : s.Anchored (s.enter c i o r) := by
  unfold State.enter
  split <;> simp

@[simp] theorem State.waitOpen_anchored (s : State) (c : Nat) : s.Anchored (s.waitOpen c) := by
  unfold State.waitOpen
  (repeat' split) <;> simp [*]

@[simp] theorem State.giveBanks_anchored (s : State) (g : Nat) (m : BitVec 16) (to' : Option Nat) : s.Anchored (s.giveBanks g m to') := ⟨rfl, rfl⟩
@[simp] theorem bindDo_anchored (ci : CtlInsn) (s : State) (x : Caller) : s.Anchored (bindDo ci s x).1 := by simp [bindDo]

@[simp] theorem routeDo_anchored (ci : CtlInsn) (s : State) : s.Anchored (routeDo ci s) := by
  unfold routeDo
  split <;> simp

@[simp] theorem groupDo_anchored (ci : CtlInsn) (s : State) : s.Anchored (groupDo ci s) := by
  unfold groupDo
  split <;> simp

@[simp] theorem commitDo_anchored (ci : CtlInsn) (s : State) (x : Caller) : s.Anchored (commitDo ci s x).1 := by
  unfold commitDo
  split <;> simp

@[simp] theorem resizeDo_anchored (ci : CtlInsn) (s : State) : s.Anchored (resizeDo ci s) := by simp [resizeDo]

@[simp] theorem killDo_anchored (ci : CtlInsn) (s : State) : s.Anchored (killDo ci s) := by
  unfold killDo
  dsimp only
  (repeat' split) <;> simp [*]

@[simp] theorem parkCheck_anchored (ci : CtlInsn) (s : State) : s.Anchored (parkCheck ci s).1 := by
  unfold parkCheck
  dsimp only
  (repeat' split) <;> simp [*]

@[simp] theorem parkDo_anchored (ci : CtlInsn) (s : State) : s.Anchored (parkDo ci s) := by
  unfold parkDo
  dsimp only
  (repeat' split) <;> simp [*]

@[simp] theorem State.homedHere_anchored (s : State) (p n : Nat) : s.Anchored (s.homedHere p n).1 := by
  unfold State.homedHere
  dsimp only
  (repeat' split) <;> simp [*]

@[simp] theorem moveCheck_anchored (ci : CtlInsn) (s : State) : s.Anchored (moveCheck ci s).1 := by
  unfold moveCheck
  dsimp only
  repeat' split
  all_goals first
    | exact ⟨rfl, rfl⟩
    | exact (State.homedHere_anchored ..).of_fst ‹State.homedHere _ _ _ = _›

@[simp] theorem moveDo_anchored (ci : CtlInsn) (s : State) : s.Anchored (moveDo ci s) := by
  unfold moveDo
  dsimp only
  split
  next => exact ⟨rfl, rfl⟩
  next p _ =>
    split
    next => exact ⟨rfl, rfl⟩
    next =>
      cases moved : s.startMove p ((s.part p).pageKey (ci.f 16 24)) (ci.f 40 2) with
      | none => exact ⟨rfl, rfl⟩
      | some u => exact State.startMove_anchored moved

@[simp] theorem pageFreeCheck_anchored (ci : CtlInsn) (s : State) : s.Anchored (pageFreeCheck ci s).1 := by
  unfold pageFreeCheck
  dsimp only
  repeat' split
  all_goals first
    | exact ⟨rfl, rfl⟩
    | exact (State.homedHere_anchored ..).of_fst ‹State.homedHere _ _ _ = _›

@[simp] theorem poolDo_anchored (ci : CtlInsn) (s : State) : s.Anchored (poolDo ci s) := ⟨rfl, rfl⟩

@[simp] theorem State.scrubDone_anchored (s : State) (g : Nat) : s.Anchored (s.scrubDone g) := by
  unfold State.scrubDone
  split <;> simp

@[simp] theorem State.align_anchored (s : State) (off : Int) (up : Nat) : s.Anchored (s.align off up) := by simp [State.align]
@[simp] theorem State.loadTick_anchored (s : State) (t : BitVec 64) : s.Anchored (s.loadTick t) := ⟨rfl, rfl⟩
@[simp] theorem State.compareMarker_anchored (s : State) (l : Nat) (m : Slot) (ns hops : Nat) : s.Anchored (s.compareMarker l m ns hops) := by simp [State.compareMarker]
@[simp] theorem State.startTick_anchored (s : State) : s.Anchored (s.startTick) := by simp [State.startTick]
@[simp] theorem State.closeTick_anchored (s : State) : s.Anchored (s.closeTick) := ⟨rfl, rfl⟩

@[simp] theorem State.contain_anchored (s : State) (d : Disc) : s.Anchored (s.contain d) := by
  unfold State.contain
  dsimp only
  (repeat' split) <;> simp [*]

@[simp] theorem State.runAudit_anchored (s : State) : s.Anchored (s.runAudit) := by
  unfold State.runAudit
  split <;> simp

@[simp] theorem State.healthEvents_anchored (s : State) (old new : Health) (unit : BitVec 16) :
    s.Anchored (s.healthEvents old new unit) := by simp [State.healthEvents]

@[simp] theorem State.scoreQtr_anchored (s : State) (q : Nat) : s.Anchored (s.scoreQtr q) := by simp [State.scoreQtr]
@[simp] theorem State.score_anchored (s : State) : s.Anchored (s.score) := by simp [State.score]
@[simp] theorem State.refill_anchored (s : State) : s.Anchored (s.refill) := ⟨rfl, rfl⟩
@[simp] theorem State.govern_anchored (s : State) (watts : Nat) : s.Anchored (s.govern watts) := ⟨rfl, rfl⟩
@[simp] theorem State.resetBudgets_anchored (s : State) : s.Anchored (s.resetBudgets) := by simp [State.resetBudgets]
@[simp] theorem State.holdGaps_anchored (s : State) : s.Anchored (s.holdGaps) := ⟨rfl, rfl⟩
@[simp] theorem State.noteIdle_anchored (s : State) : s.Anchored (s.noteIdle) := ⟨rfl, rfl⟩

@[simp] theorem State.endProxy_anchored (s : State) (q key j : Nat) : s.Anchored (s.endProxy q key j) := by
  unfold State.endProxy
  split <;> simp

@[simp] theorem State.endProxies_anchored (s : State) : s.Anchored s.endProxies := by
  refine State.Anchored.foldl (fun s e => State.Anchored.foldl (fun s t => ?_) _ s) _ s
  split <;> simp

@[simp] theorem State.tendTables_anchored (s : State) : s.Anchored (s.tendTables) := by simp [State.tendTables]
@[simp] theorem State.wipe_anchored (s : State) (cause : Nat) (src : BitVec 8) : s.Anchored (s.wipe cause src) := ⟨rfl, rfl⟩
@[simp] theorem State.recovery_anchored (s : State) (code : BitVec 8) : s.Anchored (s.recovery code) := ⟨rfl, rfl⟩
@[simp] theorem State.holdOut_anchored (s : State) (bs : BitVec 64) (code : BitVec 8) : s.Anchored (s.holdOut bs code) := by simp [State.holdOut]
@[simp] theorem State.step1Done_anchored (s : State) (setB : Bool) : s.Anchored (s.step1Done setB) := by simp [State.step1Done]
@[simp] theorem State.startupEnd_anchored (s : State) : s.Anchored (s.startupEnd) := by simp [State.startupEnd]

@[simp] theorem State.stackTrained_anchored (s : State) (stack : Nat) (full : Bool) (failed : BitVec 32) :
    s.Anchored (s.stackTrained stack full failed) := by simp [State.stackTrained]

@[simp] theorem State.enterPower_anchored (s : State) (st : BitVec 3) : s.Anchored (s.enterPower st) := ⟨rfl, rfl⟩
@[simp] theorem State.quartersOff_anchored (s : State) : s.Anchored (s.quartersOff) := ⟨rfl, rfl⟩
@[simp] theorem State.powerReq_anchored (s : State) (v : BitVec 64) : s.Anchored (s.powerReq v) := by simp [State.powerReq]
@[simp] theorem State.leaveP1_anchored (s : State) : s.Anchored (s.leaveP1) := by simp [State.leaveP1]
@[simp] theorem State.reading_anchored (s : State) (i : Nat) (t : BitVec 16) : s.Anchored (s.reading i t) := ⟨rfl, rfl⟩
@[simp] theorem State.warnSet_anchored (s : State) (i : Nat) (on : Bool) : s.Anchored (s.warnSet i on) := by simp [State.warnSet]
@[simp] theorem State.throttle_anchored (s : State) (stack : Nat) (on : Bool) : s.Anchored (s.throttle stack on) := by simp [State.throttle]
@[simp] theorem State.rampQcore_anchored (s : State) (q : Nat) : s.Anchored (s.rampQcore q) := ⟨rfl, rfl⟩

@[simp] theorem State.packetUe_anchored (s : State) (q n : Nat) : s.Anchored (s.packetUe q n) := by
  unfold State.packetUe
  split <;> simp

@[simp] theorem State.ctxUe_anchored (s : State) (c : Nat) (mails : Bool) : s.Anchored (s.ctxUe c mails) := by simp [State.ctxUe]

@[simp] theorem State.collUe_anchored (s : State) (g n part d1 : Nat) (hit : Bool) : s.Anchored (s.collUe g n part d1 hit) := by
  unfold State.collUe
  split <;> simp

@[simp] theorem State.bufferUe_anchored (s : State) (g u : Nat) : s.Anchored (s.bufferUe g u) := by
  unfold State.bufferUe
  split <;> simp

@[simp] theorem State.hotUe_anchored (s : State) (g slot : Nat) : s.Anchored (s.hotUe g slot) := by
  unfold State.hotUe
  split <;> simp

@[simp] theorem State.replayUe_anchored (s : State) (g : Nat) : s.Anchored (s.replayUe g) := by simp [State.replayUe]

@[simp] theorem State.deathWalk_anchored (s : State) (g : Nat) (p : Nat) (eid : Eid) (inc : Inc) : s.Anchored (s.deathWalk g p eid inc).1 := by
  refine State.Anchored.foldl_fst (fun a e => ?_) _ (s, 0, 0)
  dsimp only
  repeat' split
  all_goals simp

@[simp] theorem State.setLanes_anchored (s : State) (c : PortCfg) : s.Anchored (s.setLanes c) := by simp [State.setLanes]
@[simp] theorem State.switchPort_anchored (s : State) (c : PortCfg) : s.Anchored (s.switchPort c) := by simp [State.switchPort]
@[simp] theorem portcfgDo_anchored (c : PortCfg) (s : State) : s.Anchored (portcfgDo c s) := by simp [portcfgDo]
@[simp] theorem restartDo_anchored (l : Nat) (s : State) : s.Anchored (restartDo l s) := by simp [restartDo]
@[simp] theorem creditDo_anchored (l : Nat) (a : Slot) (s : State) : s.Anchored (creditDo l a s) := ⟨rfl, rfl⟩

@[simp] theorem admitDo_anchored (ci : CtlInsn) (s : State) : s.Anchored (admitDo ci s) := by
  unfold admitDo
  dsimp only
  (repeat' split) <;> simp [*]

@[simp] theorem trunkentDo_anchored (l : Nat) (e : Eid) (i : Inc) (s : State) : s.Anchored (trunkentDo l e i s) := by
  unfold trunkentDo
  dsimp only
  (repeat' split) <;> simp [*]

@[simp] theorem ticksrcDo_anchored (src : Nat) (load : Bool) (tick : BitVec 64) (s : State) : s.Anchored (ticksrcDo src load tick s) := by simp [ticksrcDo]
@[simp] theorem qcfgDo_anchored (q n min alpha : Nat) (s : State) : s.Anchored (qcfgDo q n min alpha s) := ⟨rfl, rfl⟩
@[simp] theorem bufcfgDo_anchored (q m : Nat) (s : State) : s.Anchored (bufcfgDo q m s) := ⟨rfl, rfl⟩
@[simp] theorem orderDo_anchored (spray rsto : Nat) (s : State) : s.Anchored (orderDo spray rsto s) := ⟨rfl, rfl⟩
@[simp] theorem trunkDo_anchored (t : Nat) (ls : List Nat) (s : State) : s.Anchored (trunkDo t ls s) := by simp [trunkDo]
@[simp] theorem traycfgDo_anchored (t : Nat) (on sel : Bool) (s : State) : s.Anchored (traycfgDo t on sel s) := by simp [traycfgDo]

@[simp] theorem State.shortPress_anchored (s : State) : s.Anchored (s.shortPress) := by
  unfold State.shortPress
  dsimp only
  (repeat' split) <;> simp [*]

end Sys2Proof.Machine
end

section
/-! Engines, registers and programs leave pool memory and the fuses alone. -/

namespace Sys2Proof.Machine

@[simp] theorem State.updOp_anchored (s : State) (c e : Nat) (f : Op → Op) : s.Anchored (s.updOp c e f) := by
  unfold State.updOp
  split <;> simp

@[simp] theorem State.askReads_anchored (s : State) (c : Nat) (e : Nat) (l : List (Nat × Nat)) : s.Anchored (s.askReads c e l).1 := by
  induction l generalizing s with
  | nil => exact ⟨rfl, rfl⟩
  | cons p l ih =>
    unfold State.askReads
    dsimp only
    split
    next => exact ⟨rfl, rfl⟩
    next o _ =>
      split
      next => exact ih s
      next =>
        split
        next => exact State.Anchored.trans (by simp) (ih _)
        next =>
          have asked := s.request_anchored c e o.idx o.seq (pktLd p.1 p.2) 0 (.buf (rdKey p) p.2)
          split
          next got => exact (asked.of_fst got).trans (ih _)
          next got => exact ((asked.of_fst got).trans (State.updOp_anchored ..)).trans (ih _)
          next => exact asked

@[simp] theorem State.updRun_anchored (s : State) (c e : Nat) (f : Slice → Slice) : s.Anchored (s.updRun c e f) := ⟨rfl, rfl⟩
@[simp] theorem State.noteWrite_anchored (s : State) (c e : Nat) (bank : Bool) (a n : Nat) : s.Anchored (s.noteWrite c e bank a n) := ⟨rfl, rfl⟩
@[simp] theorem State.noteRead_anchored (s : State) (c e : Nat) (tile : Bool) (l : List (Nat × Nat)) : s.Anchored (s.noteRead c e tile l) := by simp [State.noteRead]
@[simp] theorem State.bankPut_anchored (s : State) (c e a : Nat) (d : Data) : s.Anchored (s.bankPut c e a d) := by simp [State.bankPut]
@[simp] theorem State.put_anchored (s : State) (c e pos : Nat) (bank : Bool) (a : Nat) (d : Data) : s.Anchored (s.put c e pos bank a d) := by simp [State.put]

@[simp] theorem State.flushStores_anchored (s : State) (c : Nat) (e : Nat) (fuel : Nat) : s.Anchored (s.flushStores c e fuel).1 := by
  induction fuel generalizing s with
  | zero => exact ⟨rfl, rfl⟩
  | succ fuel ih =>
    unfold State.flushStores
    dsimp only
    split
    next => exact ⟨rfl, rfl⟩
    next o _ =>
      split
      next => exact ⟨rfl, rfl⟩
      next pos a v w r _ =>
        split
        next => exact State.Anchored.trans (by simp) (ih _)
        next =>
          split
          next => exact State.Anchored.trans (by simp) (ih _)
          next =>
            have asked := s.request_anchored c e o.idx o.seq (pktSt a (v.take (nextPiece a v.length)) (pmaskOf a (w.take (nextPiece a v.length)))) pos .none
            split
            next got => exact (asked.of_fst got).trans (State.Anchored.trans (by simp) (ih _))
            next got => exact (asked.of_fst got).trans (State.Anchored.trans (by simp) (ih _))
            next => exact asked

@[simp] theorem State.freeBytes_anchored (s : State) (n : Nat) : s.Anchored (s.freeBytes n).2 := ⟨rfl, rfl⟩
@[simp] theorem State.spoil_anchored (s : State) (c : Nat) (r : Nat × Nat) : s.Anchored (s.spoil c r) := ⟨rfl, rfl⟩

@[simp] theorem State.storeNow_anchored (s : State) (c e : Nat) (o : Op) (a : Nat) (v : List Byte) : s.Anchored (s.storeNow c e o a v) := by
  unfold State.storeNow
  split <;> simp

@[simp] theorem State.spoilPool_anchored (s : State) (c e : Nat) (o : Op) (r : Nat × Nat) : s.Anchored (s.spoilPool c e o r) := by simp [State.spoilPool]

@[simp] theorem State.spoilSlice_anchored (s : State) (e : Nat) (r : Slice) : s.Anchored (s.spoilSlice e r) := by
  unfold State.spoilSlice
  dsimp only
  (repeat' split) <;> simp [*]

@[simp] theorem State.busy_anchored (s : State) (e : Nat) (r : Slice) : s.Anchored (s.busy e r) := by
  unfold State.busy
  dsimp only
  (repeat' split) <;> simp [*]

@[simp] theorem State.collide_anchored (s : State) (g : Nat) (rd wr : Nat × Slice) (tile : Bool) : s.Anchored (s.collide g rd wr tile) := by simp [State.collide]
@[simp] theorem State.clash_anchored (s : State) (g e : Nat) (r : Slice) : s.Anchored (s.clash g e r) := by simp [State.clash]
@[simp] theorem State.clashDone_anchored (s : State) (g e : Nat) (r : Slice) : s.Anchored (s.clashDone g e r) := by simp [State.clashDone]

@[simp] theorem State.clashRun_anchored (s : State) (g e : Nat) : s.Anchored (s.clashRun g e) := by
  unfold State.clashRun
  split <;> simp

@[simp] theorem State.clashLand_anchored (s : State) (c : Nat) (q : Req) (o n : Nat) : s.Anchored (s.clashLand c q o n) := by simp [State.clashLand]

@[simp] theorem State.flushAll_anchored (s : State) (c e : Nat) : s.Anchored (s.flushAll c e).1 := by
  unfold State.flushAll
  split <;> simp

/-- A task whose units and whose end leave memory and fuses alone. -/
structure Task.Anchored (t : Machine.Task) : Prop where
  apply (s : State) (o : Op) (u : Nat) : s.Anchored (t.apply s o u).1
  close (s : State) (last : Bool) : s.Anchored (t.close s last)



@[simp] theorem State.askUnits_anchored (t : Machine.Task) (c e fuel left u : Nat) (s : State) : s.Anchored (State.askUnits t c e fuel left u s).1 := by
  induction fuel generalizing left u s with
  | zero => exact ⟨rfl, rfl⟩
  | succ fuel ih =>
    unfold State.askUnits
    split
    next => exact ⟨rfl, rfl⟩
    next o _ =>
      split
      next => exact ⟨rfl, rfl⟩
      next =>
        split
        next => exact ⟨rfl, rfl⟩
        next =>
          have asked := s.askReads_anchored c e (t.needs s o u)
          split
          next got =>
            split
            · exact asked.of_fst got
            · exact (asked.of_fst got).trans (ih ..)
          next => exact asked

theorem State.applyUnits_anchored {t : Machine.Task} (task : t.Anchored) (c e fuel left : Nat) (s : State) : s.Anchored (State.applyUnits t c e fuel left s).1 := by
  induction fuel generalizing left s with
  | zero => exact ⟨rfl, rfl⟩
  | succ fuel ih =>
    unfold State.applyUnits
    dsimp only
    split
    next => exact ⟨rfl, rfl⟩
    next o _ =>
      split
      next => exact ⟨rfl, rfl⟩
      next =>
        split
        next => exact ⟨rfl, rfl⟩
        next =>
          split
          next => exact ⟨rfl, rfl⟩
          next =>
            have applied := (s.noteRead_anchored c e false (t.banks s o o.unit)).trans (task.apply _ o o.unit)
            split
            next got =>
              have unit (s : State) (v : Nat) : s.Anchored ((s.updOp c e (fun o => { o with unit := v })).flushAll c e).1 := (State.updOp_anchored ..).trans (State.flushAll_anchored ..)
              refine (applied.of_fst got).trans ?_
              split
              next got => exact ((unit ..).of_fst got).trans (ih ..)
              next got => exact (unit ..).of_fst got
            next got => exact applied.of_fst got

@[simp] theorem State.blockFor_anchored (s : State) (c e : Nat) (w : Sent) : s.Anchored (s.blockFor c e w) := by
  unfold State.blockFor
  split <;> simp

@[simp] theorem State.blockIds_anchored (s : State) (c e : Nat) (ids : List Nat) (w : Sent) : s.Anchored (s.blockIds c e ids w) := by simp [State.blockIds]

@[simp] theorem State.blockReads_anchored (s : State) (c e : Nat) (miss : List (Nat × Nat)) (w : Sent) : s.Anchored (s.blockReads c e miss w) := by
  unfold State.blockReads
  split <;> simp

theorem State.fill_anchored {t : Machine.Task} (task : t.Anchored) (c e more fuel left : Nat) (s : State) : s.Anchored (State.fill t c e more fuel left s).1 := by
  induction fuel generalizing left s with
  | zero => exact ⟨rfl, rfl⟩
  | succ fuel ih =>
    have filled (u : Nat) : s.Anchored (State.applyUnits t c e (left + 4 + more) left (State.askUnits t c e (left + 1) left u s).1).1 :=
      (State.askUnits_anchored ..).trans (State.applyUnits_anchored task ..)
    unfold State.fill
    dsimp only
    split
    next got =>
      have done := (filled _).of_fst got
      repeat' split
      all_goals first
        | exact done
        | exact done.trans (ih ..)
    next got => exact (filled _).of_fst got

theorem State.endSlice_anchored {t : Machine.Task} (task : t.Anchored) (c e : Nat) (stop : Stop) (w : Sent) (s : State) : s.Anchored (State.endSlice t c e stop w s) := by
  have closed : s.Anchored (((((t.close s (stop = .last)).flushAll c e).1).clashRun (c / 16) e).checkDone c e) :=
    (task.close ..).trans ((State.flushAll_anchored ..).trans ((State.clashRun_anchored ..).trans (State.checkDone_anchored ..)))
  unfold State.endSlice
  dsimp only
  split
  next => exact closed
  next =>
    split
    next => exact closed
    next =>
      split
      · exact closed.trans (State.blockIds_anchored ..)
      · exact closed.trans (State.blockFor_anchored ..)
      · exact closed
      · exact closed.trans (State.blockFor_anchored ..)

@[simp] theorem State.slice_anchored {t : Machine.Task} (task : t.Anchored) (c e n : Nat) (s : State) : s.Anchored (State.slice t c e n s) := by
  unfold State.slice
  split
  next got =>
    refine ((State.flushAll_anchored ..).of_fst got).trans ?_
    extract_lets more
    clear_value more
    split
    next got =>
      refine ((State.applyUnits_anchored task ..).of_fst got).trans ?_
      split
      next => exact State.endSlice_anchored task ..
      next =>
        split
        next got =>
          have filled := (State.fill_anchored task ..).of_fst got
          split
          · exact filled.trans (State.updRun_anchored ..)
          · exact filled.trans (State.endSlice_anchored task ..)
        next got => exact ((State.fill_anchored task ..).of_fst got).trans (State.endSlice_anchored task ..)
  next got => exact ((State.flushAll_anchored ..).of_fst got).trans (State.blockFor_anchored ..)

@[simp] theorem State.closeWith_anchored (c e : Nat) (st : Status) (s : State) (last : Bool) : s.Anchored (State.closeWith c e st s last) := by
  unfold State.closeWith
  split <;> simp

@[simp] theorem State.doneIf_anchored (s : State) (c e : Nat) (outc : Bool) : s.Anchored (s.doneIf c e outc) := by
  unfold State.doneIf
  dsimp only
  (repeat' split) <;> simp [*]

@[simp] theorem State.sendOr_anchored (s : State) (c e : Nat) (o : Op) (a n : Nat) (k : Pkt) (pos : Nat) (dest : Dest) : s.Anchored (s.sendOr c e o a n k pos dest).1 := by
  unfold State.sendOr
  split
  next => exact State.failAt_anchored ..
  next =>
    split
    next got => exact ((State.request_anchored ..).of_fst got).trans (State.failAt_anchored ..)
    next => exact State.request_anchored ..

theorem taskLd_anchored (c : Nat) : (taskLd c).Anchored where
  apply s o u := by
    simp [taskLd]
  close s last := by
    exact State.closeWith_anchored ..

theorem taskSt_anchored (c : Nat) : (taskSt c).Anchored where
  apply s o u := by
    simp [taskSt]
  close s last := by
    exact State.closeWith_anchored ..

theorem taskLostClr_anchored (c : Nat) : (taskLostClr c).Anchored where
  apply s o u := by
    simp [taskLostClr]
  close s last := by
    exact State.closeWith_anchored ..

theorem taskMove_anchored (c : Nat) : (taskMove c).Anchored where
  apply s o u := by
    dsimp only [taskMove]
    repeat' split
    all_goals simp
  close s last := by
    exact State.closeWith_anchored ..

theorem taskFill_anchored (c : Nat) : (taskFill c).Anchored where
  apply s o u := by
    simp [taskFill]
  close s last := by
    exact State.closeWith_anchored ..

@[simp] theorem State.sendLists_anchored (s : State) (c : Nat) (o : Op) (l : List (Eid × List (Nat × Nat))) : s.Anchored (s.sendLists c o l).1 := by
  have zeroed (s : State) (st : Status) (base : Nat) (l : List (Nat × Nat)) :
      s.Anchored (l.foldl (fun s x => (s.bankPut c eGath (base + 128 * x.1) (Data.clean (List.replicate 128 0))).failAt c eGath x.1 st) s) :=
    State.Anchored.foldl (fun s x => (State.bankPut_anchored ..).trans (State.failAt_anchored ..)) l s
  induction l generalizing s with
  | nil => exact ⟨rfl, rfl⟩
  | cons d l ih =>
    unfold State.sendLists
    dsimp only
    split
    next => exact ih s
    next =>
      split
      next got => exact ((State.request_anchored ..).of_fst got).trans (State.Anchored.trans (State.updOp_anchored ..) (ih _))
      next got => exact ((State.request_anchored ..).of_fst got).trans ((zeroed ..).trans (ih _))
      next => exact State.request_anchored ..

theorem taskPrefetch_anchored (c : Nat) : (taskPrefetch c).Anchored where
  apply s o u := by
    dsimp only [taskPrefetch]
    split
    next => simp
    next =>
      split
      next => simp
      next p _ =>
        have asked (l : List Nat) : s.Anchored (s.askAddrs p (c / 16) (some (s.ctx c).segs) true false l).1 := State.askAddrs_anchored ..
        split
        next => exact asked _
        next =>
          have failed (base : Nat) (l : List (Nat × Status)) (s : State) : s.Anchored (l.foldl (fun s x =>
              (s.bankPut c eGath (base + 128 * x.1) (Data.clean (List.replicate 128 0))).failAt c eGath x.1 x.2) s) :=
            State.Anchored.foldl (fun s x => (State.bankPut_anchored ..).trans (State.failAt_anchored ..)) l s
          have checked (l : List (Nat × Nat)) (a : State × List (Nat × Nat × Chk)) := State.Anchored.foldl_fst (f := fun (x : State × List (Nat × Nat × Chk)) (y : Nat × Nat) =>
            ((x.1.checkAddr p (c / 16) (some (s.ctx c).segs) y.2 128 true false).1, x.2 ++ [(y.1, y.2, (x.1.checkAddr p (c / 16) (some (s.ctx c).segs) y.2 128 true false).2)]))
            (fun x y => State.checkAddr_anchored ..) l a
          split
          next got => exact (asked _).trans ((checked _ (_, [])).trans ((failed ..).trans (((State.sendLists_anchored ..).of_fst got).trans (State.updOp_anchored ..))))
          next => exact (asked _).trans ((checked _ (_, [])).trans ((failed ..).trans (State.sendLists_anchored ..)))
  close s last := by
    exact State.closeWith_anchored ..

theorem taskAtomic_anchored (c : Nat) : (taskAtomic c).Anchored where
  apply s o u := by
    dsimp only [taskAtomic]
    repeat' split
    all_goals simp
  close s last := by
    exact State.closeWith_anchored ..

@[simp] theorem State.awaitEnd_anchored (s : State) (c : Nat) : s.Anchored (s.awaitEnd c) := ⟨rfl, rfl⟩

theorem taskRjoin_anchored (c : Nat) : (taskRjoin c).Anchored where
  apply s o u := by
    dsimp only [taskRjoin]
    repeat' split
    all_goals simp
  close s last := by
    exact State.closeWith_anchored ..

theorem taskRwait_anchored (c : Nat) : (taskRwait c).Anchored where
  apply s o u := by
    dsimp only [taskRwait]
    repeat' split
    all_goals simp
  close s last := by
    exact ⟨rfl, rfl⟩

theorem taskRcontrib_anchored (c : Nat) : (taskRcontrib c).Anchored where
  apply s o u := by
    dsimp only [taskRcontrib]
    repeat' split
    all_goals simp
  close s last := by
    dsimp only [taskRcontrib]
    repeat' split
    all_goals simp

@[simp] theorem State.sendDeliv_anchored (s : State) (c mt group : Nat) (x : Slot) (v : List Byte) :
    s.Anchored (s.sendDeliv c mt group x v) := by simp [State.sendDeliv]

@[simp] theorem State.deliv_anchored (s : State) (c group did woff : Nat) (v : Data) (fail : Bool) :
    s.Anchored (s.deliv c group did woff v fail) := by simp [State.deliv]

@[simp] theorem State.ddone_anchored (s : State) (c group did : Nat) : s.Anchored (s.ddone c group did) := by
  unfold State.ddone
  split <;> simp

@[simp] theorem State.gatherAt_anchored (s : State) (c : Nat) (o : Op) (u : Nat) : s.Anchored (s.gatherAt c o u) := by simp [State.gatherAt]

theorem taskGather_anchored (c : Nat) : (taskGather c).Anchored where
  apply s o u := by
    exact State.gatherAt_anchored ..
  close s last := by
    dsimp only [taskGather]
    repeat' split
    all_goals simp

@[simp] theorem State.scatterAt_anchored (s : State) (c : Nat) (o : Op) (u : Nat) : s.Anchored (s.scatterAt c o u).1 := by
  unfold State.scatterAt
  dsimp only
  (repeat' split) <;> simp [*]

theorem taskScatter_anchored (c : Nat) : (taskScatter c).Anchored where
  apply s o u := by
    exact State.scatterAt_anchored ..
  close s last := by
    exact State.closeWith_anchored ..

theorem taskMcast_anchored (c : Nat) : (taskMcast c).Anchored where
  apply s o u := by
    dsimp only [taskMcast]
    repeat' split
    all_goals simp
  close s last := by
    dsimp only [taskMcast]
    repeat' split
    all_goals simp

@[simp] theorem State.pageAct_anchored (s : State) (p n : Nat) (e : Pte) (i : Insn) : s.Anchored (s.pageAct p n e i).1 := by
  unfold State.pageAct
  dsimp only
  repeat' split
  all_goals first
    | exact ⟨rfl, rfl⟩
    | exact State.noCapacity_anchored ..
    | simpa using State.placePage_anchored ‹State.placePage _ _ _ _ _ = some _›

theorem taskPages_anchored (c : Nat) : (taskPages c).Anchored where
  apply s o u := by
    dsimp only [taskPages]
    have read (p n : Nat) : s.Anchored (s.translate p (c / 16) n).1 := State.translate_anchored ..
    split
    next => simp
    next p _ =>
      split
      next got => exact (read ..).of_fst got
      next got => exact ((read ..).of_fst got).trans (by simp)
      next got =>
        have used := ((read ..).of_fst got).trans (State.xlateUsed_anchored _ p (c / 16) (o.next + u))
        split
        next => exact used
        next =>
          split
          · exact used.trans (State.pageAct_anchored ..)
          · exact used.trans ((State.pageAct_anchored ..).trans (State.updOp_anchored ..))
  close s last := by
    exact State.closeWith_anchored ..

theorem taskPublish_anchored (c : Nat) : (taskPublish c).Anchored where
  apply s o u := by
    dsimp only [taskPublish]
    split
    next => simp
    next p _ =>
      split
      next => simp
      next =>
        split
        next => simp
        next =>
          split
          next got => exact (State.checkAddr_anchored ..).of_fst got
          next got => exact ((State.checkAddr_anchored ..).of_fst got).trans (State.failAt_anchored ..)
          next got =>
            have checked := (State.checkAddr_anchored ..).of_fst got
            split
            · exact checked.trans (State.failAt_anchored ..)
            · split
              · exact checked.trans (State.failAt_anchored ..)
              · exact checked.trans ((State.addReq_anchored ..).trans (State.updBlk_anchored ..))
  close s last := by
    exact State.closeWith_anchored ..

@[simp] theorem State.pubEnd_anchored (s : State) (g : Nat) (u : Pub) (st : Status) : s.Anchored (s.pubEnd g u st) := by
  unfold State.pubEnd
  dsimp only
  (repeat' split) <;> simp [*]

@[simp] theorem State.askPages_anchored (s : State) (p g : Nat) (ns : List Nat) : s.Anchored (s.askPages p g ns).1 :=
  State.Anchored.foldl_fst (f := fun (a : State × Bool) n => ((a.1.translate p g n).1, _)) (fun a n => State.translate_anchored ..) ns (s, false)

@[simp] theorem State.pubConflict_anchored (s : State) (g p : Nat) (u : Pub) (old : List Byte) : s.Anchored (s.pubConflict g p u old) := by simp [State.pubConflict]

theorem State.pubAccept_anchored {s : State} {g p : Nat} {u : Pub} {ks : List (Nat × Bool)} {t : State} (h : s.pubAccept g p u ks = some t) : s.Anchored t := by
  unfold State.pubAccept at h
  dsimp only at h
  split at h
  next =>
    cases h
    cases evicted : s.evictWay g p u.root with
    | none => exact ⟨rfl, rfl⟩
    | some v => exact State.evictWay_anchored evicted
  next =>
    split at h
    next =>
      cases h
      simp
    next =>
      split at h
      next => cases h
      next =>
        obtain ⟨v, sent, rfl⟩ := Option.map_eq_some_iff.1 h
        simpa using State.snoops_anchored sent

theorem State.Anchored.pubAccept {s t w : State} (seen : s.Anchored w) (kept : s.Anchored t) (g p : Nat) (u : Pub) (ks : List (Nat × Bool)) : s.Anchored ((t.pubAccept g p u ks).getD w) := by
  cases taken : t.pubAccept g p u ks with
  | none => exact seen
  | some v => exact kept.trans (State.pubAccept_anchored taken)

@[simp] theorem State.pubDecide_anchored (s : State) (g p : Nat) (u : Pub) : s.Anchored (s.pubDecide g p u) := by
  have used (t : State) : t.Anchored ((u.root / 2 ^ 21 :: u.pages).foldl (fun s n => s.xlateUsed p g n) t) := State.Anchored.foldl (fun s n => State.xlateUsed_anchored ..) _ t
  unfold State.pubDecide
  extract_lets n
  split
  next got =>
    have asked := (State.askPages_anchored ..).of_fst got
    split
    next => exact asked
    next =>
      extract_lets known old vc same tier pg keys split_ w placed
      have seen : s.Anchored w := asked.trans (used _)
      have put (t : State) (got : placed = some t) : s.Anchored t := by
        unfold placed at got
        split at got
        · exact seen.trans (State.placePage_anchored got)
        · cases got
          exact seen
      clear_value w placed keys
      have ends (t : State) (st : Status) (kept : s.Anchored t) : s.Anchored (t.pubEnd g u st) := kept.trans (State.pubEnd_anchored ..)
      split
      · exact ends w _ seen
      split
      · exact ends w _ seen
      split
      · exact ends w _ seen
      split
      · exact ends w _ seen
      split
      · exact ends _ _ (seen.trans (State.pubConflict_anchored ..))
      split
      · exact ends w _ seen
      split
      · exact ends w _ seen
      split
      · exact ends w _ seen
      split
      · exact ends _ _ (seen.trans (State.noCapacity_anchored ..))
      · exact seen.pubAccept ((put _ rfl).trans (State.touchPage_anchored ..)) ..

@[simp] theorem State.writeSelf_anchored (s : State) (v : BitVec 64) : s.Anchored (s.writeSelf v) := by simp [State.writeSelf]
@[simp] theorem State.writePeriph_anchored (s : State) (v : BitVec 64) : s.Anchored (s.writePeriph v) := ⟨rfl, rfl⟩
@[simp] theorem State.writeLed_anchored (s : State) (v : BitVec 64) : s.Anchored (s.writeLed v) := by simp [State.writeLed]

/-- A write that may be refused leaves memory and fuses alone. -/
def State.Anchors (s : State) (a : Option State) : Prop := ∀ t, a = some t → s.Anchored t

theorem State.Anchors.none {s : State} : s.Anchors none := fun _ h => nomatch h

theorem State.Anchors.some {s t : State} (kept : s.Anchored t) : s.Anchors (some t) := fun _ h => Option.some.inj h ▸ kept

theorem State.Anchors.ite {c : Prop} [Decidable c] {s : State} {a b : Option State} (yes : s.Anchors a) (no : s.Anchors b) : s.Anchors (if c then a else b) := by
  split
  · exact yes
  · exact no

theorem State.writeSq_anchored (s : State) (o : Nat) (v : BitVec 64) : s.Anchors (s.writeSq o v) := by
  unfold State.writeSq
  repeat' refine State.Anchors.ite ?_ ?_
  all_goals first
    | exact .none
    | exact .some (by simp)

theorem State.writeLane_anchored (s : State) (l o : Nat) (v : BitVec 64) : s.Anchors (s.writeLane l o v) := by
  unfold State.writeLane
  repeat' refine State.Anchors.ite ?_ ?_
  all_goals first
    | exact .none
    | exact .some ⟨rfl, rfl⟩

theorem State.writeBk_anchored (s : State) (g o : Nat) (v : BitVec 64) : s.Anchors (s.writeBk g o v) := by
  unfold State.writeBk
  extract_lets upd
  have upds (f : Block → Block) : s.Anchors (upd f) := .some (State.updBlk_anchored ..)
  clear_value upd
  repeat' refine State.Anchors.ite ?_ ?_
  all_goals first
    | exact upds _
    | exact .none

theorem State.writeQt_anchored (s : State) (q o : Nat) (v : BitVec 64) : s.Anchors (s.writeQt q o v) := by
  unfold State.writeQt
  extract_lets upd
  have upds (f : Quarter → Quarter) : s.Anchors (upd f) := .some ⟨rfl, rfl⟩
  clear_value upd
  repeat' refine State.Anchors.ite ?_ ?_
  all_goals first
    | exact upds _
    | exact .none
    | exact State.writeLane_anchored s _ _ _
    | exact State.writeBk_anchored s _ _ _
    | exact .some ⟨rfl, rfl⟩

@[simp] theorem State.updWindow_anchored (s : State) (m : Mctp) (f : Window → Window) : s.Anchored (s.updWindow m f) := by
  unfold State.updWindow
  split <;> simp

@[simp] theorem State.go_anchored (s : State) (m : Mctp) (v : BitVec 64) : s.Anchored (s.go m v) := by simp [State.go]
@[simp] theorem State.writeWindow_anchored (s : State) (m : Mctp) (o : Nat) (v : BitVec 64) : s.Anchored (s.writeWindow m o v) := by simp [State.writeWindow]

theorem State.writeReg_anchored {s : State} {o : Nat} {v : BitVec 64} {t : State} (h : s.writeReg o v = some t) : s.Anchored t := by
  refine (?_ : s.Anchors (s.writeReg o v)) t h
  exact State.Anchors.ite (State.writeSq_anchored s _ _) (State.Anchors.ite (State.writeQt_anchored s _ _ _) .none)

@[simp] theorem State.spdmSay_anchored (s : State) (m : Mctp) (code : Nat) (body : List Byte) : s.Anchored (s.spdmSay m code body) := ⟨rfl, rfl⟩
@[simp] theorem State.spdmError_anchored (s : State) (m : Mctp) (code : Nat) : s.Anchored (s.spdmError m code) := ⟨rfl, rfl⟩
@[simp] theorem State.setDebug_anchored (s : State) (level : DebugLevel) : s.Anchored (s.setDebug level) := by simp [State.setDebug]

@[simp] theorem State.imageAsk_anchored (s : State) (c : Nat) (l : List (Nat × Nat)) : s.Anchored (s.imageAsk c l) := by
  induction l generalizing s with
  | nil => exact ⟨rfl, rfl⟩
  | cons x l ih =>
    unfold State.imageAsk
    dsimp only
    split
    next => exact ⟨rfl, rfl⟩
    next =>
      split
      next => exact ih s
      next =>
        split
        next => exact State.Anchored.trans ⟨rfl, rfl⟩ (ih _)
        next =>
          split
          next got => exact ((State.request_anchored ..).of_fst got).trans (ih _)
          next got => exact ((State.request_anchored ..).of_fst got).trans (State.Anchored.trans ⟨rfl, rfl⟩ (ih _))
          next got => exact (State.request_anchored ..).of_fst got

@[simp] theorem State.imageRead_anchored (s : State) (c : Nat) : s.Anchored (s.imageRead c) := by
  unfold State.imageRead
  split <;> simp

@[simp] theorem State.imageTake_anchored (s : State) (c o : Nat) (v : List Byte) (st : Status) : s.Anchored (s.imageTake c o v st) := by simp [State.imageTake]
@[simp] theorem State.submitRefuse_anchored (s : State) (c : Nat) (st : Status) : s.Anchored (s.submitRefuse c st) := by simp [State.submitRefuse]
@[simp] theorem State.startProg_anchored (s : State) (c : Nat) (v : List Byte) : s.Anchored (s.startProg c v) := by simp [State.startProg]
@[simp] theorem State.updReq_anchored (s : State) (c id : Nat) (f : Req → Req) : s.Anchored (s.updReq c id f) := ⟨rfl, rfl⟩

@[simp] theorem State.finishReq_anchored (s : State) (c : Nat) (r : Req) (st : Status) (data : List Byte) (eq keepTag : Bool) :
    s.Anchored (s.finishReq c r st data eq keepTag) := by
  unfold State.finishReq
  split <;> simp

@[simp] theorem State.failReq_anchored (s : State) (c : Nat) (r : Req) (st : Status) (keepTag : Bool) : s.Anchored (s.failReq c r st keepTag) := by
  unfold State.failReq
  split <;> simp

@[simp] theorem State.relist_anchored (s : State) (p c : Nat) (r : Req) (offs : List Nat) : s.Anchored (s.relist p c r offs).1 := by
  have asked := s.askAddrs_anchored p (c / 16) (some (s.ctx c).segs) true false r.msg.pkt.listAddrs
  unfold State.relist
  dsimp only
  split
  next => exact asked
  next =>
    have failed (live : Bool) (cs : List (Nat × Nat × Chk)) (s : State) : s.Anchored (cs.foldl (fun s x => match x.2.2 with
        | .bad st => if live then (s.bankWrite c x.2.1 (List.replicate 128 0) false).failAt c r.eng.toNat ((s.bankWrite c x.2.1 (List.replicate 128 0) false).linePos c r x.2.1) st
          else s.bankWrite c x.2.1 (List.replicate 128 0) false
        | _ => s) s) := by
      refine State.Anchored.foldl (fun s x => ?_) cs s
      repeat' split
      all_goals simp
    have checked := asked.trans ((State.Anchored.foldl_fst (f := fun (x : State × List (Nat × Nat × Chk)) (y : Nat × Nat) =>
      ((x.1.checkAddr p (c / 16) (some (s.ctx c).segs) y.1 128 true false).1, x.2 ++ [(y.1, y.2, (x.1.checkAddr p (c / 16) (some (s.ctx c).segs) y.1 128 true false).2)]))
      (fun x y => State.checkAddr_anchored ..) (r.msg.pkt.listAddrs.zip offs) (_, [])))
    split
    next => exact checked.trans (failed ..)
    next => exact checked.trans ((failed ..).trans (State.Anchored.trans (State.Anchored.foldl (fun s x => State.addReq_anchored ..) _ _) (State.updReq_anchored ..)))

@[simp] theorem State.resendOne_anchored (s : State) (c : Nat) (r : Req) : s.Anchored (s.resendOne c r) := by
  unfold State.resendOne
  dsimp only
  split
  next => exact ⟨rfl, rfl⟩
  next p _ =>
    split
    next => simp
    next =>
      have asked := s.forward_anchored p (c / 16) { pkt := { s.ownPkt p r.msg.pkt with tag := r.msg.pkt.tag }, asker := .req c r.id } (some (s.ctx c).segs)
      refine asked.trans ?_
      clear asked
      generalize s.forward p (c / 16) { pkt := { s.ownPkt p r.msg.pkt with tag := r.msg.pkt.tag }, asker := .req c r.id } (some (s.ctx c).segs) = x
      split
      next => simp
      next => split <;> simp
      next => simp
      next =>
        split
        next => simp
        next =>
          split
          next => simp
          next =>
            split
            next => simp
            next got =>
              refine (State.tagTake_anchored got).trans ?_
              dsimp only
              split <;> simp
      next => simp

@[simp] theorem State.resend_anchored (s : State) (c : Nat) (r : Req) : s.Anchored (s.resend c r) := by
  unfold State.resend
  split
  next =>
    split
    next got => exact ((State.relist_anchored ..).of_fst got).trans (State.updReq_anchored ..)
    next got => exact ((State.relist_anchored ..).of_fst got).trans (State.finishReq_anchored ..)
    next got => exact ((State.relist_anchored ..).of_fst got).trans (State.resendOne_anchored ..)
  next => exact State.resendOne_anchored ..

@[simp] theorem State.refused_anchored (s : State) (c : Nat) (r : Req) (st : Status) : s.Anchored (s.refused c r st) := by simp [State.refused]
@[simp] theorem State.takeLines_anchored (s : State) (c : Nat) (k : Pkt) (offs : List Nat) : s.Anchored (s.takeLines c k offs).1 := by simp [State.takeLines]

@[simp] theorem State.performed_anchored (s : State) (c : Nat) (r : Req) (k : Pkt) : s.Anchored (s.performed c r k) := by
  unfold State.performed
  dsimp only
  (repeat' split) <;> simp [*]

@[simp] theorem State.takeFor_anchored (s : State) (c id : Nat) (k : Pkt) (mt : Nat) (tagged : Bool) : s.Anchored (s.takeFor c id k mt tagged) := by
  unfold State.takeFor
  split <;> simp

@[simp] theorem State.takePte_anchored (s : State) (p n : Nat) (k : Pkt) (mt : Nat) (wire : Option Eid) : s.Anchored (s.takePte p n k mt wire) := by
  unfold State.takePte
  (repeat' split) <;> simp [*]

@[simp] theorem State.takeProxy_anchored (s : State) (g j : Nat) (k : Pkt) (mt : Nat) : s.Anchored (s.takeProxy g j k mt) := by
  unfold State.takeProxy
  split <;> simp

@[simp] theorem State.takeAnswer_anchored (s : State) (g mt : Nat) : s.Anchored (s.takeAnswer g mt) := by
  unfold State.takeAnswer
  split
  next => exact ⟨rfl, rfl⟩
  next got =>
    refine (State.takeTc3_anchored got).trans (State.Anchored.trans ?_ (State.review_anchored _))
    dsimp only
    repeat' split
    all_goals simp

@[simp] theorem State.noteTile_anchored (s : State) (c : Nat) (o : Op) : s.Anchored (s.noteTile c o) := by
  unfold State.noteTile
  split <;> simp

@[simp] theorem State.countTile_anchored (s : State) (c : Nat) (o : Op) : s.Anchored (s.countTile c o) := by
  unfold State.countTile
  split <;> simp

@[simp] theorem State.countScores_anchored (s : State) (c n nan : Nat) : s.Anchored (s.countScores c n nan) := ⟨rfl, rfl⟩

@[simp] theorem State.scoreLoad_anchored (s : State) (c : Nat) (o : Op) : s.Anchored (s.scoreLoad c o) := by
  unfold State.scoreLoad
  dsimp only
  (repeat' split) <;> simp [*]

@[simp] theorem State.scoreTile_anchored (s : State) (c : Nat) (o : Op) : s.Anchored (s.scoreTile c o) := by
  unfold State.scoreTile
  dsimp only
  (repeat' split) <;> simp [*]

@[simp] theorem State.scoreOut_anchored (s : State) (c : Nat) (o : Op) : s.Anchored (s.scoreOut c o) := by
  unfold State.scoreOut
  split <;> simp

theorem taskScore_anchored (c : Nat) : (taskScore c).Anchored where
  apply s o u := by
    dsimp only [taskScore]
    repeat' split
    all_goals simp
  close s last := by
    dsimp only [taskScore]
    repeat' split
    all_goals simp

@[simp] theorem State.simbPair_anchored (c : Nat) (o : Op) (s : State) (k : Nat) : s.Anchored (State.simbPair c o s k) := by
  unfold State.simbPair
  (repeat' split) <;> simp [*]

theorem taskSimb_anchored (c : Nat) : (taskSimb c).Anchored where
  apply s o u := by
    exact State.Anchored.foldl (fun s k => State.simbPair_anchored ..) _ s
  close s last := by
    exact State.closeWith_anchored ..

@[simp] theorem State.skipPoison_anchored (s : State) (c : Nat) (o : Op) (i : Nat) : s.Anchored (s.skipPoison c o i) := by simp [State.skipPoison]
@[simp] theorem State.countRec_anchored (s : State) (c : Nat) (o : Op) : s.Anchored (s.countRec c o) := by simp [State.countRec]
@[simp] theorem State.skipRec_anchored (s : State) (c : Nat) (o : Op) (i : Nat) (passed : Bool) : s.Anchored (s.skipRec c o i passed) := by simp [State.skipRec]

theorem State.tallyPut_anchored {s : State} {c : Nat} {o : Op} {img : List Byte} {t : State} {spilled : Bool} (h : s.tallyPut c o img = .ok t spilled) : s.Anchored t := by
  -- by the definition as a constant: unfolded at its arguments, the kernel would evaluate the search for a cell
  have unfolded : @State.tallyPut = @State.tallyPut := rfl
  conv at unfolded =>
    rhs
    delta State.tallyPut
  rw [congrFun (congrFun (congrFun (congrFun unfolded s) c) o) img] at h
  generalize (s.blk (c / 16)).place o.x img = p at h
  cases p with
  | ok b =>
    injection h with same
    rw [← same]
    exact ⟨rfl, rfl⟩
  | poison => cases h
  | full =>
    dsimp only at h
    split at h
    next =>
      injection h with same
      rw [← same]
      exact (State.put_anchored ..).trans (State.Anchored.trans (State.updOp_anchored ..) (State.updBlk_anchored ..))
    next => cases h

@[simp] theorem State.noPlace_anchored (s : State) (c : Nat) (o : Op) : s.Anchored (s.noPlace c o) := ⟨rfl, rfl⟩

@[simp] theorem State.pollCons_anchored (s : State) (c : Nat) : s.Anchored (s.pollCons c) := by
  unfold State.pollCons
  split <;> simp

@[simp] theorem State.survive_anchored (s : State) (c : Nat) (o : Op) (i score : Nat) : s.Anchored (s.survive c o i score) := by
  unfold State.survive
  dsimp only
  split
  next => simp
  next =>
    split
    next => split <;> simp
    next =>
      split
      next => simp
      next => simp
      next got =>
        refine State.Anchored.trans (t := _) (by
          split at got
          · exact State.tallyPut_anchored got
          · cases got
            exact ⟨rfl, rfl⟩) (State.Anchored.trans (State.Anchored.trans ?_ (State.countRec_anchored ..)) (State.updOp_anchored ..))
        repeat' split
        all_goals simp

@[simp] theorem State.commitOne_anchored (s : State) (c : Nat) (o : Op) : s.Anchored (s.commitOne c o) := by
  unfold State.commitOne
  (repeat' split) <;> simp [*]

@[simp] theorem State.scanRecord_anchored (s : State) (c : Nat) (o : Op) (i : Nat) : s.Anchored (s.scanRecord c o i).1 := by
  unfold State.scanRecord
  dsimp only
  repeat' split
  all_goals first
    | simp; done
    | simpa using State.tallyPut_anchored ‹State.tallyPut _ _ _ _ = .ok _ _›

@[simp] theorem State.scanStart_anchored (s : State) (c : Nat) (o : Op) : s.Anchored (s.scanStart c o).1 := by
  unfold State.scanStart
  dsimp only
  (repeat' split) <;> simp [*]

@[simp] theorem State.tookCons_anchored (s : State) (c : Nat) (o : Op) : s.Anchored (s.tookCons c o) := ⟨rfl, rfl⟩

@[simp] theorem State.putHeader_anchored (s : State) (c : Nat) (o : Op) (st : Status) : s.Anchored (s.putHeader c o st) := by
  unfold State.putHeader
  (repeat' split) <;> simp [*]

@[simp] theorem State.publishRing_anchored (s : State) (c : Nat) (o : Op) : s.Anchored (s.publishRing c o).1 := by
  unfold State.publishRing
  (repeat' split) <;> simp [*]

@[simp] theorem State.scanClose_anchored (s : State) (c : Nat) : s.Anchored (s.scanClose c) := by
  unfold State.scanClose
  split
  next => exact ⟨rfl, rfl⟩
  next o _ =>
    split
    next => exact ⟨rfl, rfl⟩
    next =>
      split
      next =>
        split
        · exact ⟨rfl, rfl⟩
        · exact (State.setOp_anchored ..).trans (State.publishRing_anchored ..)
      next =>
        extract_lets o1 o2 rs l o3 t o4
        have kept : s.Anchored t := State.setOp_anchored ..
        clear_value t o3 o4
        split
        · split
          · exact kept
          · exact kept.trans (State.putHeader_anchored ..)
        · exact kept.trans (State.putHeader_anchored ..)
        · exact kept.trans (State.publishRing_anchored ..)
        · exact kept.trans (State.publishRing_anchored ..)
        · exact kept.trans (State.doneIf_anchored ..)
        · have flushed : s.Anchored ((((t.setOp c eFilt (some o4)).putHeader c o4 stOk).flushAll c eFilt).1) :=
            kept.trans ((State.setOp_anchored ..).trans ((State.putHeader_anchored ..).trans (State.flushAll_anchored ..)))
          split
          next v o5 got =>
            have left : s.Anchored v := by
              split at got
              · cases got
                exact flushed
              · cases got
                exact kept
            split
            · exact left
            · split
              · exact left.trans ((State.setOp_anchored ..).trans ((State.putHeader_anchored ..).trans (State.doneIf_anchored ..)))
              · exact left.trans ⟨rfl, rfl⟩

theorem taskScan_anchored (c : Nat) : (taskScan c).Anchored where
  apply s o u := by
    dsimp only [taskScan]
    repeat' split
    all_goals simp
  close s last := by
    exact State.scanClose_anchored ..

@[simp] theorem State.undefinedOut_anchored (s : State) (c : Nat) (o : Op) : s.Anchored (s.undefinedOut c o) := by simp [State.undefinedOut]

@[simp] theorem State.scanTile_anchored (s : State) (c : Nat) (o : Op) : s.Anchored (s.scanTile c o) := by
  unfold State.scanTile
  extract_lets t
  have noted : s.Anchored t := (State.countTile_anchored ..).trans (State.noteTile_anchored ..)
  clear_value t
  split
  next => exact noted.trans ((State.setOp_anchored ..).trans (State.scanClose_anchored ..))
  next => exact noted.trans ((State.undefinedOut_anchored ..).trans (State.Anchored.trans (State.Anchored.trans (State.updBlk_anchored ..) (State.updOp_anchored ..)) (State.scanClose_anchored ..)))
  next => exact noted.trans ((State.setOp_anchored ..).trans (State.clashRun_anchored ..))
  next =>
    extract_lets vs u scored_ v
    have scored : s.Anchored v := noted.trans ((State.countScores_anchored ..).trans (State.setOp_anchored ..))
    clear_value v
    split
    next got =>
      have applied := scored.trans ((State.applyUnits_anchored (taskScan_anchored c) ..).of_fst got)
      extract_lets w
      have closed : s.Anchored w := applied.trans (State.scanClose_anchored ..)
      clear_value w
      split
      next got =>
        extract_lets x
        have flushed : s.Anchored x := closed.trans (((State.flushAll_anchored ..).of_fst got).trans ((State.clashRun_anchored ..).trans (State.checkDone_anchored ..)))
        clear_value x
        split
        · exact flushed.trans (State.blockFor_anchored ..)
        · exact flushed
        · exact flushed.trans (State.blockFor_anchored ..)

theorem taskClear_anchored (c : Nat) : (taskClear c).Anchored where
  apply s o u := by
    exact State.bankPut_anchored ..
  close s last := by
    exact State.closeWith_anchored ..

@[simp] theorem State.tallyEmit_anchored (s : State) (c : Nat) (o : Op) : s.Anchored (s.tallyEmit c o) := by simp [State.tallyEmit]

theorem taskEmit_anchored (c : Nat) : (taskEmit c).Anchored where
  apply s o u := by
    exact ⟨rfl, rfl⟩
  close s last := by
    dsimp only [taskEmit]
    repeat' split
    all_goals simp

@[simp] theorem taskOf_anchored (c : Nat) (i : Insn) : (taskOf c i).Anchored := by
  unfold taskOf
  repeat' split
  all_goals first
    | exact taskLd_anchored c
    | exact taskSt_anchored c
    | exact taskLostClr_anchored c
    | exact taskMove_anchored c
    | exact taskFill_anchored c
    | exact taskPrefetch_anchored c
    | exact taskAtomic_anchored c
    | exact taskRjoin_anchored c
    | exact taskRcontrib_anchored c
    | exact taskRwait_anchored c
    | exact taskGather_anchored c
    | exact taskScatter_anchored c
    | exact taskMcast_anchored c
    | exact taskScan_anchored c
    | exact taskClear_anchored c
    | exact taskEmit_anchored c
    | exact taskScore_anchored c
    | exact taskSimb_anchored c
    | exact taskPublish_anchored c
    | exact taskPages_anchored c

@[simp] theorem State.runSlice_anchored (s : State) (g e c : Nat) (o : Op) (n : Nat) : s.Anchored (s.runSlice g e c o n) := by simp [State.runSlice]
@[simp] theorem State.stopFaulted_anchored (s : State) (c e : Nat) : s.Anchored (s.stopFaulted c e) := by simp [State.stopFaulted]

@[simp] theorem State.cutSlice_anchored (s : State) (g e : Nat) (r : Slice) : s.Anchored (s.cutSlice g e r) := by
  unfold State.cutSlice
  dsimp only
  (repeat' split) <;> simp [*]

@[simp] theorem State.resumeSlice_anchored (s : State) (g e c : Nat) (o : Op) (n : Nat) : s.Anchored (s.resumeSlice g e c o n) := by simp [State.resumeSlice]
@[simp] theorem State.chargeOver_anchored (s : State) (g e c n : Nat) : s.Anchored (s.chargeOver g e c n) := ⟨rfl, rfl⟩
@[simp] theorem State.overrun_anchored (s : State) (g c used : Nat) (r : Slice) : s.Anchored (s.overrun g c used r) := by simp [State.overrun]
@[simp] theorem State.withFetchWord_anchored (s : State) (nbits w : Nat) : s.Anchored (s.withFetchWord nbits w) := ⟨rfl, rfl⟩
@[simp] theorem State.joinBase_anchored (s : State) (l : Nat) (f : Flit) : s.Anchored (s.joinBase l f) := by simp [State.joinBase]
@[simp] theorem State.still_anchored (s : State) : s.Anchored (s.still) := ⟨rfl, rfl⟩

end Sys2Proof.Machine
end

section
/-! Slices are charged, resumed, overrun and aborted (R46, R48 to R51, R275, R351, R381, R383, R398). -/

namespace Sys2Proof.Machine

/-! ### Charges -/

theorem State.blk_chargeCtx (s : State) (c e n g : Nat) : (s.chargeCtx c e n).blk g = s.blk g := rfl

theorem State.ctx_chargeCtx (s : State) (c e n : Nat) : (s.chargeCtx c e n).ctx c = { s.ctx c with
    v := tset (s.ctx c).v e (BitVec.ofNat 64 ((s.ctx c).pass e + n * (s.ctx c).stride)) 0
    cyc := tset (s.ctx c).cyc e (tget (s.ctx c).cyc e 0 + BitVec.ofNat 64 n) 0
    cycCur := tset (s.ctx c).cycCur e (tget (s.ctx c).cycCur e 0 + n) 0 } := s.ctx_updCtx c _

theorem State.pass_chargeCtx (s : State) (c e n : Nat) : ((s.chargeCtx c e n).ctx c).pass e = ((s.ctx c).pass e + n * (s.ctx c).stride) % 2 ^ 64 := by
  rw [State.ctx_chargeCtx, Ctx.pass]
  dsimp only
  rw [tget_tset_same]
  exact BitVec.toNat_ofNat ..

theorem State.blk_charge (s : State) (c e n : Nat) : (s.charge c e n).blk (c / 16) = { s.blk (c / 16) with budget := tset (s.blk (c / 16)).budget e (s.budgetOf (c / 16) e - n) (s.budgetMax : Int) } := by
  unfold State.charge State.setBudget
  rw [State.blk_chargeCtx, State.blk_updBlk]

theorem State.pass_charge (s : State) (c e n : Nat) : ((s.charge c e n).ctx c).pass e = ((s.ctx c).pass e + n * (s.ctx c).stride) % 2 ^ 64 := State.pass_chargeCtx ..

theorem State.debt_chargeOver (s : State) (g e c n : Nat) : tget ((s.chargeOver g e c n).blk g).debt e 0 = tget (s.blk g).debt e 0 + n := by
  unfold State.chargeOver
  rw [State.blk_updBlk, State.blk_chargeCtx]
  dsimp only
  rw [tget_tset_same]

theorem State.ctx_chargeOver (s : State) (g e c n k : Nat) : (s.chargeOver g e c n).ctx k = (s.chargeCtx c e n).ctx k := rfl

/-! ### The start of a slice -/

/-- The record of a slice that starts. -/
def State.newSlice (s : State) (c : Nat) (o : Op) (n : Nat) : Slice :=
  { ctx := c, cost := n, idx := o.idx, pred := sbits o.word 84 4, wrote := [], wroteP := [], past := 0, seq := o.seq, tick := s.now,
    hdr := if (o.isScan ∨ o.isMerge) ∧ o.phase ≠ 0 then o.headerAt.map (fun h => (h.1, h.2, o.header stOk)) else none }

/-- The state in which the chosen context's slice runs: it has been charged, and the slice is recorded. -/
def State.begun (s : State) (g e c : Nat) (o : Op) (n : Nat) : State :=
  (s.charge c e n).updBlk g (fun b => { b with run := tset (b.run.filter (fun x => match x.2 with | some y => !(y.ctx = c && y.seq = o.seq) | none => true)) e (some (s.newSlice c o n)) none })

theorem State.runSlice_eq (s : State) (g e c : Nat) (o : Op) (n : Nat) : s.runSlice g e c o n =
    (if o.ofScan e then (s.begun g e c o n).scanTile c o else (s.begun g e c o n).slice (taskOf c (insnOf o.word)) c e n).review := rfl

theorem State.parts_begun (s : State) (g e c : Nat) (o : Op) (n : Nat) : (s.begun g e c o n).parts = s.parts := (State.updBlk_parts ..).trans rfl

theorem State.mem_begun (s : State) (g e c : Nat) (o : Op) (n : Nat) : (s.begun g e c o n).mem = s.mem := ((s.charge_anchored c e n).trans (State.updBlk_anchored ..)).1

theorem State.budgetOf_begun (s : State) (e c : Nat) (o : Op) (n : Nat) : (s.begun (c / 16) e c o n).budgetOf (c / 16) e = s.budgetOf (c / 16) e - n := by
  have most : (s.begun (c / 16) e c o n).budgetMax = s.budgetMax := rfl
  have budget : ((s.begun (c / 16) e c o n).blk (c / 16)).budget = ((s.charge c e n).blk (c / 16)).budget := by rw [State.begun, State.blk_updBlk]
  rw [State.budgetOf, most, budget, State.blk_charge]
  exact tget_tset_same ..

theorem State.run_begun (s : State) (g e c : Nat) (o : Op) (n : Nat) : tget ((s.begun g e c o n).blk g).run e none = some (s.newSlice c o n) := by
  rw [State.begun, State.blk_updBlk]
  dsimp only
  rw [tget_tset_same]

theorem State.begun_effect (s : State) {g c : Nat} (mine : c / 16 = g) (e : Nat) (o : Op) (n : Nat) :
    (s.begun g e c o n).budgetOf g e = s.budgetOf g e - n
      ∧ ((s.begun g e c o n).ctx c).pass e = ((s.ctx c).pass e + n * (s.ctx c).stride) % 2 ^ 64
      ∧ (∃ r : Slice, tget ((s.begun g e c o n).blk g).run e none = some r ∧ r.ctx = c ∧ r.cost = n ∧ r.idx = o.idx ∧ r.seq = o.seq ∧ r.tick = s.now)
      ∧ (s.begun g e c o n).mem = s.mem ∧ (s.begun g e c o n).parts = s.parts := by
  subst mine
  exact ⟨s.budgetOf_begun e c o n, s.pass_charge c e n, ⟨s.newSlice c o n, s.run_begun .., rfl, rfl, rfl, rfl, rfl⟩, s.mem_begun .., s.parts_begun ..⟩

/-- The state in which a slice that waited goes on: it waits no more. -/
def State.resumed (s : State) (g e : Nat) : State :=
  s.updBlk g (fun b => { b with run := b.run.map (fun x => if x.1 = e then (x.1, x.2.map (fun (r : Slice) => { r with wait := none, tick := s.now })) else x) })

theorem State.resumeSlice_eq (s : State) (g e c : Nat) (o : Op) (n : Nat) :
    s.resumeSlice g e c o n = (((s.resumed g e).slice (taskOf c (insnOf o.word)) c e ((taskOf c (insnOf o.word)).past + n)).stopFaulted c e).review := rfl

theorem State.budgetOf_resumed (s : State) (g e : Nat) : (s.resumed g e).budgetOf g e = s.budgetOf g e := by
  have most : (s.resumed g e).budgetMax = s.budgetMax := rfl
  rw [State.budgetOf, most, State.resumed, State.blk_updBlk]
  rfl

section
variable {s : State} {g : BlockId} {e : Eng}

theorem exec_sliceStart_chosen {c n : Nat} {o : Op} (idle : s.waiting g.toNat e.toNat = none) (chosen : s.choose g.toNat e.toNat = some (c, o, n))
    (turn : ¬(e.toNat = eRed ∧ s.redBeaten g.toNat c (s.collWork g.toNat) = true)) : exec (.sliceStart g e) s = .next (s.runSlice g.toNat e.toNat c o n) := by
  dsimp only [exec, execSliceStart]
  rw [idle, chosen]
  exact if_neg turn

theorem exec_sliceStart_beaten {c n : Nat} {o : Op} (idle : s.waiting g.toNat e.toNat = none) (chosen : s.choose g.toNat e.toNat = some (c, o, n))
    (reduce : e.toNat = eRed) (beaten : s.redBeaten g.toNat c (s.collWork g.toNat) = true) : exec (.sliceStart g e) s = .next (s.rootWork g.toNat).review := by
  dsimp only [exec, execSliceStart]
  rw [idle, chosen]
  exact if_pos ⟨reduce, beaten⟩

theorem exec_sliceStart_none (idle : s.waiting g.toNat e.toNat = none) (none_ : s.choose g.toNat e.toNat = none) :
    exec (.sliceStart g e) s = .next (if e.toNat = eRed then (s.rootWork g.toNat).review else s) := by
  dsimp only [exec, execSliceStart]
  rw [idle, none_]

theorem exec_sliceStart_waiting {c n : Nat} {o : Op} (waits : s.waiting g.toNat e.toNat = some (c, o, n)) :
    exec (.sliceStart g e) s = .next (s.resumeSlice g.toNat e.toNat c o n) := by
  dsimp only [exec, execSliceStart]
  rw [waits]

end

/-! ### Overruns -/

/-- The state in which an overrun's outcome is recorded: it is counted and raised. -/
def State.overCounted (s : State) (g c used : Nat) (r : Slice) : State :=
  let s := (s.updBlk g (fun b => { b with health := b.health.add 64 })).updCtx c (fun x => { x with ovr := satAdd x.ovr 1 })
  let ev : Event := { code := 0x38, unit := uBlk g, d0 := r.idx.zeroExtend 64, d1 := BitVec.ofNat 64 used }
  let ev := match s.partOfBlk g with | some p => ev.inPart p (s.part p) | none => ev
  s.raise (ev.inCtx c)

theorem State.overrun_eq (s : State) (g c used : Nat) (r : Slice) : s.overrun g c used r =
    if ((s.overCounted g c used r).ctx c).state = .empty then (s.overCounted g c used r).updCtx c (fun x => { x with status := stOverrun, index := r.idx })
    else ((s.overCounted g c used r).outcome c r.idx r.pred stOverrun false).review := rfl

theorem State.ctx_overCounted (s : State) (g c used : Nat) (r : Slice) : (s.overCounted g c used r).ctx c = { s.ctx c with ovr := satAdd (s.ctx c).ovr 1 } := by
  unfold State.overCounted
  dsimp only
  rw [State.ctx_raise, State.ctx_updCtx]
  rfl

theorem State.debt_of_offCtxs {s t : State} (h : t.offCtxs = s.offCtxs) (g : Nat) : (t.blk g).debt = (s.blk g).debt := (congrArg Block.debt (State.offCounts_of_offCtxs h g) :)

theorem State.debt_overCounted (s : State) (g c used : Nat) (r : Slice) (k : Nat) : ((s.overCounted g c used r).blk k).debt = (s.blk k).debt := by
  unfold State.overCounted
  dsimp only
  refine (State.debt_of_offCtxs (State.raise_offCtxs _ _) k).trans ?_
  have ctx (u : State) (f : Ctx → Ctx) : (u.updCtx c f).blk k = u.blk k := rfl
  rw [ctx]
  by_cases own : k = g
  · rw [own, State.blk_updBlk]
  · rw [State.blk_updBlk_other _ _ own]

theorem State.mem_overCounted (s : State) (g c used : Nat) (r : Slice) : (s.overCounted g c used r).mem = s.mem := State.raise_mem ..

theorem State.overrun_offCtxs (s : State) (g c used : Nat) (r : Slice) : (s.overrun g c used r).offCtxs = (s.overCounted g c used r).offCtxs := by
  rw [State.overrun_eq]
  split
  · exact State.updCtx_offCtxs ..
  · exact (State.review_offCtxs _).trans (State.outcome_offCtxs ..)

theorem State.debt_overrun (s : State) (g c used : Nat) (r : Slice) (k : Nat) : ((s.overrun g c used r).blk k).debt = (s.blk k).debt :=
  (State.debt_of_offCtxs (s.overrun_offCtxs g c used r) k).trans (s.debt_overCounted g c used r k)

theorem State.mem_overrun (s : State) (g c used : Nat) (r : Slice) : (s.overrun g c used r).mem = s.mem :=
  (State.mem_of_offCtxs (s.overrun_offCtxs g c used r)).trans (s.mem_overCounted g c used r)

/-- An overrun faults a context that runs (R51). -/
theorem State.overrun_faults {s : State} {c : Nat} (runs : (s.ctx c).state = .ready ∨ (s.ctx c).state = .blocked) (g used : Nat) (r : Slice) :
    ((s.overrun g c used r).ctx c).state = .faulted ∧ ((s.overrun g c used r).ctx c).status = stOverrun ∧ ((s.overrun g c used r).ctx c).index = r.idx := by
  have same : ((s.overCounted g c used r).ctx c).state = (s.ctx c).state := by rw [State.ctx_overCounted]
  obtain ⟨state, status, index, -⟩ := State.outcome_fatal (s := s.overCounted g c used r) (c := c) (idx := r.idx) (pred := r.pred) (st := stOverrun) (outc := false)
    (by decide) (by rw [same]; exact runs)
  rw [State.overrun_eq, if_neg (by rw [same]; rcases runs with h | h <;> rw [h] <;> decide)]
  exact ⟨(State.review_state_off (by rw [state]; decide) (by rw [state]; decide)).trans state, (State.review_field (f := Ctx.status) (fun _ => rfl) _ c).trans status,
    (State.review_field (f := Ctx.index) (fun _ => rfl) _ c).trans index⟩

/-- Where the last slice has ended the program, the overrun's status stands in the slot. -/
theorem State.overrun_ended {s : State} {c : Nat} (ended : (s.ctx c).state = .empty) (g used : Nat) (r : Slice) :
    (s.overrun g c used r).ctx c = { s.ctx c with ovr := satAdd (s.ctx c).ovr 1, status := stOverrun, index := r.idx } := by
  rw [State.overrun_eq, if_pos (by rw [State.ctx_overCounted]; exact ended), State.ctx_updCtx, State.ctx_overCounted]

theorem State.Anchored.budgetMax {s t : State} (h : s.Anchored t) : t.budgetMax = s.budgetMax := congrArg (fun f => f.variant.budget) h.2

/-- What an abort does to a slice leaves memory and the fuses alone. -/
theorem State.aborted_anchored (s : State) (g e : Nat) (r : Slice) (n : Nat) : s.Anchored (((s.spoilSlice e r).cutSlice g e r).chargeOver g e r.ctx n) :=
  ((s.spoilSlice_anchored e r).trans (State.cutSlice_anchored ..)).trans (State.chargeOver_anchored ..)

section
variable {s : State} {g : BlockId} {e : Eng} {r : Slice} (running : tget (s.blk g.toNat).run e.toNat none = some r)
include running

theorem exec_sliceOverrun {extra : BitVec 16} (fresh : r.past = 0) (more : 0 < extra.toNat) (most : extra.toNat ≤ s.budgetMax) :
    exec (.sliceOverrun g e extra) s = .next ((s.chargeOver g.toNat e.toNat r.ctx extra.toNat).overrun g.toNat r.ctx (r.cost + extra.toNat) r) := by
  have some_ : extra ≠ 0 := fun zero => Nat.ne_of_gt more (congrArg BitVec.toNat zero)
  dsimp only [exec, execSliceOverrun]
  rw [running]
  exact if_neg (by simp only [fresh, some_, ne_eq, not_true_eq_false, false_or]; omega)

theorem exec_sliceAbort (left : r.past < s.budgetMax ∨ r.past = 0) : exec (.sliceAbort g e) s = .next
    (if r.past = 0 then (((s.spoilSlice e.toNat r).cutSlice g.toNat e.toNat r).chargeOver g.toNat e.toNat r.ctx (s.budgetMax - r.past)).overrun g.toNat r.ctx (r.cost + s.budgetMax) r
      else ((s.spoilSlice e.toNat r).cutSlice g.toNat e.toNat r).chargeOver g.toNat e.toNat r.ctx (s.budgetMax - r.past)) := by
  dsimp only [exec, execSliceAbort]
  rw [running]
  dsimp only
  rw [if_neg (by omega), (State.aborted_anchored s g.toNat e.toNat r _).budgetMax]

end

/-! ### Polls -/

section
variable {s : State} {c : CtxId} {o : Op} (polls : (s.ctx c.toNat).causes.any (fun k => k.src = eFilt && k.why = 5) = true) (op : (s.ctx c.toNat).op eFilt = some o)
  (due : tget o.tab 0 0 ≠ s.now + 1)
include polls op due

theorem exec_streamConsPoll_here (here : (s.ctx c.toNat).parked = false) :
    exec (.streamConsPoll c) s = .next ((s.updCtx c.toNat (fun x => x.unblock eFilt)).pollCons c.toNat).review := by
  dsimp only [exec, execStreamConsPoll]
  rw [if_neg (by simp [polls]), if_neg (by simp [here]), op]
  exact if_neg due

theorem exec_streamConsPoll_parked (away : (s.ctx c.toNat).parked = true) : exec (.streamConsPoll c) s = .next (s.updCtx c.toNat (fun x => x.unblock eFilt)) := by
  dsimp only [exec, execStreamConsPoll]
  rw [if_neg (by simp [polls]), if_pos away, op]
  exact congrArg Host.Outcome.next (if_neg due)

end

/-- Settles O27. -/
theorem slicesRun : Obligations.SlicesRun := by
  refine ⟨fun s g e c o n idle chosen mine turn => ⟨_, (exec_sliceStart_chosen idle chosen turn).trans (congrArg Host.Outcome.next (s.runSlice_eq ..)), s.begun_effect mine e.toNat o n⟩,
    fun s g e idle => ⟨exec_sliceStart_none idle, fun c o n chosen reduce beaten => exec_sliceStart_beaten idle chosen reduce beaten⟩,
    fun s g e c o n waits => ⟨_, (exec_sliceStart_waiting waits).trans (congrArg Host.Outcome.next (s.resumeSlice_eq ..)), s.budgetOf_resumed g.toNat e.toNat, rfl, rfl⟩,
    fun s g e extra r running fresh more most => ?_,
    fun s g e r running left => ⟨_, exec_sliceAbort running left, rfl, State.debt_chargeOver ..⟩,
    fun s c o polls op due => ⟨exec_streamConsPoll_here polls op due, exec_streamConsPoll_parked polls op due⟩⟩
  have over_ := exec_sliceOverrun running fresh more most
  have ctx : (s.chargeOver g.toNat e.toNat r.ctx extra.toNat).ctx r.ctx = (s.chargeCtx r.ctx e.toNat extra.toNat).ctx r.ctx := State.ctx_chargeOver ..
  have state : ((s.chargeCtx r.ctx e.toNat extra.toNat).ctx r.ctx).state = (s.ctx r.ctx).state := by rw [State.ctx_chargeCtx]
  have debt : tget (((s.chargeOver g.toNat e.toNat r.ctx extra.toNat).overrun g.toNat r.ctx (r.cost + extra.toNat) r).blk g.toNat).debt e.toNat 0
      = tget (s.blk g.toNat).debt e.toNat 0 + extra.toNat := by rw [State.debt_overrun, State.debt_chargeOver]
  have mem : ((s.chargeOver g.toNat e.toNat r.ctx extra.toNat).overrun g.toNat r.ctx (r.cost + extra.toNat) r).mem = s.mem := State.mem_overrun ..
  refine ⟨fun runs => ?_, fun ended => ?_⟩
  · obtain ⟨faulted, status, index⟩ := State.overrun_faults (s := s.chargeOver g.toNat e.toNat r.ctx extra.toNat) (by rw [ctx, state]; exact runs) g.toNat (r.cost + extra.toNat) r
    exact ⟨_, over_, debt, faulted, status, index, mem⟩
  · have slot := State.overrun_ended (s := s.chargeOver g.toNat e.toNat r.ctx extra.toNat) (by rw [ctx, state]; exact ended) g.toNat (r.cost + extra.toNat) r
    refine ⟨_, over_, debt, ?_⟩
    rw [slot, ctx]
    refine ⟨state.trans ended, rfl, rfl, ?_, State.pass_chargeCtx .., mem⟩
    rw [State.ctx_chargeCtx]

end Sys2Proof.Machine
end

section
/-! Steps that write pool memory keep its canonical form: homes, pages, joins and starts. -/

namespace Sys2Proof.Machine

/-- Pool memory has its canonical form: `Sound`, as the rules below rewrite it. -/
@[simp] abbrev State.Formed (s : State) : Prop := Memory.wf s.mem = true

theorem State.Anchored.formed {s t : State} (h : s.Anchored t) (form : s.Formed) : t.Formed := (congrArg (Memory.wf · = true) h.1).mpr form

theorem Tended.formed {s t : State} (h : Tended s t) (form : s.Formed) : t.Formed := h.sound form

theorem State.Formed.ite {c : Prop} [Decidable c] {s t : State} (yes : s.Formed) (no : t.Formed) : (if c then s else t).Formed := by
  split
  · exact yes
  · exact no

theorem State.Formed.foldl {α : Type} {f : State → α → State} (one : ∀ (s : State) x, s.Formed → (f s x).Formed) (l : List α) {s : State} (form : s.Formed) :
    (l.foldl f s).Formed := by
  induction l generalizing s with
  | nil => exact form
  | cons x l ih => exact ih (one s x form)

section
variable {s : State}

/-! ### Homes -/

@[simp] theorem State.pokes_formed (p a : Nat) (l : List Byte) (form : s.Formed) : (s.pokes p a l).Formed := s.pokes_wf p a l form
@[simp] theorem State.clearPool_formed (p a n : Nat) (form : s.Formed) : (s.clearPool p a n).Formed := s.clearPool_wf p a n form
@[simp] theorem State.lineWrite_formed (g p l o : Nat) (v : List Byte) (pois : Bool) (form : s.Formed) : (s.lineWrite g p l o v pois).Formed := (Tended.lineWrite ..).formed form
@[simp] theorem State.lineDone_formed (g p i l : Nat) (t : Option Txn) (form : s.Formed) : (s.lineDone g p i l t).Formed := (Tended.lineDone ..).formed form
@[simp] theorem State.snoopDone_formed (g p l : Nat) (tag : Tag) (x : Eid) (fwd keepS : Bool) (data : Option (List Byte × Bool)) (form : s.Formed) :
    (s.snoopDone g p l tag x fwd keepS data).Formed := (Tended.snoopDone ..).formed form
@[simp] theorem State.settleAll_formed (form : s.Formed) : s.settleAll.Formed := (Tended.settleAll s).formed form

@[simp] theorem State.endHot_formed (g p l : Nat) (form : s.Formed) : (s.endHot g p l).Formed := by
  unfold State.endHot
  split
  · exact form
  · exact State.pokes_wf _ _ _ _ form

theorem State.startLines_formed {g p i : Nat} {m : Msg} {ls : List Nat} {t : State} (got : s.startLines g p i m ls = some t) (form : s.Formed) : t.Formed := by
  induction ls generalizing s with
  | nil => cases got; exact form
  | cons l ls ih =>
    rw [State.startLines] at got
    have settled := (s.settleOwner_anchored g p l).formed form
    dsimp only at got
    split at got
    · exact ih got (State.lineDone_formed _ _ _ _ _ settled)
    · split at got
      · cases got
      · split at got
        · cases got
        · next sent => exact ih got (((State.snoops_anchored sent).trans (State.updEnt_anchored ..)).formed settled)

/-- The state in which a page's answer leaves the machine. -/
def PageAns.state : PageAns → State
  | .ok s => s
  | .zero s => s
  | .bad s _ => s

theorem State.pageAsk_anchored (s : State) (g p k : Nat) (r : LineRef) : s.Anchored (s.pageAsk g p k r).state := by
  unfold State.pageAsk
  dsimp only
  split
  next => exact ⟨rfl, rfl⟩
  next =>
    split
    next => split <;> exact ⟨rfl, rfl⟩
    next =>
      split
      next placed => exact (State.placePage_anchored placed).trans (State.touchPage_anchored ..)
      next => exact State.noCapacity_anchored ..
    next => exact State.touchPage_anchored ..

/-- The state in which a home's take of a request leaves the machine, if it leaves one. -/
def Took.Formed : Took → Prop
  | .done s => s.Formed
  | .aside s _ => s.Formed
  | .stay => True

/-- The pages of a request's lines, asked one after another. -/
theorem State.pagesAsked_anchored {g p k : Nat} {step : State × Work × Option Status → LineRef → State × Work × Option Status}
    (asks : ∀ a r, (step a r).1 = a.1 ∨ (step a r).1 = (a.1.pageAsk g p k r).state) (ls : List LineRef) (a : State × Work × Option Status) :
    a.1.Anchored (ls.foldl step a).1 := by
  refine State.Anchored.foldl_fst (fun a r => ?_) ls a
  rcases asks a r with same | asked
  · rw [same]; exact ⟨rfl, rfl⟩
  · rw [asked]; exact State.pageAsk_anchored ..

theorem State.serve_formed (g p : Nat) (m : Msg) (tn : Nat) (form : s.Formed) : (s.serve g p m tn).Formed := by
  unfold State.serve
  extract_lets k ls s0 seen
  have seen_ (t : State) : t.Anchored (seen t) := State.Anchored.foldl (fun _ _ => State.countServed_anchored ..) ls t
  have entry : s0.Formed := form
  split
  next => exact form
  next =>
    split
    next u w bad asked =>
      have form : u.Formed := by
        refine ((State.pagesAsked_anchored (g := g) (p := p) (k := k) (fun a r => ?_) ls _).of_fst asked).formed form
        obtain ⟨t, w, bad⟩ := a
        rcases bad with _ | _
        · refine .inr ?_
          dsimp only
          cases t.pageAsk g p k r with
          | ok => rfl
          | zero => rfl
          | bad => dsimp only; split <;> rfl
        · exact .inl rfl
      split
      next => exact ((seen_ u).trans (State.refuse_anchored ..)).formed form
      next =>
        split
        next => exact (State.finish_anchored ..).formed form
        next =>
          dsimp only
          split
          next v got =>
            have tried : (seen u).atEarly g m tn = some v := by
              by_cases at_ : k = tAT
              · exact (if_pos at_).symm.trans got
              · cases (if_neg at_).symm.trans got
            exact ((seen_ u).trans (State.atEarly_anchored tried)).formed form
          next =>
            split
            next =>
              split
              next evicted => exact (State.evictWay_anchored evicted).formed entry
              next => exact entry
            next =>
              split
              next => trivial
              next began => exact State.startLines_formed began form

@[simp] theorem State.writeBack_formed (g p : Nat) (m : Msg) (form : s.Formed) : (s.writeBack g p m).Formed := by
  unfold State.writeBack
  dsimp only
  (repeat' split) <;> simp [form]

@[simp] theorem State.homeTake_formed (g : Nat) (want : Nat → Bool) (form : s.Formed) : (s.homeTake g want).Formed := by
  unfold State.homeTake
  split
  next qp t p head owner =>
    have taken : t.Formed := (State.takeHead_anchored head).formed form
    extract_lets m k ls counted aside
    split
    next => exact form
    next =>
      split
      next gated => exact (State.homeGate_anchored gated).formed taken
      next =>
        split
        next => exact State.writeBack_formed _ _ _ taken
        next =>
          have aside_ {u : State} (form' : u.Formed) : (aside u).Formed := by
            unfold aside
            split
            next => exact form
            next =>
              split
              next => exact (State.Anchored.foldl (fun t l => t.countAside_anchored g p l) _ _).formed form'
              next => exact form'
          have counted_ : counted.Formed := by
            unfold counted
            split
            next => exact (State.Anchored.foldl (fun t l => t.countTaken_anchored g l) _ _).formed taken
            next => exact taken
          split
          next => exact aside_ counted_
          next =>
            have served := State.serve_formed g p qp.msg s.now counted_
            split
            next done => rw [done] at served; exact served
            next more => rw [more] at served; exact aside_ served
            next => exact form
  next => exact form

@[simp] theorem State.serveAside_formed (g p : Nat) (before rest : List SetAside) (form : s.Formed) : (s.serveAside g p before rest).Formed := by
  induction rest generalizing before with
  | nil => exact form
  | cons c rest ih =>
    rw [State.serveAside]
    split
    next => exact ih _
    next =>
      have served := State.serve_formed (s := s.updBlk g (fun b => { b with conf := before ++ rest })) g p c.msg c.tick form
      dsimp only
      split
      next done => rw [done] at served; exact served
      next more =>
        rw [more] at served
        split
        next => exact served
        next => exact ih _
      next => exact ih _

@[simp] theorem State.snoopAnswer_formed (g mt : Nat) (form : s.Formed) : (s.snoopAnswer g mt).Formed := by
  unfold State.snoopAnswer
  split
  next => exact form
  next m t taken =>
    have form : t.Formed := (State.takeTc3_anchored taken).formed form
    dsimp only
    split
    next =>
      exact State.Formed.ite form (State.snoopDone_formed _ _ _ _ _ _ _ _ form)
    next => exact form

/-! ### Joins -/

theorem State.setInc_anchored (s : State) (e : Eid) (i : Inc) : s.Anchored (s.setInc e i) := ⟨rfl, rfl⟩

@[simp] theorem State.toActive_formed (l : Nat) (eid : Eid) (inc : Inc) (role : BitVec 2) (form : s.Formed) : (s.toActive l eid inc role).Formed := by
  unfold State.toActive
  exact State.settleAll_formed ((State.toState_anchored ..).formed ((State.setInc_anchored ..).formed form))

@[simp] theorem State.rxConfirm_formed (l : Nat) (m : JoinMsg) (form : s.Formed) : (s.rxConfirm l m).Formed := by
  unfold State.rxConfirm
  dsimp only
  split
  next =>
    split
    next => exact State.toActive_formed _ _ _ _ form
    next => exact form
  next => exact form

theorem State.rxJoin_formed {act : Nat → JoinMsg → State → State} (acts : ∀ (s : State) l m, s.Formed → (act l m s).Formed) (l : Nat) (f : Flit) (form : s.Formed) :
    (s.rxJoin l f act).Formed := by
  unfold State.rxJoin
  split
  next => exact (State.badFlit_anchored ..).formed form
  next =>
    split
    next => exact form
    next =>
      split
      next => exact form
      next =>
        refine acts _ _ _ ?_
        split
        next => exact (State.linkHeader_anchored ..).formed form
        next => exact form

/-! ### Pages -/

@[simp] theorem State.freePage_formed (p k : Nat) (form : s.Formed) : (s.freePage p k).Formed := by
  unfold State.freePage
  dsimp only
  split <;> simp [form]

@[simp] theorem State.dropPage_formed (p k : Nat) (form : s.Formed) : (s.dropPage p k).Formed := by
  unfold State.dropPage
  dsimp only
  refine State.freePage_formed _ _ (State.Formed.foldl (fun t e form => ?_) _ form)
  split
  next => exact State.Formed.foldl (fun t l form => State.endHot_formed _ _ _ form) _ form
  next => exact form

@[simp] theorem State.unbind_formed (p : Nat) (form : s.Formed) : (s.unbind p).Formed := by
  unfold State.unbind
  extract_lets x u v w
  have unbound : u.Formed := (State.Anchored.foldl (fun s g => s.unbindBlk_anchored p g) ..).formed form
  have held : v.Formed := by
    refine State.Formed.foldl (fun t e form => ?_) _ unbound
    split
    next => split <;> exact form
    next => exact form
  have dropped : w.Formed := State.Formed.foldl (fun t k form => State.dropPage_formed _ _ form) _ held
  exact (State.resizeStep_anchored ..).formed dropped

@[simp] theorem State.walkLine_formed (g p : Nat) (discard : Bool) (l : Nat) (form : s.Formed) : (s.walkLine g p discard l).Formed := by
  unfold State.walkLine
  split
  next => exact State.endHot_formed _ _ _ form
  next =>
    cases recalled : s.recallLine g p l (.recalling discard) with
    | none => exact form
    | some t => exact (State.recallLine_anchored recalled).formed form

@[simp] theorem State.recallEnd_formed (p k : Nat) (form : s.Formed) : (s.recallEnd p k).Formed := by
  unfold State.recallEnd
  dsimp only
  split
  next => exact form
  next => split <;> simp [form]

@[simp] theorem State.releasePage_formed (p k : Nat) (form : s.Formed) : (s.releasePage p k).Formed := by
  unfold State.releasePage
  dsimp only
  split
  next => exact form
  next =>
    split
    next => simp [form]
    next => exact (State.Anchored.foldl (fun t g => t.updBlk_anchored g _) _ _).formed form

@[simp] theorem State.walkStep_formed (g : Nat) (form : s.Formed) : (s.walkStep g).Formed := by
  unfold State.walkStep
  split
  next w p walk owner =>
    split
    next => exact form
    next ks discard pages =>
      extract_lets u v
      have walked : u.Formed := State.Formed.foldl (fun t l form => State.walkLine_formed _ _ _ _ form) _ form
      split
      next => exact walked
      next =>
        split
        next => exact State.Formed.foldl (fun t k form => State.recallEnd_formed _ _ form) _ walked
        next => exact walked
        next => exact walked
  next => exact form

@[simp] theorem State.entryArrives_formed (g l : Nat) (form : s.Formed) : (s.entryArrives g l).Formed := by
  unfold State.entryArrives
  split
  next => exact form
  next p owner =>
    extract_lets x h waits e u e' v w z
    split
    next => exact form
    next =>
      split
      next => exact form
      next =>
        have cooled : u.Formed := by
          unfold u
          split
          next => exact State.endHot_formed _ _ _ form
          next => exact form
        split
        next =>
          cases evicted : u.evictWay h p l with
          | none => exact cooled
          | some t => exact (State.evictWay_anchored evicted).formed cooled
        next =>
          have moved : w.Formed := by
            unfold w
            split
            next => exact cooled
            next => exact (State.setMode_anchored ..).formed cooled
          have replayed : z.Formed := (State.Anchored.foldl (fun t r => t.moveReplay_anchored g h r) _ _).formed moved
          exact (State.resizeStep_anchored ..).formed replayed

/-! ### Starts, power and resets: what blanks memory leaves it empty -/

theorem State.formed_of_empty (empty : s.mem = []) : s.Formed := by
  rw [State.Formed, empty]
  rfl

theorem State.mem_blank (s : State) (rws : Bool) : (s.blank rws).mem = [] := by cases rws <;> rfl
theorem State.mem_warmStart (s : State) (cause : Nat) (src : BitVec 8) : (s.warmStart cause src).mem = [] := s.mem_blank true
theorem State.mem_coldStart (s : State) : s.coldStart.mem = [] := s.mem_blank false
theorem State.mem_toP4 (s : State) (thermal : Bool) : (s.toP4 thermal).mem = [] := s.mem_blank false

@[simp] theorem State.blank_formed (s : State) (rws : Bool) : (s.blank rws).Formed := State.formed_of_empty (s.mem_blank rws)
@[simp] theorem State.warmStart_formed (s : State) (cause : Nat) (src : BitVec 8) : (s.warmStart cause src).Formed := State.formed_of_empty (s.mem_warmStart cause src)
@[simp] theorem State.coldStart_formed (s : State) : s.coldStart.Formed := State.formed_of_empty s.mem_coldStart
@[simp] theorem State.toP4_formed (s : State) (thermal : Bool) : (s.toP4 thermal).Formed := State.formed_of_empty (s.mem_toP4 thermal)

@[simp] theorem State.glitchReset_formed (s : State) (cause : Nat) : (s.glitchReset cause).Formed := State.warmStart_formed ..

@[simp] theorem State.powerDone_formed (form : s.Formed) : s.powerDone.Formed := by
  unfold State.powerDone
  split
  next => exact form
  next st _ =>
    dsimp only
    split
    next => exact State.toP4_formed ..
    next =>
      have entered : ((State.raise { s with pw := { s.pw with trans := none } } { code := 0x51, unit := uSquare, d0 := s.pw.state.setWidth 64, d1 := st.setWidth 64 }).enterPower st).Formed :=
        ((State.raise_anchored ..).trans (State.enterPower_anchored ..)).formed form
      split
      next => exact entered
      next => exact entered

theorem State.fenced_anchored (s : State) (l : Nat) (f : Port → Port) : s.Anchored (((s.flush l).updPort l f).toState l .fenced) := by simp

@[simp] theorem State.declareDead_formed (e : Eid) (i : Inc) (form : s.Formed) : (s.declareDead e i).Formed := by
  unfold State.declareDead
  extract_lets u ls v w
  have fenced : v.Formed := (State.Anchored.foldl (fun t l => t.fenced_anchored l _) _ _).formed form
  have settled : w.Formed := State.settleAll_formed fenced
  exact (State.Anchored.foldl (fun t g => t.updBlk_anchored g _) _ _).formed settled

@[simp] theorem State.mgmtWrite_formed (m : Mctp) (o : Nat) (v : BitVec 64) (form : s.Formed) : (s.mgmtWrite m o v).Formed := by
  unfold State.mgmtWrite
  split
  next => exact form
  next =>
    split
    next =>
      split
      next => exact form
      next =>
        dsimp only
        split <;> simp [form]
    next =>
      dsimp only
      split
      next => simp [form]
      next =>
        split
        next => exact form
        next written =>
          split
          next => exact State.warmStart_formed ..
          next => exact (State.writeReg_anchored written).formed form

end

end Sys2Proof.Machine
end

section
/-! Every command keeps the canonical form of pool memory. -/

namespace Sys2Proof.Machine

/-- Where a command goes on from `s`, it keeps the form of pool memory. -/
def Landed (s : State) (r : Res) : Prop := s.Formed → ∀ t, r = .next t → t.Formed

@[simp] theorem landed_next (s t : State) : Landed s (.next t) ↔ (s.Formed → t.Formed) :=
  ⟨fun h form => h form t rfl, fun h form _ got => Host.Outcome.next.inj got ▸ h form⟩

@[simp] theorem landed_fault (s : State) (f : Fault) : Landed s (.fault f) := fun _ _ got => nomatch got

theorem State.Anchored.landed {s t : State} (h : s.Anchored t) : Landed s (.next t) := (landed_next s t).mpr h.formed

theorem landed_ite {s : State} {c : Prop} [Decidable c] {r r' : Res} (yes : Landed s r) (no : Landed s r') : Landed s (if c then r else r') := by
  split
  · exact yes
  · exact no

theorem landed_if {s t : State} {c : Prop} [Decidable c] (h : s.Anchored t) : Landed s (if c then .next t else .next s) :=
  landed_ite h.landed ((landed_next ..).mpr id)

section
variable {s : State}

theorem State.onPort_landed {f : Nat → State → State} (acts : ∀ (s : State) l, s.Formed → (f l s).Formed) (l : Lane) (c : Port → Bool) : Landed s (s.onPort l c f) := by
  unfold State.onPort
  exact landed_ite ((landed_next ..).mpr (acts s l.toNat)) ((landed_next ..).mpr id)

theorem State.onJoin_landed {act : Nat → JoinMsg → State → State} (acts : ∀ (s : State) l m, s.Formed → (act l m s).Formed) (lane : Lane) (f : Flit) :
    Landed s (s.onJoin lane f act) :=
  landed_ite (landed_fault _ _) (State.onPort_landed (fun _ l form => State.rxJoin_formed acts l f form) _ _)

theorem State.onSpdm_landed {f : State → State} (acts : ∀ s : State, s.Formed → (f s).Formed) (m : Mctp) : Landed s (s.onSpdm m f) :=
  landed_ite ((landed_next ..).mpr (acts s)) ((landed_next ..).mpr id)

theorem State.pwReq_landed (m : Mctp) (v : BitVec 64) (req : Nat) : Landed s (s.pwReq m v req) :=
  landed_ite ((landed_next ..).mpr (State.mgmtWrite_formed _ _ _)) ((landed_next ..).mpr id)

theorem journalChange_anchored (s u : State) (e : JEntry) (imm : BitVec 64) : u.Anchored (journalChange s u e imm) := by
  unfold journalChange
  split
  next => exact State.journal_anchored ..
  next => exact State.Anchored.foldl (fun t x => t.journal_anchored _) _ _

@[simp] theorem State.ctlOk_anchored (s u : State) (c : Caller) (opc sub result : Nat) : s.Anchored (s.ctlOk u c opc sub result) := by
  unfold State.ctlOk
  exact (journalChange_anchored ..).trans (State.ctlAnswer_anchored ..)

/-- A control instruction keeps the form where its check and its effect do. -/
theorem State.runCtl_landed {check : State → State × Verdict} {effect : State → Caller → State × Option Nat} (checks : ∀ s : State, s.Anchored (check s).1)
    (effects : ∀ (s : State) c, s.Formed → (effect s c).1.Formed) (via : Via) (ci : CtlInsn) (opc sub : Nat) : Landed s (s.runCtl via ci opc sub check effect) := by
  unfold State.runCtl
  extract_lets u
  have sunk := s.sinks_anchored via
  have answered {t : State} (h : s.Anchored t) (c : Caller) (r : Slot) : Landed s (.next ((t.dropCtl via).ctlAnswer c r)) :=
    (h.trans ((t.dropCtl_anchored via).trans (State.ctlAnswer_anchored ..))).landed
  refine landed_ite sunk.landed ?_
  split
  next => exact sunk.landed
  next c o b found =>
    split
    next => exact answered sunk _ _
    next =>
      refine landed_ite (answered sunk _ _) ?_
      have checked := sunk.trans (checks u)
      split
      next t got => exact (checked.of_fst got).landed
      next t st got =>
        have there : s.Anchored t := checked.of_fst got
        refine landed_ite (answered there _ _) ?_
        have done (form : s.Formed) := effects (t.dropCtl via) c ((there.trans (t.dropCtl_anchored via)).formed form)
        split
        next w run => exact (landed_next ..).mpr fun form => (congrArg (·.1.Formed) run).mp (done form)
        next w r run => exact (landed_next ..).mpr fun form => (State.ctlOk_anchored ..).formed ((congrArg (·.1.Formed) run).mp (done form))

/-- A control instruction whose check only looks and whose effect is one function of the state. -/
theorem State.plainCtl_landed {f : State → Status} {effect : State → State} (effects : ∀ s : State, s.Formed → (effect s).Formed) {via : Via} {ci : CtlInsn} {opc sub : Nat} :
    Landed s (s.runCtl via ci opc sub (looks f) (plain effect)) := State.runCtl_landed (looks_anchored _) (fun s _ => effects s) _ _ _ _

@[simp] theorem unbindDo_formed (ci : CtlInsn) (form : s.Formed) : (unbindDo ci s).Formed := by
  unfold unbindDo
  split <;> simp [form]

@[simp] theorem pageFreeDo_formed (ci : CtlInsn) (form : s.Formed) : (pageFreeDo ci s).Formed := by
  unfold pageFreeDo
  split <;> simp [form]

theorem State.issue_landed (c : CtxId) (row : Insn → Bool) (plan : State → Nat → Insn → Op → Except Status Plan) : Landed s (s.issue c row plan) :=
  (State.stage_anchored (fun _ _ _ => State.enter_anchored ..) ..).landed

/-- An instruction that the sequencer stages keeps the form where what it does in its place leaves memory alone. -/
theorem State.stage_landed {go : State → Insn → Op → State} (goes : ∀ (s : State) i o, s.Anchored (go s i o)) {c : Nat} {row : Insn → Bool} :
    Landed s (.next (s.stage c row go)) := (State.stage_anchored goes ..).landed

end

end Sys2Proof.Machine
end

section
/-! The commands of ports, the switch, control instructions and memory keep the canonical form of pool memory. -/

namespace Sys2Proof.Machine

/-! ### Flits, ports and packets -/

theorem execDataFlit_landed (lane : Lane) (f : Flit) (s : State) : Landed s (execDataFlit lane f s) := by
  refine landed_ite (landed_fault _ _) (landed_ite ?_ ((landed_next ..).mpr id))
  exact (State.rxData_anchored ..).landed

theorem execIdleFlit_landed (lane : Lane) (f : Flit) (s : State) : Landed s (execIdleFlit lane f s) :=
    landed_ite (landed_fault _ _) (State.onPort_landed (fun s l form => by simp [form]) _ _)

theorem execAlignDone_landed (lane : Lane) (s : State) : Landed s (execAlignDone lane s) := State.onPort_landed (fun s l form => by simp [form]) _ _

theorem execReplayTimeout_landed (lane : Lane) (s : State) : Landed s (execReplayTimeout lane s) := State.onPort_landed (fun s l form => by simp [form]) _ _

theorem execLanesLocked_landed (lane : Lane) (trained : BitVec 8) (s : State) : Landed s (execLanesLocked lane trained s) := by
  unfold execLanesLocked
  refine State.onPort_landed (fun s l form => ?_) _ _
  dsimp only
  (repeat' split) <;> simp [form]

theorem execTrainTimeout_landed (lane : Lane) (s : State) : Landed s (execTrainTimeout lane s) := State.onPort_landed (fun s l form => by simp [form]) _ _

theorem execAlignTimeout_landed (lane : Lane) (s : State) : Landed s (execAlignTimeout lane s) := by
  unfold execAlignTimeout
  refine State.onPort_landed (fun s l form => ?_) _ _
  (repeat' split) <;> simp [form]

theorem execRetrainSuccess_landed (lane : Lane) (s : State) : Landed s (execRetrainSuccess lane s) := by
  unfold execRetrainSuccess
  refine State.onPort_landed (fun s l form => ?_) _ _
  dsimp only
  (repeat' split) <;> simp [form]

theorem execRetrainTimeout_landed (lane : Lane) (s : State) : Landed s (execRetrainTimeout lane s) := State.onPort_landed (fun s l form => by simp [form]) _ _

theorem execLossOfSignal_landed (lane : Lane) (s : State) : Landed s (execLossOfSignal lane s) := State.onPort_landed (fun s l form => by simp [form]) _ _

theorem execJconfirmTimeout_landed (lane : Lane) (s : State) : Landed s (execJconfirmTimeout lane s) := State.onPort_landed (fun s l form => by simp [form]) _ _

theorem execJoinDecisionTimeout_landed (lane : Lane) (s : State) : Landed s (execJoinDecisionTimeout lane s) := by
  unfold execJoinDecisionTimeout
  refine State.onPort_landed (fun s l form => ?_) _ _
  (repeat' split) <;> simp [form]

theorem execJreqResend_landed (lane : Lane) (ns : Ns) (s : State) : Landed s (execJreqResend lane ns s) := by
  unfold execJreqResend
  refine State.onPort_landed (fun s l form => ?_) _ _
  dsimp only
  (repeat' split) <;> simp [form]

theorem execProbeSend_landed (lane : Lane) (ns : Ns) (s : State) : Landed s (execProbeSend lane ns s) := by
  unfold execProbeSend
  refine State.onPort_landed (fun s l form => ?_) _ _
  dsimp only
  simp [form]

theorem execProbe_landed (lane : Lane) (f : Flit) (ns turn : Ns) (s : State) : Landed s (execProbe lane f ns turn s) := by
  refine State.onJoin_landed (fun s l m form => ?_) _ _
  dsimp only
  (repeat' split) <;> simp [form]

theorem execEcho_landed (lane : Lane) (f : Flit) (ns : Ns) (s : State) : Landed s (execEcho lane f ns s) := by
  refine State.onJoin_landed (fun s l m form => ?_) _ _
  dsimp only
  (repeat' split) <;> simp [form]

theorem execNotice_landed (lane : Lane) (f : NoticeForm) (s : State) : Landed s (execNotice lane f s) := by
  unfold execNotice
  split
  next =>
    refine State.onPort_landed (fun s l form => ?_) _ _
    dsimp only
    (repeat' split) <;> simp [form]
  next => exact State.onJoin_landed (fun s _ _ form => form) _ _

theorem execCableIn_landed (group : BitVec 6) (s : State) : Landed s (execCableIn group s) := by
  unfold execCableIn
  dsimp only
  (repeat' split) <;> refine (landed_next ..).mpr fun form => ?_
  all_goals simp [form]

theorem execCableOut_landed (group : BitVec 6) (s : State) : Landed s (execCableOut group s) := by
  unfold execCableOut
  dsimp only
  (repeat' split) <;> refine (landed_next ..).mpr fun form => ?_
  all_goals simp [form]

theorem execJoinReply_landed (lane : Lane) (f : Flit) (s : State) : Landed s (execJoinReply lane f s) := by
  refine State.onJoin_landed (fun s l m form => ?_) _ _
  dsimp only
  (repeat' split) <;> simp [form]

theorem execPacketIngress_landed (lane : Lane) (tc : Tc) (s : State) : Landed s (execPacketIngress lane tc s) :=
    State.onPort_landed (fun s l form => by simp [form]) _ _

theorem execPacketEgress_landed (lane : Lane) (ns : Ns) (s : State) : Landed s (execPacketEgress lane ns s) :=
    State.onPort_landed (fun s l form => by simp [form]) _ _

/-! ### Banks and collectives -/

theorem execBankgive_landed (via : Via) (ci : CtlInsn) (s : State) : Landed s (execBankgive via ci s) := by
  refine State.runCtl_landed (looks_anchored _) (fun s c form => ?_) _ _ _ _
  dsimp only
  split <;> simp [form]

theorem execBankHandover_landed (g : BlockId) (s : State) : Landed s (execBankHandover g s) := by
  unfold execBankHandover
  dsimp only
  (repeat' split) <;> refine (landed_next ..).mpr fun form => ?_
  all_goals simp [form]

theorem execCollectiveDeadline_landed (g : BlockId) (n : BitVec 5) (s : State) : Landed s (execCollectiveDeadline g n s) := by
  unfold execCollectiveDeadline
  (repeat' split) <;> refine (landed_next ..).mpr fun form => ?_
  all_goals simp [form]

theorem execEndWaitTimeout_landed (g : BlockId) (n : BitVec 5) (s : State) : Landed s (execEndWaitTimeout g n s) := by
  unfold execEndWaitTimeout
  (repeat' split) <;> refine (landed_next ..).mpr fun form => ?_
  all_goals simp [form]

theorem execCollReservationRelease_landed (g : BlockId) (n : BitVec 5) (s : State) : Landed s (execCollReservationRelease g n s) := by
  unfold execCollReservationRelease
  (repeat' split) <;> refine (landed_next ..).mpr fun form => ?_
  all_goals simp [form]

/-! ### Control instructions of partitions and contexts -/

theorem execMapsetBind_landed (via : Via) (ci : CtlInsn) (s : State) : Landed s (execMapsetBind via ci s) :=
    State.runCtl_landed (looks_anchored _) (fun s c form => by simp [form]) _ _ _ _

theorem execMapsetRoute_landed (via : Via) (ci : CtlInsn) (s : State) : Landed s (execMapsetRoute via ci s) := State.plainCtl_landed fun s form => by simp [form]

theorem execMapsetGroup_landed (via : Via) (ci : CtlInsn) (s : State) : Landed s (execMapsetGroup via ci s) := State.plainCtl_landed fun s form => by simp [form]

theorem execMapsetCommit_landed (via : Via) (ci : CtlInsn) (s : State) : Landed s (execMapsetCommit via ci s) :=
    State.runCtl_landed (looks_anchored _) (fun s c form => by simp [form]) _ _ _ _

theorem execMapsetUnbind_landed (via : Via) (ci : CtlInsn) (s : State) : Landed s (execMapsetUnbind via ci s) := State.plainCtl_landed fun s form => by simp [form]

theorem execPartsetCreate_landed (via : Via) (ci : CtlInsn) (s : State) : Landed s (execPartsetCreate via ci s) :=
    State.plainCtl_landed fun s form => by simp [form]

theorem execPartsetResize_landed (via : Via) (ci : CtlInsn) (s : State) : Landed s (execPartsetResize via ci s) :=
    State.plainCtl_landed fun s form => by simp [form]

theorem execPartsetRelease_landed (via : Via) (ci : CtlInsn) (s : State) : Landed s (execPartsetRelease via ci s) :=
    State.plainCtl_landed fun s form => by simp [form]

theorem execPartsetTray_landed (via : Via) (ci : CtlInsn) (s : State) : Landed s (execPartsetTray via ci s) := State.plainCtl_landed fun s form => by simp [form]

theorem execScrub_landed (via : Via) (ci : CtlInsn) (s : State) : Landed s (execScrub via ci s) := State.plainCtl_landed fun s form => by simp [form]

theorem execJobkill_landed (via : Via) (ci : CtlInsn) (s : State) : Landed s (execJobkill via ci s) := State.plainCtl_landed fun s form => by simp [form]

theorem execCtxparkPark_landed (via : Via) (ci : CtlInsn) (s : State) : Landed s (execCtxparkPark via ci s) :=
    State.runCtl_landed (parkCheck_anchored ci) (fun s c form => by simp [plain, form]) _ _ _ _

theorem execCtxparkResume_landed (via : Via) (ci : CtlInsn) (s : State) : Landed s (execCtxparkResume via ci s) :=
    State.plainCtl_landed fun s form => by simp [form]

theorem execTiermoveMove_landed (via : Via) (ci : CtlInsn) (s : State) : Landed s (execTiermoveMove via ci s) :=
    State.runCtl_landed (moveCheck_anchored ci) (fun s c form => by simp [plain, form]) _ _ _ _

theorem execTiermoveRelease_landed (via : Via) (ci : CtlInsn) (s : State) : Landed s (execTiermoveRelease via ci s) :=
    State.runCtl_landed (pageFreeCheck_anchored ci) (fun s c form => by simp [plain, form]) _ _ _ _

theorem execTiermoveEvacuate_landed (via : Via) (ci : CtlInsn) (s : State) : Landed s (execTiermoveEvacuate via ci s) :=
    State.plainCtl_landed fun s form => by simp [form]

theorem execTiermoveConfig_landed (via : Via) (ci : CtlInsn) (s : State) : Landed s (execTiermoveConfig via ci s) :=
    State.plainCtl_landed fun s form => by simp [form]

/-! ### Pages, ticks and errors -/

theorem execPageEviction_landed (p : PartId) (near : Bool) (s : State) : Landed s (execPageEviction p near s) := by
  unfold execPageEviction
  (repeat' split) <;> refine (landed_next ..).mpr fun form => ?_
  all_goals simp [form]

theorem execBlockScrubDone_landed (g : BlockId) (s : State) : Landed s (execBlockScrubDone g s) := by
  unfold execBlockScrubDone
  (repeat' split) <;> refine (landed_next ..).mpr fun form => ?_
  all_goals simp [form]

theorem execTrayScrubDone_landed (t : TrayId) (s : State) : Landed s (execTrayScrubDone t s) := by
  unfold execTrayScrubDone
  dsimp only
  (repeat' split) <;> refine (landed_next ..).mpr fun form => ?_
  all_goals simp [form]

theorem execAccAging_landed (p : PartId) (s : State) : Landed s (execAccAging p s) := by
  unfold execAccAging
  dsimp only
  (repeat' split) <;> refine (landed_next ..).mpr fun form => ?_
  all_goals simp [form]

theorem execTickMarker_landed (lane : Lane) (m : Slot) (ns : Ns) (s : State) : Landed s (execTickMarker lane m ns s) := by
  unfold execTickMarker
  dsimp only
  (repeat' split) <;> refine (landed_next ..).mpr fun form => ?_
  all_goals simp [form]

theorem execHealthSubwindowDrop_landed (s : State) : Landed s (execHealthSubwindowDrop s) := by
  unfold execHealthSubwindowDrop
  dsimp only
  (repeat' split) <;> refine (landed_next ..).mpr fun form => ?_
  all_goals simp [form]

theorem execTickBoundary_landed (watts : BitVec 16) (s : State) : Landed s (execTickBoundary watts s) := by
  unfold execTickBoundary
  dsimp only
  (repeat' split) <;> refine (landed_next ..).mpr fun form => ?_
  all_goals simp [form]

theorem execTagPoolRebuild_landed (q : QId) (deid : Eid) (s : State) : Landed s (execTagPoolRebuild q deid s) := by
  unfold execTagPoolRebuild
  dsimp only
  (repeat' split) <;> refine (landed_next ..).mpr fun form => ?_
  all_goals simp [form]

theorem execTagHoldEnd_landed (q : QId) (deid : Eid) (tag : Tag) (s : State) : Landed s (execTagHoldEnd q deid tag s) := by
  unfold execTagHoldEnd
  dsimp only
  (repeat' split) <;> refine (landed_next ..).mpr fun form => ?_
  all_goals simp [form]

theorem execUncorrectableError_landed (site : UeSite) (s : State) : Landed s (execUncorrectableError site s) := by
  unfold execUncorrectableError
  dsimp only
  (repeat' split) <;> refine (landed_next ..).mpr fun form => ?_
  all_goals simp [form]

theorem execCorrectedError_landed (site : CeSite) (n : BitVec 16) (s : State) : Landed s (execCorrectedError site n s) := by
  unfold execCorrectedError
  dsimp only
  (repeat' split) <;> refine (landed_next ..).mpr fun form => ?_
  all_goals simp [form]

theorem execEngineUnresponsive_landed (g : BlockId) (x : Eng) (s : State) : Landed s (execEngineUnresponsive g x s) := by
  unfold execEngineUnresponsive
  dsimp only
  (repeat' split) <;> refine (landed_next ..).mpr fun form => ?_
  all_goals simp [form]

/-! ### Homes -/

theorem execConflictTableServe_landed (g : BlockId) (s : State) : Landed s (execConflictTableServe g s) := by
  unfold execConflictTableServe
  split
  next => exact (landed_next ..).mpr id
  next p _ =>
    refine (landed_next ..).mpr fun form => State.serveAside_formed _ _ _ _ ?_
    exact (State.Anchored.foldl (fun t l => t.startHot_anchored g.toNat p l) _ _).formed form

theorem execHotPinEnd_landed (g : BlockId) (slot : BitVec 4) (s : State) : Landed s (execHotPinEnd g slot s) := by
  unfold execHotPinEnd
  (repeat' split) <;> refine (landed_next ..).mpr fun form => ?_
  all_goals simp [form]

theorem execSnoopSlow_landed (g : BlockId) (line : BitVec 45) (s : State) : Landed s (execSnoopSlow g line s) := by
  unfold execSnoopSlow
  dsimp only
  (repeat' split) <;> refine (landed_next ..).mpr fun form => ?_
  all_goals simp [form]

theorem execDeathWalkDone_landed (eid : Eid) (inc : Inc) (s : State) : Landed s (execDeathWalkDone eid inc s) := by
  refine (landed_next ..).mpr fun form => State.Formed.foldl (fun t x form => ?_) _ form
  dsimp only
  split
  next => exact form
  next p _ =>
    have walked := State.deathWalk_anchored (t.updBlk x.1 (fun b => { b with walks := b.walks.erase (.death eid inc) })) x.1 p eid inc
    split
    next => exact walked.formed form
    next => exact (State.raise_anchored ..).formed (walked.formed form)

/-! ### Control instructions of links -/

theorem execLinkctlPortcfg_landed (via : Via) (ci : CtlInsn) (s : State) : Landed s (execLinkctlPortcfg via ci s) :=
    State.plainCtl_landed fun s form => by simp [form]

theorem execLinkctlRestart_landed (via : Via) (ci : CtlInsn) (s : State) : Landed s (execLinkctlRestart via ci s) :=
    State.plainCtl_landed fun s form => by simp [form]

theorem execLinkctlCredit_landed (via : Via) (ci : CtlInsn) (s : State) : Landed s (execLinkctlCredit via ci s) :=
    State.plainCtl_landed fun s form => by simp [form]

theorem execLinkctlAdmit_landed (via : Via) (ci : CtlInsn) (s : State) : Landed s (execLinkctlAdmit via ci s) := State.plainCtl_landed fun s form => by simp [form]

theorem execLinkctlTrunkent_landed (via : Via) (ci : CtlInsn) (s : State) : Landed s (execLinkctlTrunkent via ci s) :=
    State.plainCtl_landed fun s form => by simp [form]

theorem execLinkctlDead_landed (via : Via) (ci : CtlInsn) (s : State) : Landed s (execLinkctlDead via ci s) := State.plainCtl_landed fun s form => by simp [form]

theorem execLinkctlRemote_landed (via : Via) (ci : CtlInsn) (s : State) : Landed s (execLinkctlRemote via ci s) :=
    State.plainCtl_landed fun s form => by simp [form]

theorem execLinkctlTicksrc_landed (via : Via) (ci : CtlInsn) (s : State) : Landed s (execLinkctlTicksrc via ci s) :=
    State.plainCtl_landed fun s form => by simp [form]

theorem execLinkctlQcfg_landed (via : Via) (ci : CtlInsn) (s : State) : Landed s (execLinkctlQcfg via ci s) := State.plainCtl_landed fun s form => by simp [form]

theorem execLinkctlBufcfg_landed (via : Via) (ci : CtlInsn) (s : State) : Landed s (execLinkctlBufcfg via ci s) :=
    State.plainCtl_landed fun s form => by simp [form]

theorem execLinkctlOrder_landed (via : Via) (ci : CtlInsn) (s : State) : Landed s (execLinkctlOrder via ci s) := State.plainCtl_landed fun s form => by simp [form]

theorem execLinkctlTrunk_landed (via : Via) (ci : CtlInsn) (s : State) : Landed s (execLinkctlTrunk via ci s) := State.plainCtl_landed fun s form => by simp [form]

theorem execLinkctlShaper_landed (via : Via) (ci : CtlInsn) (s : State) : Landed s (execLinkctlShaper via ci s) :=
    State.plainCtl_landed fun s form => by simp [form]

theorem execLinkctlPolicer_landed (via : Via) (ci : CtlInsn) (s : State) : Landed s (execLinkctlPolicer via ci s) :=
    State.plainCtl_landed fun s form => by simp [form]

theorem execLinkctlLoadcfg_landed (via : Via) (ci : CtlInsn) (s : State) : Landed s (execLinkctlLoadcfg via ci s) :=
    State.plainCtl_landed fun s form => by simp [form]

theorem execLinkctlEgress_landed (via : Via) (ci : CtlInsn) (s : State) : Landed s (execLinkctlEgress via ci s) :=
    State.plainCtl_landed fun s form => by simp [form]

theorem execLinkctlManager_landed (via : Via) (ci : CtlInsn) (s : State) : Landed s (execLinkctlManager via ci s) :=
    State.plainCtl_landed fun s form => by simp [form]

theorem execLinkctlTraycfg_landed (via : Via) (ci : CtlInsn) (s : State) : Landed s (execLinkctlTraycfg via ci s) :=
    State.plainCtl_landed fun s form => by simp [form]

end Sys2Proof.Machine
end

section
/-! The commands of the module, of start-up, of management and of contexts keep the canonical form of pool memory. -/

namespace Sys2Proof.Machine

/-! ### Trays, sensors, resets and start-up -/

theorem execTrayCableIn_landed (t : TrayId) (s : State) : Landed s (execTrayCableIn t s) := by
  unfold execTrayCableIn
  dsimp only
  (repeat' split) <;> refine (landed_next ..).mpr fun form => ?_
  all_goals simp [form]

theorem execTrayCableOut_landed (t : TrayId) (s : State) : Landed s (execTrayCableOut t s) := by
  unfold execTrayCableOut
  dsimp only
  (repeat' split) <;> refine (landed_next ..).mpr fun form => ?_
  all_goals simp [form]

theorem execTrayReady_landed (t : TrayId) (frames : BitVec 16) (rate32 : Bool) (s : State) : Landed s (execTrayReady t frames rate32 s) := by
  unfold execTrayReady
  dsimp only
  (repeat' split) <;> refine (landed_next ..).mpr fun form => ?_
  all_goals simp [form]

theorem execTrayLinkLoss_landed (t : TrayId) (s : State) : Landed s (execTrayLinkLoss t s) := by
  unfold execTrayLinkLoss
  dsimp only
  (repeat' split) <;> refine (landed_next ..).mpr fun form => ?_
  all_goals simp [form]

theorem execTrayRetrainFail_landed (t : TrayId) (s : State) : Landed s (execTrayRetrainFail t s) := by
  unfold execTrayRetrainFail
  dsimp only
  (repeat' split) <;> refine (landed_next ..).mpr fun form => ?_
  all_goals simp [form]

theorem execAttnPressBegin_landed (ms : Nat) (s : State) : Landed s (execAttnPressBegin ms s) := by
  unfold execAttnPressBegin
  dsimp only
  (repeat' split) <;> refine (landed_next ..).mpr fun form => ?_
  all_goals simp [form]

theorem execAttnPressEnd_landed (ms : Nat) (s : State) : Landed s (execAttnPressEnd ms s) := by
  unfold execAttnPressEnd
  dsimp only
  (repeat' split) <;> refine (landed_next ..).mpr fun form => ?_
  all_goals simp [form]

theorem execAttnLongPress_landed (ms : Nat) (s : State) : Landed s (execAttnLongPress ms s) := by
  unfold execAttnLongPress
  dsimp only
  (repeat' split) <;> refine (landed_next ..).mpr fun form => ?_
  all_goals simp [form]

theorem execLatchOpen_landed (s : State) : Landed s (execLatchOpen s) := by
  unfold execLatchOpen
  dsimp only
  (repeat' split) <;> refine (landed_next ..).mpr fun form => ?_
  all_goals simp [form]

theorem execP1IdleEntry_landed (s : State) : Landed s (execP1IdleEntry s) := by
  unfold execP1IdleEntry
  (repeat' split) <;> refine (landed_next ..).mpr fun form => ?_
  all_goals simp [form]

theorem execThermalWarning_landed (die : Fin 5) (temp : BitVec 16) (s : State) : Landed s (execThermalWarning die temp s) := by
  unfold execThermalWarning
  dsimp only
  (repeat' split) <;> refine (landed_next ..).mpr fun form => ?_
  all_goals simp [form]

theorem execThermalRecovery_landed (die : Fin 5) (temp : BitVec 16) (s : State) : Landed s (execThermalRecovery die temp s) := by
  unfold execThermalRecovery
  dsimp only
  (repeat' split) <;> refine (landed_next ..).mpr fun form => ?_
  all_goals simp [form]

theorem execThermalShutdown_landed (sensor : Fin 43) (temp : BitVec 16) (s : State) : Landed s (execThermalShutdown sensor temp s) := by
  unfold execThermalShutdown
  (repeat' split) <;> refine (landed_next ..).mpr fun form => ?_
  all_goals simp [form]

theorem execStackThrottle_landed (stack : BitVec 5) (temp : BitVec 16) (s : State) : Landed s (execStackThrottle stack temp s) := by
  unfold execStackThrottle
  dsimp only
  (repeat' split) <;> refine (landed_next ..).mpr fun form => ?_
  all_goals simp [form]

theorem execThrottleExit_landed (stack : BitVec 5) (temp : BitVec 16) (s : State) : Landed s (execThrottleExit stack temp s) := by
  unfold execThrottleExit
  dsimp only
  (repeat' split) <;> refine (landed_next ..).mpr fun form => ?_
  all_goals simp [form]

theorem execSensorWarning_landed (sensor : Fin 43) (temp : BitVec 16) (s : State) : Landed s (execSensorWarning sensor temp s) := by
  unfold execSensorWarning
  dsimp only
  (repeat' split) <;> refine (landed_next ..).mpr fun form => ?_
  all_goals simp [form]

theorem execSensorWarningClear_landed (sensor : Fin 43) (temp : BitVec 16) (s : State) : Landed s (execSensorWarningClear sensor temp s) := by
  unfold execSensorWarningClear
  dsimp only
  (repeat' split) <;> refine (landed_next ..).mpr fun form => ?_
  all_goals simp [form]

theorem execPwrGoodAssert_landed (s : State) : Landed s (execPwrGoodAssert s) := by
  unfold execPwrGoodAssert
  dsimp only
  (repeat' split) <;> refine (landed_next ..).mpr fun form => ?_
  all_goals simp [form]

theorem execPwrGoodDeassert_landed (s : State) : Landed s (execPwrGoodDeassert s) := by
  unfold execPwrGoodDeassert
  dsimp only
  (repeat' split) <;> refine (landed_next ..).mpr fun form => ?_
  all_goals simp [form]

theorem execSquarePowerLoss_landed (s : State) : Landed s (execSquarePowerLoss s) := (landed_next ..).mpr fun form => by simp [form]

theorem execModResetAssert_landed (s : State) : Landed s (execModResetAssert s) := by
  unfold execModResetAssert
  dsimp only
  (repeat' split) <;> refine (landed_next ..).mpr fun form => ?_
  all_goals simp [form]

theorem execModResetRelease_landed (s : State) : Landed s (execModResetRelease s) := by
  unfold execModResetRelease
  (repeat' split) <;> refine (landed_next ..).mpr fun form => ?_
  all_goals simp [form]

theorem execStartupStepDone_landed (r : StepResult) (ms : BitVec 32) (s : State) : Landed s (execStartupStepDone r ms s) := by
  unfold execStartupStepDone
  have same : Landed s (.next s) := (landed_next ..).mpr id
  refine landed_ite same ?_
  extract_lets b t
  have begun : s.Anchored t := ⟨rfl, rfl⟩
  generalize s.boot.step.toNat = n
  cases r with
  | ok lanes bad =>
    rcases n with _ | _ | _ | _ | _ | _ | n
    · exact same
    · exact landed_if (begun.trans (State.step1Done_anchored ..))
    · exact State.Anchored.landed ⟨rfl, rfl⟩
    · exact landed_if ⟨rfl, rfl⟩
    · exact State.Anchored.landed ⟨rfl, rfl⟩
    · exact (begun.trans ((State.holdOut_anchored ..).trans (State.startupEnd_anchored ..))).landed
    · exact same
  | imageA =>
    rcases n with _ | _ | _ | _ | _ | _ | n
    · exact same
    · exact landed_if (begun.trans (State.step1Done_anchored ..))
    all_goals exact same
  | noImage | fuse =>
    rcases n with _ | _ | _ | _ | _ | _ | n
    · exact same
    · exact landed_if (begun.trans (State.recovery_anchored ..))
    all_goals exact same
  | pll | d2d =>
    rcases n with _ | _ | _ | _ | _ | _ | n
    · exact same
    · exact same
    · exact (begun.trans (State.recovery_anchored ..)).landed
    all_goals exact same

theorem execStackTrainingDone_landed (stack : BitVec 5) (full : Bool) (failed : BitVec 32) (s : State) : Landed s (execStackTrainingDone stack full failed s) := by
  unfold execStackTrainingDone
  (repeat' split) <;> refine (landed_next ..).mpr fun form => ?_
  all_goals simp [form]

theorem execDividerRampDone_landed (domain : BitVec 5) (s : State) : Landed s (execDividerRampDone domain s) := by
  unfold execDividerRampDone
  dsimp only
  (repeat' split) <;> refine (landed_next ..).mpr fun form => ?_
  all_goals simp [form]

/-! ### Publishing, registers and security -/

theorem execPublishDecision_landed (g : BlockId) (s : State) : Landed s (execPublishDecision g s) := by
  unfold execPublishDecision
  extract_lets h
  split
  next u p _ _ =>
    dsimp only
    split
    next => exact (State.pubEnd_anchored ..).landed
    next =>
      split
      next => exact (State.pubEnd_anchored ..).landed
      next =>
        refine landed_ite ((landed_next ..).mpr id) (landed_ite ((landed_next ..).mpr id) ?_)
        split
        next => exact landed_ite (State.pubDecide_anchored ..).landed ((landed_next ..).mpr id)
        next =>
          have settled := s.settleOwner_anchored h p u.root
          refine landed_ite ((landed_next ..).mpr id) (landed_ite (settled.trans (State.pubDecide_anchored ..)).landed (landed_ite settled.landed ?_))
          split
          next => exact settled.landed
          next sent => exact ((settled.trans (State.snoops_anchored sent)).trans (State.updEnt_anchored ..)).landed
  next => exact (landed_next ..).mpr id

theorem execPublishComplete_landed (g : BlockId) (s : State) : Landed s (execPublishComplete g s) := by
  unfold execPublishComplete
  dsimp only
  (repeat' split) <;> refine (landed_next ..).mpr fun form => ?_
  all_goals simp [form]

theorem execCtlwGoWrite_landed (m : Mctp) (v : BitVec 64) (s : State) : Landed s (execCtlwGoWrite m v s) := by
  unfold execCtlwGoWrite
  (repeat' split) <;> refine (landed_next ..).mpr fun form => ?_
  all_goals simp [form]

theorem execI3cRegisterAccess_landed (req : List Byte) (s : State) : Landed s (execI3cRegisterAccess req s) := by
  refine landed_ite (landed_fault _ _) ?_
  dsimp only
  (repeat' split) <;> refine (landed_next ..).mpr fun form => ?_
  · exact form
  · exact form
  · exact form
  · exact State.mgmtWrite_formed _ _ _ form

theorem execSpdmGetCapabilities_landed (m : Mctp) (s : State) : Landed s (execSpdmGetCapabilities m s) := State.onSpdm_landed (fun s form => by simp [form]) _

theorem execSpdmNegotiateAlgorithms_landed (m : Mctp) (p384 sha384 : Bool) (s : State) : Landed s (execSpdmNegotiateAlgorithms m p384 sha384 s) :=
    State.onSpdm_landed (fun s form => by simp [form]) _

theorem execSpdmGetDigests_landed (m : Mctp) (s : State) : Landed s (execSpdmGetDigests m s) := by
  refine State.onSpdm_landed (fun s form => ?_) _
  dsimp only
  simp [form]

theorem execSpdmGetCertificate_landed (m : Mctp) (slot : BitVec 3) (s : State) : Landed s (execSpdmGetCertificate m slot s) := by
  refine State.onSpdm_landed (fun s form => ?_) _
  (repeat' split) <;> simp [form]

theorem execSpdmChallenge_landed (m : Mctp) (slot : BitVec 3) (nonce : BitVec 256) (s : State) : Landed s (execSpdmChallenge m slot nonce s) := by
  refine State.onSpdm_landed (fun s form => ?_) _
  dsimp only
  (repeat' split) <;> simp [form]

theorem execSpdmGetMeasurements_landed (m : Mctp) (index : BitVec 8) (signed : Bool) (nonce : BitVec 256) (s : State) : Landed s (execSpdmGetMeasurements m index signed nonce s) := by
  unfold execSpdmGetMeasurements
  dsimp only
  (repeat' split) <;> refine (landed_next ..).mpr fun form => ?_
  all_goals simp [form]

theorem execSpdmLcset_landed (m : Mctp) (goal : LifeCycle) (token : Bool) (s : State) : Landed s (execSpdmLcset m goal token s) := by
  refine State.onSpdm_landed (fun s form => ?_) _
  dsimp only
  (repeat' split) <;> simp [form]

theorem execJtagUnlock_landed (level : DebugLevel) (token : Bool) (s : State) : Landed s (execJtagUnlock level token s) := by
  unfold execJtagUnlock
  (repeat' split) <;> refine (landed_next ..).mpr fun form => ?_
  all_goals simp [form]

/-! ### Calibration -/

theorem execCalsetApply_landed (via : Via) (ci : CtlInsn) (s : State) : Landed s (execCalsetApply via ci s) := State.plainCtl_landed fun s form => by simp [form]

theorem execCalsetRemove_landed (via : Via) (ci : CtlInsn) (s : State) : Landed s (execCalsetRemove via ci s) := State.plainCtl_landed fun s form => by simp [form]

theorem execCalsetSave_landed (via : Via) (ci : CtlInsn) (s : State) : Landed s (execCalsetSave via ci s) :=
    State.runCtl_landed (looks_anchored _) (fun s c form => by simp [form]) _ _ _ _

theorem execCalsetSaveDone_landed (memUnits sdsUnits : BitVec 8) (s : State) : Landed s (execCalsetSaveDone memUnits sdsUnits s) := by
  unfold execCalsetSaveDone
  dsimp only
  (repeat' split) <;> refine (landed_next ..).mpr fun form => ?_
  all_goals simp [form]

/-! ### Programs and slices -/

theorem execSubmit_landed (q : QId) (s : State) : Landed s (execSubmit q s) := by
  unfold execSubmit
  extract_lets u
  have sunk : s.Anchored u := State.dropSinks_anchored ..
  split
  next => exact sunk.landed
  next h t head =>
    refine landed_ite sunk.landed ?_
    have taken : s.Anchored t := sunk.trans (State.takeHead_anchored head)
    dsimp only
    split
    next => exact (taken.trans (State.sendSq_anchored ..)).landed
    next => exact (State.Anchored.trans (t := t.updCtx _ _) taken (State.imageRead_anchored ..)).landed

theorem execProgramImageLoaded_landed (c : CtxId) (s : State) : Landed s (execProgramImageLoaded c s) := by
  unfold execProgramImageLoaded
  dsimp only
  (repeat' split) <;> refine (landed_next ..).mpr fun form => ?_
  all_goals simp [form]

theorem execLddataResponse_landed (g : BlockId) (s : State) : Landed s (execLddataResponse g s) := (landed_next ..).mpr fun form => by simp [form]

theorem execRequestResend_landed (c : CtxId) (id : Nat) (s : State) : Landed s (execRequestResend c id s) := by
  unfold execRequestResend
  dsimp only
  (repeat' split) <;> refine (landed_next ..).mpr fun form => ?_
  all_goals simp [form]

theorem execRequestTimeout_landed (c : CtxId) (id : Nat) (s : State) : Landed s (execRequestTimeout c id s) := by
  unfold execRequestTimeout
  dsimp only
  (repeat' split) <;> refine (landed_next ..).mpr fun form => ?_
  all_goals simp [form]

theorem execSliceStart_landed (g : BlockId) (e : Eng) (s : State) : Landed s (execSliceStart g e s) := by
  unfold execSliceStart
  (repeat' split) <;> refine (landed_next ..).mpr fun form => ?_
  all_goals simp [form]

theorem execSliceOverrun_landed (g : BlockId) (e : Eng) (extra : BitVec 16) (s : State) : Landed s (execSliceOverrun g e extra s) := by
  unfold execSliceOverrun
  (repeat' split) <;> refine (landed_next ..).mpr fun form => ?_
  all_goals simp [form]

theorem execSliceAbort_landed (g : BlockId) (e : Eng) (s : State) : Landed s (execSliceAbort g e s) := by
  unfold execSliceAbort
  dsimp only
  (repeat' split) <;> refine (landed_next ..).mpr fun form => ?_
  all_goals simp [form]

theorem execStreamConsPoll_landed (c : CtxId) (s : State) : Landed s (execStreamConsPoll c s) := by
  unfold execStreamConsPoll
  dsimp only
  (repeat' split) <;> refine (landed_next ..).mpr fun form => ?_
  all_goals simp [form]

end Sys2Proof.Machine
end

section
/-! A step keeps the canonical form of pool memory. -/

namespace Sys2Proof.Machine

/-- Every command keeps the canonical form of pool memory. -/
theorem exec_landed (i : Instr) (s : State) : Landed s (exec i s) := by
  cases i with
  | ld | st | stLostclr | move | fill | prefetch | aadd | amin | amax | acas | rjoin | rwait | gather | scatter | mcast | fscan | tallyClear | tallyAccum
    | tallyMerge | tallyImage | tallyFinal | score | simb | publish | hint | pin =>
    exact State.issue_landed _ _ _
  | rcontrib | loop | endloop | skip | waitt | fence | yield | endProg | reservedOpcode =>
    exact State.stage_landed fun s i o => by simp
  | queueAdmissionRetry | reseqGapTimeout | contrib | partialSum | slicego | sliceOpen | sliceDeliveryDone | collEnd | drainWindowEnd | homeEntryArrival
    | migrationChunkCopy | pagePromotion | recallWalkDone | frameScrubbed | contextPark | contextBringIn | contextSettled | ldRequest | stRequest
    | atRequest | pflistRequest | rdshared | rdown | wrinv | wrback | evict | lostclr | snpresp | snprespd | replayCacheExpiry | latchClose | waittExpiry
    | sqSelfWrite | ckPeriphEnWrite | sqLedCtlWrite | nakResponse | stdoneResponse | atdoneResponse | pfdataResponse | wrdoneResponse =>
    exact (landed_next ..).mpr fun form => by simp [form]
  | jreq | jconfirm =>
    exact State.onJoin_landed (fun s l m form => by simp [form]) _ _
  | tickInEdge | markerLossTimeout | holdoverExpiry | trayTrainFail | caseOpen | voltageGlitch | temperatureGlitch | powerTransitionDone | watchdog
    | crystalStable | crystalRetry | clockSourceLoss | registerWrite | pcieHotReset | i3cTargetReset | spdmGetVersion | jtagLock =>
    exact landed_ite ((landed_next ..).mpr fun form => by simp [form]) ((landed_next ..).mpr id)
  | pwReqP0 | pwReqP2 | pwReqP3 | pwReqP4 | pwReqSwreset =>
    exact State.pwReq_landed _ _ _
  | dataFlit lane f => exact execDataFlit_landed lane f s
  | idleFlit lane f => exact execIdleFlit_landed lane f s
  | alignDone lane => exact execAlignDone_landed lane s
  | replayTimeout lane => exact execReplayTimeout_landed lane s
  | lanesLocked lane trained => exact execLanesLocked_landed lane trained s
  | trainTimeout lane => exact execTrainTimeout_landed lane s
  | alignTimeout lane => exact execAlignTimeout_landed lane s
  | retrainSuccess lane => exact execRetrainSuccess_landed lane s
  | retrainTimeout lane => exact execRetrainTimeout_landed lane s
  | lossOfSignal lane => exact execLossOfSignal_landed lane s
  | jconfirmTimeout lane => exact execJconfirmTimeout_landed lane s
  | joinDecisionTimeout lane => exact execJoinDecisionTimeout_landed lane s
  | jreqResend lane ns => exact execJreqResend_landed lane ns s
  | probeSend lane ns => exact execProbeSend_landed lane ns s
  | probe lane f ns turn => exact execProbe_landed lane f ns turn s
  | echo lane f ns => exact execEcho_landed lane f ns s
  | notice lane f => exact execNotice_landed lane f s
  | cableIn group => exact execCableIn_landed group s
  | cableOut group => exact execCableOut_landed group s
  | joinReply lane f => exact execJoinReply_landed lane f s
  | packetIngress lane tc => exact execPacketIngress_landed lane tc s
  | packetEgress lane ns => exact execPacketEgress_landed lane ns s
  | bankgive via ci => exact execBankgive_landed via ci s
  | bankHandover g => exact execBankHandover_landed g s
  | collectiveDeadline g n => exact execCollectiveDeadline_landed g n s
  | endWaitTimeout g n => exact execEndWaitTimeout_landed g n s
  | collReservationRelease g n => exact execCollReservationRelease_landed g n s
  | mapsetBind via ci => exact execMapsetBind_landed via ci s
  | mapsetRoute via ci => exact execMapsetRoute_landed via ci s
  | mapsetGroup via ci => exact execMapsetGroup_landed via ci s
  | mapsetCommit via ci => exact execMapsetCommit_landed via ci s
  | mapsetUnbind via ci => exact execMapsetUnbind_landed via ci s
  | partsetCreate via ci => exact execPartsetCreate_landed via ci s
  | partsetResize via ci => exact execPartsetResize_landed via ci s
  | partsetRelease via ci => exact execPartsetRelease_landed via ci s
  | partsetTray via ci => exact execPartsetTray_landed via ci s
  | scrub via ci => exact execScrub_landed via ci s
  | jobkill via ci => exact execJobkill_landed via ci s
  | ctxparkPark via ci => exact execCtxparkPark_landed via ci s
  | ctxparkResume via ci => exact execCtxparkResume_landed via ci s
  | tiermoveMove via ci => exact execTiermoveMove_landed via ci s
  | tiermoveRelease via ci => exact execTiermoveRelease_landed via ci s
  | tiermoveEvacuate via ci => exact execTiermoveEvacuate_landed via ci s
  | tiermoveConfig via ci => exact execTiermoveConfig_landed via ci s
  | pageEviction p near => exact execPageEviction_landed p near s
  | blockScrubDone g => exact execBlockScrubDone_landed g s
  | trayScrubDone t => exact execTrayScrubDone_landed t s
  | accAging p => exact execAccAging_landed p s
  | tickMarker lane m ns => exact execTickMarker_landed lane m ns s
  | healthSubwindowDrop => exact execHealthSubwindowDrop_landed s
  | tickBoundary watts => exact execTickBoundary_landed watts s
  | tagPoolRebuild q deid => exact execTagPoolRebuild_landed q deid s
  | tagHoldEnd q deid tag => exact execTagHoldEnd_landed q deid tag s
  | uncorrectableError site => exact execUncorrectableError_landed site s
  | correctedError site n => exact execCorrectedError_landed site n s
  | engineUnresponsive g x => exact execEngineUnresponsive_landed g x s
  | conflictTableServe g => exact execConflictTableServe_landed g s
  | hotPinEnd g slot => exact execHotPinEnd_landed g slot s
  | snoopSlow g line => exact execSnoopSlow_landed g line s
  | deathWalkDone eid inc => exact execDeathWalkDone_landed eid inc s
  | linkctlPortcfg via ci => exact execLinkctlPortcfg_landed via ci s
  | linkctlRestart via ci => exact execLinkctlRestart_landed via ci s
  | linkctlCredit via ci => exact execLinkctlCredit_landed via ci s
  | linkctlAdmit via ci => exact execLinkctlAdmit_landed via ci s
  | linkctlTrunkent via ci => exact execLinkctlTrunkent_landed via ci s
  | linkctlDead via ci => exact execLinkctlDead_landed via ci s
  | linkctlRemote via ci => exact execLinkctlRemote_landed via ci s
  | linkctlTicksrc via ci => exact execLinkctlTicksrc_landed via ci s
  | linkctlQcfg via ci => exact execLinkctlQcfg_landed via ci s
  | linkctlBufcfg via ci => exact execLinkctlBufcfg_landed via ci s
  | linkctlOrder via ci => exact execLinkctlOrder_landed via ci s
  | linkctlTrunk via ci => exact execLinkctlTrunk_landed via ci s
  | linkctlShaper via ci => exact execLinkctlShaper_landed via ci s
  | linkctlPolicer via ci => exact execLinkctlPolicer_landed via ci s
  | linkctlLoadcfg via ci => exact execLinkctlLoadcfg_landed via ci s
  | linkctlEgress via ci => exact execLinkctlEgress_landed via ci s
  | linkctlManager via ci => exact execLinkctlManager_landed via ci s
  | linkctlTraycfg via ci => exact execLinkctlTraycfg_landed via ci s
  | trayCableIn t => exact execTrayCableIn_landed t s
  | trayCableOut t => exact execTrayCableOut_landed t s
  | trayReady t frames rate32 => exact execTrayReady_landed t frames rate32 s
  | trayLinkLoss t => exact execTrayLinkLoss_landed t s
  | trayRetrainFail t => exact execTrayRetrainFail_landed t s
  | attnPressBegin ms => exact execAttnPressBegin_landed ms s
  | attnPressEnd ms => exact execAttnPressEnd_landed ms s
  | attnLongPress ms => exact execAttnLongPress_landed ms s
  | latchOpen => exact execLatchOpen_landed s
  | p1IdleEntry => exact execP1IdleEntry_landed s
  | thermalWarning die temp => exact execThermalWarning_landed die temp s
  | thermalRecovery die temp => exact execThermalRecovery_landed die temp s
  | thermalShutdown sensor temp => exact execThermalShutdown_landed sensor temp s
  | stackThrottle stack temp => exact execStackThrottle_landed stack temp s
  | throttleExit stack temp => exact execThrottleExit_landed stack temp s
  | sensorWarning sensor temp => exact execSensorWarning_landed sensor temp s
  | sensorWarningClear sensor temp => exact execSensorWarningClear_landed sensor temp s
  | pwrGoodAssert => exact execPwrGoodAssert_landed s
  | pwrGoodDeassert => exact execPwrGoodDeassert_landed s
  | squarePowerLoss => exact execSquarePowerLoss_landed s
  | modResetAssert => exact execModResetAssert_landed s
  | modResetRelease => exact execModResetRelease_landed s
  | startupStepDone r ms => exact execStartupStepDone_landed r ms s
  | stackTrainingDone stack full failed => exact execStackTrainingDone_landed stack full failed s
  | dividerRampDone domain => exact execDividerRampDone_landed domain s
  | publishDecision g => exact execPublishDecision_landed g s
  | publishComplete g => exact execPublishComplete_landed g s
  | ctlwGoWrite m v => exact execCtlwGoWrite_landed m v s
  | i3cRegisterAccess req => exact execI3cRegisterAccess_landed req s
  | spdmGetCapabilities m => exact execSpdmGetCapabilities_landed m s
  | spdmNegotiateAlgorithms m p384 sha384 => exact execSpdmNegotiateAlgorithms_landed m p384 sha384 s
  | spdmGetDigests m => exact execSpdmGetDigests_landed m s
  | spdmGetCertificate m slot => exact execSpdmGetCertificate_landed m slot s
  | spdmChallenge m slot nonce => exact execSpdmChallenge_landed m slot nonce s
  | spdmGetMeasurements m index signed nonce => exact execSpdmGetMeasurements_landed m index signed nonce s
  | spdmLcset m goal token => exact execSpdmLcset_landed m goal token s
  | jtagUnlock level token => exact execJtagUnlock_landed level token s
  | calsetApply via ci => exact execCalsetApply_landed via ci s
  | calsetRemove via ci => exact execCalsetRemove_landed via ci s
  | calsetSave via ci => exact execCalsetSave_landed via ci s
  | calsetSaveDone memUnits sdsUnits => exact execCalsetSaveDone_landed memUnits sdsUnits s
  | submit q => exact execSubmit_landed q s
  | programImageLoaded c => exact execProgramImageLoaded_landed c s
  | lddataResponse g => exact execLddataResponse_landed g s
  | requestResend c id => exact execRequestResend_landed c id s
  | requestTimeout c id => exact execRequestTimeout_landed c id s
  | sliceStart g e => exact execSliceStart_landed g e s
  | sliceOverrun g e extra => exact execSliceOverrun_landed g e extra s
  | sliceAbort g e => exact execSliceAbort_landed g e s
  | streamConsPoll c => exact execStreamConsPoll_landed c s

/-- Settles O5: every command keeps the form, by its own lemma. -/
theorem stepKeepsMemoryForm : Obligations.StepKeepsMemoryForm := by
  intro s t sound went
  unfold step at went
  split at went
  next => exact Host.Outcome.next.inj went ▸ sound
  next c rest _ => exact exec_landed c { s with pending := rest } sound t went

end Sys2Proof.Machine
end
